-- ==== Sys2Proof/Word.lean ====
section
/-! DEFINITION. The word types of the device and their plainest operations (00 R4, R9). -/

namespace Sys2Proof

/-- A 64-bit scalar value (03 R61: every operand value is delivered as 64 bits). -/
abbrev Word := BitVec 64

/-- One byte of memory. -/
abbrev Byte := BitVec 8

/-- A 32-bit word of code, of tensor memory, of a register of BAR2. -/
abbrev Word32 := BitVec 32

/-- A cause code (18 R406: the cause field is 10 bits wide). -/
abbrev Cause := Nat

end Sys2Proof
end

