-- ==== Sys2Proof/Config.lean ====
section
/-! DEFINITION. What the manual leaves open: free values, constants with no body, so that a claim holds
whatever they are. Each is named in the assumption log. -/

namespace Sys2Proof.Config

/-- Which of the wall-time acts that are enabled comes next (02 R39, 05 R121: outside agents run on in
wall time in an order the manual does not give), by the model's counter `State.seq`, when
`State.choices` names none. Assumption 2. -/
opaque act : Nat → Nat

/-- A byte the manual calls unspecified (00 R7; 05 R138; 03 R74): by the model's counter `fresh`
and the byte's place. Assumption 5. -/
opaque freeByte : Nat → Nat → Byte

/-- A 32-bit element the manual calls unspecified (05 R136, 03 R74, 03 R86). Assumption 5. -/
opaque freeWord : Nat → Nat → Word32

/-- The bytes of the two signatures of an attestation quote over its bytes 0 to 255 (17 R399): the keys
and the signature schemes' randomness are outside the manual. Assumption 14. -/
opaque quoteSig : List Byte → Nat → Byte

/-- A stream's running signature with one bundle's effects folded in (02 R44): the manual does not give the function.
Assumption 59. -/
opaque foldSig : BitVec 128 → List Nat → BitVec 128

/-- The position, a multiple of 64, that the region manager chooses in the save area for the context of
the region of this number (18 R426 leaves it open). Assumption 15. -/
opaque savePos : Nat → Nat

end Sys2Proof.Config
end

