-- ==== Sys2Proof/Syntax.lean ====
section
/-! DEFINITION. The syntax: operands, the argument records of the families, the records an outside
event carries, and `Instr`, one constructor per row of spec/opcode_table.json. -/

namespace Sys2Proof

/-! ### Operands (03 R61, R64; 07 R170-R176; 08 R195) -/

/-- The last-result latches (03 R62). -/
inductive Latch | la0 | la1 | lm | lv | lx
  deriving DecidableEq, Repr

/-- The identifier values (03 R64), in the order of specifiers 0x50 to 0x59. -/
inductive Ident | x | y | w | h | stream | quad | qpos | part | launch | dev
  deriving DecidableEq, Repr

/-- A scalar operand (03 R61). -/
inductive SSrc
  | g (n : BitVec 6)
  | k (n : BitVec 3)
  | latch (l : Latch)
  | ident (i : Ident)
  | imm (v : BitVec 7)
  deriving DecidableEq, Repr

/-- A scalar destination (07 R176). -/
inductive SDst
  | g (n : BitVec 6)
  | k (n : BitVec 3)
  deriving DecidableEq, Repr

/-- The second source of a two-source scalar family: operand B, or imm16 with I = 1 (08 R194). -/
inductive SrcB
  | op (a : SSrc)
  | imm16 (v : BitVec 16)
  deriving DecidableEq, Repr

/-- A scalar guard: a predicate, possibly negated (07 R170, R171, R173). -/
structure Guard where
  p : BitVec 4
  neg : Bool
  deriving DecidableEq, Repr

/-- A predicate specifier (08 R195). -/
structure PSrc where
  p : BitVec 4
  inv : Bool
  deriving DecidableEq, Repr

/-- A vector-class operand (07 R175). -/
inductive VSrc
  | v (n : BitVec 5)
  | g (n : BitVec 6)
  | k (n : BitVec 3)
  | latch (l : Latch)
  | imm (v : BitVec 6)
  deriving DecidableEq, Repr

/-- The element formats, in the order of their codes 0x0 to 0xC (04 R94). -/
inductive Fmt | e4m3 | e5m2 | e2m3 | e3m2 | e2m1 | i8 | i4 | bf16 | f16 | f32 | i16 | i32 | e8m0
  deriving DecidableEq, Repr

/-- The rounding modes, in the order of their codes (04 R98). -/
inductive Rnd | rne | rtz | rup | rdn | sr
  deriving DecidableEq, Repr

/-- The scopes, in the order of their codes (05 R120). -/
inductive Scope | str | tile | quad | rgn | dev | sys
  deriving DecidableEq, Repr

/-- The ordering flavours, in the order of their codes (05 R123). -/
inductive Flav | plain | acq | rel | ar
  deriving DecidableEq, Repr

/-- The access widths of one, two, four and eight bytes. -/
inductive Wid | b | h | w | d
  deriving DecidableEq, Repr

/-- The operations of ATOM, ATOMR, RED, CE.OUTR and COL.RED, in the order of their codes (09 R233). -/
inductive AOp | add | and | or | xor | min | max | minu | maxu | fadd | swap | cas
  deriving DecidableEq, Repr

/-- The special registers, in the order of their numbers (03 R70). -/
inductive SReg | cyc | wall | bank | reentry | stitch | gauge | srpos | seed | level | accst
  deriving DecidableEq, Repr

/-- The scopes of a named barrier, codes 1 to 3 (09 R243, R244). -/
inductive BarScope | tile | quad | region
  deriving DecidableEq, Repr

/-! ### Argument records of the instruction families -/

/-- Two-source arithmetic (08 R196). -/
structure Alu2 where
  gd : Guard
  w : Bool
  d : SDst
  a : SSrc
  b : SrcB
  deriving DecidableEq, Repr

/-- Compare (08 R197); `d` is the destination predicate. -/
structure Cmp2 where
  gd : Guard
  w : Bool
  d : BitVec 4
  a : SSrc
  b : SrcB
  deriving DecidableEq, Repr

/-- Predicate logic (08 R198). -/
structure PLog where
  gd : Guard
  d : BitVec 4
  a : PSrc
  b : PSrc
  deriving DecidableEq, Repr

/-- SEL (08 R199). -/
structure SelA where
  gd : Guard
  d : SDst
  c : PSrc
  a : SSrc
  b : SrcB
  deriving DecidableEq, Repr

/-- The position and length of BFX and BFXS: immediate (`lm1` is the length less 1) or registers (08 R200). -/
inductive FieldSel
  | imm (p lm1 : BitVec 6)
  | reg (p l : SSrc)
  deriving DecidableEq, Repr

/-- BFX and BFXS (08 R200). -/
structure BfxA where
  gd : Guard
  d : SDst
  a : SSrc
  f : FieldSel
  deriving DecidableEq, Repr

/-- BFI (08 R200). -/
structure BfiA where
  gd : Guard
  d : SDst
  a : SSrc
  b : SSrc
  p : BitVec 6
  lm1 : BitVec 6
  deriving DecidableEq, Repr

/-- CLZ, CTZ, POPC (08 R201). -/
structure CntA where
  gd : Guard
  w : Bool
  d : SDst
  a : SSrc
  deriving DecidableEq, Repr

/-- AGEN2 (08 R202). -/
structure AgenA where
  gd : Guard
  d : SDst
  a : SSrc
  b : SSrc
  c : SSrc
  s1 : BitVec 6
  s2 : BitVec 6
  deriving DecidableEq, Repr

/-- LOOP and LOOPR share level, end displacement and guard (08 R210). -/
structure LoopA where
  gd : Guard
  n : BitVec 2
  e : BitVec 16
  deriving DecidableEq, Repr

/-- A local load (09 R225); `step` is the extension word's S (09 R223). -/
structure LdA where
  gd : Guard
  d : SDst
  a : SSrc
  b : SSrc
  c : SSrc
  imm : BitVec 16
  step : BitVec 20
  deriving DecidableEq, Repr

/-- A local store (09 R225); `b` is the data. -/
structure StA where
  gd : Guard
  a : SSrc
  b : SSrc
  c : SSrc
  imm : BitVec 16
  step : BitVec 20
  deriving DecidableEq, Repr

/-- LDX (09 R226). -/
structure LdxA where
  gd : Guard
  w : Wid
  s : Bool
  d : SDst
  a : SSrc
  c : SSrc
  dx : BitVec 8
  dy : BitVec 8
  step : BitVec 20
  deriving DecidableEq, Repr

/-- STX (09 R226). -/
structure StxA where
  gd : Guard
  w : Wid
  a : SSrc
  b : SSrc
  c : SSrc
  dx : BitVec 8
  dy : BitVec 8
  step : BitVec 20
  deriving DecidableEq, Repr

/-- XLATE (09 R227). -/
structure XlateA where
  gd : Guard
  h : BitVec 4
  a : SSrc
  b : SSrc
  c : SSrc
  imm : BitVec 16
  step : BitVec 20
  deriving DecidableEq, Repr

/-- Class, scope, flavour and displacement of a global access (09 R230). -/
structure GAtt where
  cls : BitVec 4
  scope : Scope
  flav : Flav
  d7 : BitVec 7
  deriving DecidableEq, Repr

/-- GLD (09 R231). -/
structure GldA where
  gd : Guard
  w : Wid
  s : Bool
  d : SDst
  h : BitVec 4
  b : SSrc
  att : GAtt
  step : BitVec 20
  deriving DecidableEq, Repr

/-- GST (09 R232). -/
structure GstA where
  gd : Guard
  w : Wid
  h : BitVec 4
  b : SSrc
  c : SSrc
  att : GAtt
  step : BitVec 20
  deriving DecidableEq, Repr

/-- ATOM and RED (09 R233); `dw` selects the 64-bit width. -/
structure AtomA where
  gd : Guard
  op : AOp
  dw : Bool
  h : BitVec 4
  b : SSrc
  c : SSrc
  att : GAtt
  step : BitVec 20
  deriving DecidableEq, Repr

/-- ATOMR (09 R236); `rid` is the extension word's record, absent when there is none (0x0B0 at issue). -/
structure AtomrA where
  op : AOp
  dw : Bool
  d : SDst
  h : BitVec 4
  b : SSrc
  c : SSrc
  att : GAtt
  rid : Option (BitVec 16)
  deriving DecidableEq, Repr

/-- VLD (10 R260). -/
structure VldA where
  gd : Guard
  lm : BitVec 3
  d : BitVec 5
  a : SSrc
  b : SSrc
  c : SSrc
  imm : BitVec 16
  step : BitVec 20
  deriving DecidableEq, Repr

/-- VST (10 R260); `b` is the data register. -/
structure VstA where
  gd : Guard
  lm : BitVec 3
  a : SSrc
  b : BitVec 5
  c : SSrc
  imm : BitVec 16
  step : BitVec 20
  deriving DecidableEq, Repr

/-- The element size of VGATH and VSCAT (10 R261). -/
inductive GWid | b | h | w
  deriving DecidableEq, Repr

/-- VGATH (10 R261); `x` is the index register. -/
structure VgathA where
  gd : Guard
  lm : BitVec 3
  z : GWid
  s : Bool
  d : BitVec 5
  a : SSrc
  x : BitVec 5
  c : SSrc
  imm : BitVec 16
  step : BitVec 20
  deriving DecidableEq, Repr

/-- VSCAT (10 R261); `x` is the index register, `b` the data register. -/
structure VscatA where
  gd : Guard
  lm : BitVec 3
  z : GWid
  x : BitVec 5
  b : BitVec 5
  c : SSrc
  imm : BitVec 16
  step : BitVec 20
  deriving DecidableEq, Repr

/-- A lane-mask guard (07 R170, R171; 10 R258: a negated guard inverts the mask). -/
structure VGuard where
  m : BitVec 3
  neg : Bool
  deriving DecidableEq, Repr

/-- The common fields of a long vector-class word (07 R174): element format, the two variant bits,
rounding, .SAT and immediate [15:4]. -/
structure VMod where
  gd : VGuard
  fmt : Fmt
  v4 : Bool
  v5 : Bool
  rnd : Rnd
  sat : Bool
  x : BitVec 12
  deriving DecidableEq, Repr

/-- A vector family with up to three vector-class sources and a vector destination. -/
structure VopA where
  m : VMod
  d : BitVec 5
  a : VSrc
  b : VSrc
  c : VSrc
  deriving DecidableEq, Repr

/-- A vector compare; `d` is the destination lane mask (10 R266). -/
structure VcmpA where
  m : VMod
  d : BitVec 3
  a : VSrc
  b : VSrc
  deriving DecidableEq, Repr

/-- A vector family with a scalar destination: VEXT, the reductions and VQSCALE (10 R269, R270, R273). -/
structure VscalA where
  m : VMod
  d : SDst
  a : BitVec 5
  b : VSrc
  deriving DecidableEq, Repr

/-- LMAND, LMOR, LMXOR, LMANDN (10 R276). -/
structure Lm2A where
  gd : VGuard
  d : BitVec 3
  a : BitVec 3
  b : BitVec 3
  deriving DecidableEq, Repr

/-- LMSET (10 R276). -/
structure LmsetA where
  gd : VGuard
  first : Bool
  d : BitVec 3
  a : VSrc
  deriving DecidableEq, Repr

/-- LMPOPC (10 R276). -/
structure LmpopcA where
  gd : VGuard
  d : SDst
  a : BitVec 3
  deriving DecidableEq, Repr

/-- The fields every matrix command shares (11 R284): guard, signal, wait code 0 to 20, wait delta, steps. -/
structure MxCom where
  gd : Guard
  sig : Bool
  wait : BitVec 5
  delta : BitVec 11
  sa : BitVec 14
  sb : BitVec 14
  deriving DecidableEq, Repr

/-- MMA and MMAS (11 R294). -/
structure MmaA where
  com : MxCom
  slot : BitVec 3
  set : Bool
  byp : Bool
  a : SSrc
  b : SSrc
  c : SSrc
  deriving DecidableEq, Repr

/-- A tensor operand (11 R300): a general block or an accumulator slot. -/
inductive TOp
  | blk (n : BitVec 4)
  | acc (s : BitVec 3)
  deriving DecidableEq, Repr

/-- MDRAIN (11 R301). -/
structure MdrainA where
  com : MxCom
  slot : BitVec 3
  byp : Bool
  a : SSrc
  c : SSrc
  deriving DecidableEq, Repr

/-- TMLD and TMST (11 R303). -/
structure TmA where
  com : MxCom
  t : TOp
  a : SSrc
  c : SSrc
  deriving DecidableEq, Repr

/-- MRSET and MCSET (11 R291); `range` carries the count source of .RANGE. -/
structure MaskA where
  gd : Guard
  n : BitVec 2
  a : SSrc
  range : Option SSrc
  deriving DecidableEq, Repr

/-- A copy or collective engine command (12 R306): reply destination, context, descriptor, operands. -/
structure EngA where
  gd : Guard
  rpl : Option SDst
  cx : BitVec 4
  ds : BitVec 4
  a : SSrc
  b : SSrc
  deriving DecidableEq, Repr

/-- COL.Q and COL.Q.FREE (12 R306, R322). -/
structure ColqA where
  gd : Guard
  rpl : Option SDst
  cx : BitVec 2
  ds : BitVec 4
  deriving DecidableEq, Repr

/-- SCH.ENQ, SCH.RAISE, SCH.POST (12 R326). -/
structure SchA where
  gd : Guard
  rpl : Option SDst
  a : SSrc
  b : SSrc
  deriving DecidableEq, Repr

/-! ### What an outside event carries -/

/-- A placement: origin and rotation in quarter turns (02 R30). -/
structure Place where
  x0 : Nat
  y0 : Nat
  rot : Fin 4
  deriving DecidableEq, Repr

/-- A candidate for placement (13 R348): the head LAUNCH of a queue, a graph's launch node,
or the head LAUNCH of a forward queue for the interrupted region `r` (18 R424). -/
inductive CandRef
  | head (q : Nat)
  | node (q : Nat) (n : Nat)
  | handler (r : Nat)
  | third (r : Nat)
  | rerun (r : Nat)
  deriving DecidableEq, Repr

/-- One partition of the configuration record (14 R367). -/
structure PartRec where
  num : Nat
  guaranteed : List Nat
  margin : List Nat
  lendMask : BitVec 64
  groups : List Nat
  slots : List Nat
  wh : Nat
  wp : Nat
  qf : Nat
  tenant : BitVec 16
  queues : List Nat
  freezeUs : Option Nat
  saveVa : Nat
  saveSize : Nat
  deriving DecidableEq, Repr

/-- The freeze budget in microseconds: 10,000 where the record gives none (14 R367). -/
def PartRec.freeze (p : PartRec) : Nat := p.freezeUs.getD 10000

/-- A signed item (17 R398): its bytes, its security version, the public keys it comes with, and whether its Ed25519 and
ML-DSA-65 signatures verify under them. -/
structure Signed where
  bytes : List Byte
  version : Nat
  edKey : List Byte
  mlKey : List Byte
  edOk : Bool
  mlOk : Bool
  deriving DecidableEq, Repr

/-- What is fused at manufacture (17 R398): the SHA-256 digests of the two public keys, the minimum version. -/
structure Fuses where
  edDigest : BitVec 256
  mlDigest : BitVec 256
  minVersion : Nat
  deriving DecidableEq, Repr

/-- A reference kernel's run on a quad (17 R401): the quad, the kernel's number, the commit signature it came to. -/
structure SwatchRun where
  quad : Nat
  kernel : Nat
  sig : List Byte
  deriving DecidableEq, Repr

/-- What the boot stages find (17 R397, R398, R401): the four firmware images in die order with the reference signatures of
their swatch kernels, the signed configuration record and its contents, the fuse and non-volatile maps, what HBM4 training
and the reading of the maps withhold, the host ranges that are mapped, whether the links train, the runs of the swatch
kernels. -/
structure BootRec where
  fuses : Fuses
  images : List Signed
  kernels : List (List Byte)
  record : Signed
  devId : BitVec 20
  dumpArea : Nat
  parts : List PartRec
  release : List Nat
  goodQuads : BitVec 576
  quarantine : BitVec 576
  badGroups : List Nat
  badQuads : List Nat
  hostMaps : List (Nat × Nat × Nat)
  hostLinkUp : Bool
  portsUp : BitVec 32
  idUnique : Bool
  runs : List SwatchRun
  deriving DecidableEq, Repr

/-- What another member device contributes to a collective instance (12 R319, R320): its identifier,
whether it agrees on every field of the instance, whether it answered, and its bytes with their poison. -/
structure Contrib where
  dev : BitVec 20
  agrees : Bool
  answered : Bool
  bytes : List Byte
  bad : Bool
  deriving DecidableEq, Repr

/-- What a home refuses an access with (19 R437): 0x105, it leaves the page; 0x106, it is not permitted. The manual says
that a home may refuse so, and not when: the event says so. -/
inductive HomeRefusal | bounds | permission
  deriving DecidableEq, Repr

/-- A refused request: its number, and the home's own refusal where that is the reason. -/
structure Refused where
  id : Nat
  home : Option HomeRefusal
  deriving DecidableEq, Repr

/-- A request to the host that gets no completion (20 R449): its number, or the queue that the scheduler reads for. -/
structure Unanswered where
  id : Nat
  queue : Option Nat
  deriving DecidableEq, Repr

/-- The firmware's change of the clock step (17 R402): the step, and whether power requires it. -/
structure StepChange where
  step : BitVec 5
  needed : Bool
  deriving DecidableEq, Repr

/-- Where a tagged request comes from (05 R140): owner tag, launch ordinal, tile; and its tag. -/
structure TagSrc where
  owner : BitVec 16
  ordinal : BitVec 32
  tile : Nat
  tag : BitVec 16
  deriving DecidableEq, Repr

/-- A request of a peer device (14 R379): plain read, plain write, atomic or reduction. -/
inductive PeerOp
  | read (n : Nat)
  | write (bytes : List Byte)
  | atom (op : AOp) (dw : Bool) (v cmp : Word) (src : Option TagSrc)
  deriving DecidableEq, Repr

/-- A host access to device memory (14 R374). -/
inductive HostOp
  | read (n : Nat)
  | write (bytes : List Byte) (bad : Bool)
  deriving DecidableEq, Repr

/-- What a patrol scrub read found in a sector (20 R448). -/
inductive ScrubFind | clean | corrected | uncorrectable
  deriving DecidableEq, Repr

/-- The fatal cases of 20 R464, codes 0x330 to 0x334 in order. -/
inductive FatalCase | dieToDie | hostLink | network | manager | management
  deriving DecidableEq, Repr

/-- The corrected-error counters of 20 R460. -/
inductive ErrCtr | chip | hbm | link
  deriving DecidableEq, Repr

/-- What firmware re-verification and the swatch test find in a turnover (17 R400, R401). -/
structure TurnRec where
  images : List Signed
  kernels : List (List Byte)
  runs : List SwatchRun
  deriving DecidableEq, Repr

/-- One constructor per row of spec/opcode_table.json, in the table's order but for GLOBAL_STORE_PERFORMED, which stands
beside HOME_ATOMIC_APPLY. The rows up to SCH_POST are what a bundle issues; the rows after it are the machine's own
indivisible steps and the events of the outside world (spec/95_what_each_step_holds.md). In those, `r` is a region's
number, `t` a tile's index y*W + x, `id` the number of an access, item or command. -/
inductive Instr
  | idleBundle (r : BitVec 6) (h : BitVec 3)
  | add (o : Alu2) | sub (o : Alu2) | and (o : Alu2) | or (o : Alu2) | xor (o : Alu2) | andn (o : Alu2)
  | shl (o : Alu2) | shr (o : Alu2) | sar (o : Alu2)
  | min (o : Alu2) | max (o : Alu2) | minu (o : Alu2) | maxu (o : Alu2)
  | mul (o : Alu2) | mulh (o : Alu2) | mulhu (o : Alu2)
  | div (o : Alu2) | divu (o : Alu2) | rem (o : Alu2) | remu (o : Alu2)
  | cmpeq (o : Cmp2) | cmpne (o : Cmp2) | cmplt (o : Cmp2) | cmple (o : Cmp2) | cmpltu (o : Cmp2) | cmpleu (o : Cmp2)
  | pand (o : PLog) | por (o : PLog) | pxor (o : PLog) | pandn (o : PLog)
  | sel (o : SelA)
  | bfx (o : BfxA) | bfxs (o : BfxA) | bfi (o : BfiA)
  | clz (o : CntA) | ctz (o : CntA) | popc (o : CntA)
  | agen2 (o : AgenA)
  | li (gd : Guard) (d : SDst) (v : BitVec 45)
  | liHi (gd : Guard) (d : SDst) (a : SSrc) (v : BitVec 19)
  | rdsr (gd : Guard) (d : SDst) (n : SReg)
  | wrsr (gd : Guard) (a : SSrc)
  | rdmb (gd : Guard) (d : SDst) (n : BitVec 4)
  | nop (gd : Guard)
  | br (gd : Guard) (disp : BitVec 18)
  | bri (gd : Guard) (a : SSrc) (imm : BitVec 16)
  | call (gd : Guard) (d : SDst) (disp : BitVec 18)
  | ret (gd : Guard) (a : SSrc)
  | loop (o : LoopA) (cnt : BitVec 16)
  | loopr (o : LoopA) (a : SSrc)
  | lexit (gd : Guard)
  | fork (gd : Guard) (disp : BitVec 18)
  | join (gd : Guard)
  | jset (gd : Guard) (n : BitVec 4)
  | jclr (gd : Guard) (n : BitVec 4)
  | jwait (gd : Guard) (n : BitVec 4)
  | trap (gd : Guard) (e : BitVec 6)
  | exit (gd : Guard)
  | mark (rec : BitVec 16)
  | markD (rec : BitVec 16)
  | barInit (gd : Guard) (b : BitVec 7) (sc : BarScope) (n : SSrc)
  | barArr (gd : Guard) (b : BitVec 7)
  | barArrRel (b : BitVec 7) (rec : BitVec 16)
  | barWait (gd : Guard) (b : BitVec 7)
  | barAw (gd : Guard) (b : BitVec 7)
  | tlwait (gd : Guard) (n : BitVec 5) (delta : BitVec 16)
  | tlinc (gd : Guard) (n : BitVec 3) (amt : SSrc) (rem : Option (BitVec 8 × BitVec 8))
  | tlrd (gd : Guard) (d : SDst) (n : BitVec 5)
  | tlbase (gd : Guard) (n : BitVec 5) (add : Bool) (a : SSrc)
  | ldB (o : LdA) | ldH (o : LdA) | ldW (o : LdA) | ldD (o : LdA)
  | ldsB (o : LdA) | ldsH (o : LdA) | ldsW (o : LdA)
  | stB (o : StA) | stH (o : StA) | stW (o : StA) | stD (o : StA)
  | ldx (o : LdxA) | stx (o : StxA)
  | xlate (o : XlateA)
  | hrel (gd : Guard) (h : BitVec 4)
  | gld (o : GldA) | gst (o : GstA)
  | atom (o : AtomA) | atomr (o : AtomrA) | red (o : AtomA)
  | fenceC (gd : Guard) (m : BitVec 16)
  | vld (o : VldA) | vst (o : VstA) | vgath (o : VgathA) | vscat (o : VscatA)
  | vadd (o : VopA) | vsub (o : VopA) | vmul (o : VopA) | vmin (o : VopA) | vmax (o : VopA)
  | vabs (o : VopA) | vneg (o : VopA) | vfma (o : VopA)
  | vand (o : VopA) | vor (o : VopA) | vxor (o : VopA) | vshl (o : VopA) | vshr (o : VopA) | vsar (o : VopA)
  | vadds (o : VopA) | vsubs (o : VopA)
  | vcmpeq (o : VcmpA) | vcmpne (o : VcmpA) | vcmplt (o : VcmpA) | vcmple (o : VcmpA)
  | vsel (o : VopA) | vmov (o : VopA) | vbcast (o : VopA) | vperm (o : VopA)
  | vext (o : VscalA) | vins (o : VopA)
  | vredsum (o : VscalA) | vredmax (o : VscalA) | vredmin (o : VscalA)
  | vcvt (o : VopA) | vqscale (o : VscalA) | vquant (o : VopA) | vdq (o : VopA) | vtbl (o : VopA)
  | lmand (o : Lm2A) | lmor (o : Lm2A) | lmxor (o : Lm2A) | lmandn (o : Lm2A)
  | lmset (o : LmsetA) | lmpopc (o : LmpopcA)
  | mma (o : MmaA) | mmas (o : MmaA)
  | mzero (com : MxCom) (slot : BitVec 3)
  | mset (gd : Guard) (n : BitVec 3) (a : SSrc) (imm : BitVec 16)
  | mdrain (o : MdrainA)
  | macc (com : MxCom) (slot : BitVec 3) (src : TOp)
  | tmld (o : TmA) | tmst (o : TmA)
  | tmmv (com : MxCom) (tgt : TOp) (src : TOp)
  | mrset (o : MaskA) | mcset (o : MaskA)
  | descSet (gd : Guard) (ds : BitVec 4) (p : BitVec 2) (a b : SSrc)
  | descGet (gd : Guard) (d : SDst) (ds : BitVec 4) (w : BitVec 3)
  | engStat (gd : Guard) (d : SDst) (n : BitVec 5)
  | ceIn (o : EngA) | ceOut (o : EngA) | ceOutr (o : EngA) (op : AOp) | ceB (o : EngA) | ceWin (o : EngA)
  | ceGath (o : EngA) | ceScat (o : EngA) | ceXfer (o : EngA) | ceFill (o : EngA)
  | colRed (o : EngA) (op : AOp) | colAg (o : EngA) | colBc (o : EngA)
  | colQ (o : ColqA) | colQFree (o : ColqA)
  | teLoad (gd : Guard) (rpl : Option SDst) (tab : BitVec 3) (a b : SSrc)
  | teCfg (gd : Guard) (tab : BitVec 3) (lo hi : BitVec 2) (a : SSrc)
  | schEnq (o : SchA) | schRaise (o : SchA) | schPost (o : SchA)
  | resultLanding (r : Nat)
  | storePerform (r : Nat)
  | remoteLoadSample (r : Nat)
  | gldDataArrival (r id : Nat)
  | xlateWalkComplete (r id : Nat)
  | atomrResultArrival (r id : Nat)
  | homeAtomicApply (r id : Nat)
  | globalStorePerformed (r id : Nat)
  | itemRefusal (r : Nat) (o : Refused)
  | commit (r : Nat)
  | finalCommit (r : Nat)
  | launchCompletionPost (r : Nat)
  | barArrivalEffect (r : Nat)
  | barrierPhaseComplete (r : Nat)
  | tlincEffect (r : Nat)
  | mailboxApply (r : Nat)
  | matrixCommandStart (r t : Nat)
  | matrixCommandComplete (r t : Nat)
  | copyCommandCounted (r id : Nat)
  | collectiveCounted (r id : Nat) (others : List Contrib)
  | colQAnswer (r id : Nat) (granted : Option (List Nat))
  | tableLoadCounted (r id : Nat)
  | schedulerFunctionApplied (r id : Nat)
  | engineContextCause (r : Nat) (o : Refused)
  | deadlineFault (r : Nat)
  | freezeBudgetExpiry (r : Nat)
  | handlerDisposition (r : Nat)
  | queueDoorbell (q : Nat) (w : Word)
  | queueEnable (q : Nat) (v : Word)
  | queueRestart (q : Nat)
  | pad (q : Nat)
  | launch (q : Nat)
  | wait (q : Nat)
  | waitSatisfied (q : Nat) (node : Option Nat)
  | signalTimeline (q : Nat)
  | signalStore (q : Nat)
  | signalAdd (q : Nat)
  | signalPost (q : Nat)
  | graph (q : Nat)
  | graphNodeRun (q n : Nat)
  | load (q : Nat)
  | unload (q : Nat)
  | launchPlacement (c : CandRef) (p : Place) (p2 : Option Place)
  | resumption (r : Nat) (p : Place)
  | bankClearDone (x y : Nat)
  | dualRunVerdict (r : Nat)
  | majorityDecision (r : Nat)
  | mailboxWrite (q : Nat) (n : BitVec 4) (v : Word)
  | preemptAll (part : Nat)
  | pageAnswerSuccess (part idx : Nat) (gen : BitVec 32)
  | pageAnswerRefused (part idx : Nat) (gen : BitVec 32)
  | invalidateAddress (part : Nat) (v : Word)
  | invalidateAll (part : Nat)
  | invalidationComplete (part : Nat)
  | globalReplay (part : Nat)
  | registerWrite (fn bar off : Nat) (v : Word)
  | quadLend (q part : Nat)
  | quadReclaim (q : Nat)
  | reclaimTimeout (r : Nat)
  | peerRequest (dev : BitVec 20) (tenant : BitVec 16) (addr : Nat) (op : PeerOp)
  | hostMemAccess (part addr : Nat) (op : HostOp)
  | pelaroRequestResend (r id : Nat)
  | peerUnresponsive (dev : BitVec 20)
  | synthesisedReply (r id : Nat)
  | pelaroPortDown (port : BitVec 5) (retrains : Bool)
  | hostLinkDown (c : FatalCase) (die : BitVec 2)
  | patrolScrub (sector : Nat) (f : ScrubFind)
  | deviceReset (b : BootRec)
  | quoteRequest (nonce : BitVec 256)
  | turnoverStart (t : TurnRec)
  | clockCapWrite (v : Word)
  | clockStepChange (o : StepChange)
  | quadPowerGate (q : Nat)
  | quadWakeDone (q : Nat)
  | errorOverflowClear (fn : Nat)
  | errorCounterClear (fn : Nat) (c : ErrCtr)
  | aerStatusClear (fn : Nat) (corrected : Bool) (v : Word)
  | deviceReadmission (dev : BitVec 20) (epoch : BitVec 10)
  | hostCompletionTimeout (r : Nat) (o : Unanswered)
  | controlStateLost (r t : Nat)
  deriving DecidableEq, Repr

end Sys2Proof
end

