-- ==== Sys2Proof/WellFormed.lean ====
section
/-! DEFINITION. When an instruction can be encoded: the limits each family's description puts on its
fields (08, 09, 10, 11, 12). The decoder refuses, by cause, every word that breaks one. -/

namespace Sys2Proof

/-- The three groups of element formats of 10 R255. -/
def Fmt.isF : Fmt → Bool
  | .f32 | .bf16 | .f16 => true
  | _ => false

def Fmt.isI : Fmt → Bool
  | .i32 | .i16 | .i8 => true
  | _ => false

def Fmt.isN : Fmt → Bool
  | .e4m3 | .e5m2 | .e2m3 | .e3m2 | .e2m1 | .i8 | .i4 => true
  | _ => false

/-- Two's-complement formats (04 R94). -/
def Fmt.isInt : Fmt → Bool
  | .i8 | .i4 | .i16 | .i32 => true
  | _ => false

/-- The storage width w in bits (04 R94). -/
def Fmt.width : Fmt → Nat
  | .e4m3 | .e5m2 | .i8 | .e8m0 => 8
  | .e2m3 | .e3m2 => 6
  | .e2m1 | .i4 => 4
  | .bf16 | .f16 | .i16 => 16
  | .f32 | .i32 => 32

/-- The number of elements a vector register holds (10 R255). -/
def Fmt.count : Fmt → Nat
  | .f32 | .i32 => 32
  | .bf16 | .f16 | .i16 => 64
  | _ => 128

/-- The format code (04 R94). -/
def Fmt.code : Fmt → BitVec 4
  | .e4m3 => 0 | .e5m2 => 1 | .e2m3 => 2 | .e3m2 => 3 | .e2m1 => 4 | .i8 => 5 | .i4 => 6
  | .bf16 => 7 | .f16 => 8 | .f32 => 9 | .i16 => 10 | .i32 => 11 | .e8m0 => 12

/-- The format a code names; none where the code is reserved (04 R94). -/
def Fmt.ofCode (c : BitVec 4) : Option Fmt :=
  match c.toNat with
  | 0 => some .e4m3 | 1 => some .e5m2 | 2 => some .e2m3 | 3 => some .e3m2 | 4 => some .e2m1
  | 5 => some .i8 | 6 => some .i4 | 7 => some .bf16 | 8 => some .f16 | 9 => some .f32
  | 10 => some .i16 | 11 => some .i32 | 12 => some .e8m0 | _ => none

/-- The operand kinds of the table of 10 R256. -/
inductive VKind | any | vec | bc | bcr | unused
  deriving DecidableEq, Repr

def VKind.ok : VKind → VSrc → Bool
  | .any, _ => true
  | .vec, .v _ => true
  | .vec, _ => false
  | .bc, .v _ => false
  | .bc, _ => true
  | .bcr, .v _ => false
  | .bcr, .imm _ => false
  | .bcr, _ => true
  | .unused, s => s == .v 0

/-- One row of the table of 10 R256: formats, rounding, .SAT, variant bits, operand kinds, and the bits of
immediate [15:4] the family takes. -/
structure VSpec where
  fmt : Fmt → Bool
  rnd : Fmt → Bool
  sat : Bool
  v4 : Fmt → Bool
  v5 : Bool
  a : VKind
  b : VKind
  c : VKind
  x : BitVec 12

def fmtFI (f : Fmt) : Bool := f.isF || f.isI

def noFmt (_ : Fmt) : Bool := false

/-- The table of 10 R256 by major opcode, for the families with the common fields of 07 R174. -/
def vspec : Nat → Option VSpec
  | 0x00 | 0x01 | 0x02 => some ⟨fmtFI, Fmt.isF, false, noFmt, false, .any, .any, .unused, 0⟩
  | 0x03 | 0x04 => some ⟨fmtFI, noFmt, false, Fmt.isI, false, .any, .any, .unused, 0⟩
  | 0x05 | 0x06 => some ⟨fmtFI, noFmt, false, noFmt, false, .any, .unused, .unused, 0⟩
  | 0x07 => some ⟨Fmt.isF, Fmt.isF, false, noFmt, false, .any, .any, .any, 0⟩
  | 0x08 | 0x09 | 0x0A | 0x0B | 0x0C | 0x0D => some ⟨Fmt.isI, noFmt, false, noFmt, false, .any, .any, .unused, 0⟩
  | 0x0E | 0x0F => some ⟨Fmt.isI, noFmt, false, Fmt.isI, false, .any, .any, .unused, 0⟩
  | 0x10 | 0x11 => some ⟨fmtFI, noFmt, false, noFmt, true, .any, .any, .unused, 0⟩
  | 0x12 | 0x13 => some ⟨fmtFI, noFmt, false, Fmt.isI, true, .any, .any, .unused, 0⟩
  | 0x14 => some ⟨fmtFI, noFmt, false, noFmt, false, .any, .any, .unused, 0x00F⟩
  | 0x15 => some ⟨fmtFI, noFmt, false, noFmt, false, .any, .unused, .unused, 0⟩
  | 0x16 => some ⟨fmtFI, noFmt, false, noFmt, false, .vec, .bc, .unused, 0x07F⟩
  | 0x17 => some ⟨fmtFI, noFmt, false, noFmt, false, .vec, .vec, .unused, 0⟩
  | 0x18 => some ⟨fmtFI, noFmt, false, fmtFI, false, .vec, .bc, .unused, 0x07F⟩
  | 0x19 => some ⟨fmtFI, noFmt, false, noFmt, false, .bc, .bc, .unused, 0x07F⟩
  | 0x1A => some ⟨fmtFI, Fmt.isF, false, noFmt, false, .vec, .unused, .unused, 0⟩
  | 0x1B | 0x1C => some ⟨fmtFI, noFmt, false, Fmt.isI, false, .vec, .unused, .unused, 0⟩
  | 0x1D => some ⟨fun f => f != .e8m0, fun _ => true, true, noFmt, false, .vec, .unused, .unused, 0x03F⟩
  | 0x1E => some ⟨Fmt.isN, noFmt, false, fun _ => true, false, .vec, .unused, .unused, 0x00F⟩
  | 0x1F => some ⟨Fmt.isN, fun _ => true, true, noFmt, false, .vec, .bcr, .unused, 0x03F⟩
  | 0x20 => some ⟨Fmt.isF, fun _ => true, false, noFmt, false, .vec, .bcr, .unused, 0x03F⟩
  | 0x21 => some ⟨Fmt.isF, fun _ => true, true, noFmt, false, .vec, .unused, .unused, 0x1FF⟩
  | _ => none

/-- The source format field, immediate [7:4] (10 R271 to R275, R279). -/
def VMod.fsCode (m : VMod) : BitVec 4 := m.x.extractLsb' 0 4

/-- The part field q, immediate [9:8]. -/
def VMod.part (m : VMod) : Nat := (m.x.extractLsb' 4 2).toNat

/-- The table field t of VTBL, immediate [12:10]. -/
def VMod.tab (m : VMod) : BitVec 3 := m.x.extractLsb' 6 3

/-- How many parts a conversion between these formats has: max of k(fs)/N and k(fd)/N (10 R271). -/
def partCount (fd fs : Fmt) : Nat :=
  Nat.max (fs.count / Nat.min fs.count fd.count) (fd.count / Nat.min fs.count fd.count)

/-- The pairings of the conversion families (10 R271, R273, R274, R275, R279). -/
def pairOk (maj : Nat) (fd fs : Fmt) : Bool :=
  match maj with
  | 0x1D => if fs == .e8m0 then fd == .f32 else fs != fd
  | 0x1E => fs.isF
  | 0x1F => fs.isF
  | 0x20 => fs.isN
  | 0x21 => fs.isF
  | _ => true

/-- The typed fields of a conversion family: a legal source format, a legal pairing, q in range. -/
def convOk (maj : Nat) (m : VMod) : Bool :=
  match Fmt.ofCode m.fsCode with
  | none => false
  | some fs => pairOk maj m.fmt fs && (maj == 0x1E || decide (m.part < partCount m.fmt fs))

/-- The modifiers are ones the family takes (10 R256, R257). -/
def VMod.ok (maj : Nat) (m : VMod) : Bool :=
  match vspec maj with
  | none => false
  | some s =>
    s.fmt m.fmt && (s.rnd m.fmt || m.rnd == .rne) && (s.sat || !m.sat) && (s.v4 m.fmt || !m.v4) &&
      (s.v5 || !m.v5) && (m.x &&& ~~~s.x == 0) && (if 0x1D ≤ maj then convOk maj m else true)

/-- A vector operation with up to three sources is one its family accepts. -/
def VopA.ok (maj : Nat) (o : VopA) : Bool :=
  match vspec maj with
  | none => false
  | some s => o.m.ok maj && s.a.ok o.a && s.b.ok o.b && s.c.ok o.c

def VcmpA.ok (maj : Nat) (o : VcmpA) : Bool :=
  match vspec maj with
  | none => false
  | some s => o.m.ok maj && s.a.ok o.a && s.b.ok o.b

def VscalA.ok (maj : Nat) (o : VscalA) : Bool :=
  match vspec maj with
  | none => false
  | some s => o.m.ok maj && s.b.ok o.b

/-- BFX, BFXS and BFI in immediate form: p + l ≤ 64 (08 R200). -/
def bitFieldOk (p lm1 : BitVec 6) : Bool := decide (p.toNat + lm1.toNat + 1 ≤ 64)

def BfxA.ok (o : BfxA) : Bool :=
  match o.f with
  | .imm p lm1 => bitFieldOk p lm1
  | .reg _ _ => true

/-- The flavours a form accepts (05 R123). -/
def Flav.loadOk : Flav → Bool
  | .plain | .acq => true
  | _ => false

def Flav.storeOk : Flav → Bool
  | .plain | .rel => true
  | _ => false

/-- The operations ATOM, RED and ATOMR take (09 R233); FADD has no 64-bit form. -/
def AOp.atomOk : AOp → Bool
  | .and | .or | .min | .max | .minu | .maxu => true
  | _ => false

def AOp.redOk : AOp → Bool
  | .swap | .cas => false
  | _ => true

def AOp.widthOk (o : AOp) (dw : Bool) : Bool := !(dw && o == .fadd)

/-- The operations a collective reduction combines by (12 R320). -/
def AOp.colOk : AOp → Bool
  | .fadd | .swap | .cas => false
  | _ => true

/-- Only operand 0x00 where a field must be 0x00: it is g0 (07 R172). -/
def SSrc.isZero (s : SSrc) : Bool := s == .g 0

/-- No steps, where a matrix family takes none (11 R284). -/
def MxCom.noStep (c : MxCom) : Bool := c.sa == 0 && c.sb == 0

def MxCom.ok (c : MxCom) : Bool := decide (c.wait.toNat ≤ 20)

/-- The well-formed instructions: the ones a bundle can hold. The rows that are the machine's own steps or
outside events are in no bundle and are well formed as they stand. -/
def Instr.wf : Instr → Bool
  | .bfx o | .bfxs o => o.ok
  | .bfi o => bitFieldOk o.p o.lm1
  | .ldx o => !(o.s && o.w == .d)
  | .gld o => !(o.s && o.w == .d) && o.att.flav.loadOk
  | .gst o => o.att.flav.storeOk
  | .atom o => o.op.atomOk && o.op.widthOk o.dw && o.att.flav.storeOk
  | .red o => o.op.redOk && o.op.widthOk o.dw && o.att.flav.storeOk
  | .atomr o => o.op.widthOk o.dw
  | .vgath o => !(o.s && o.z == .w)
  | .vadd o => o.ok 0x00 | .vsub o => o.ok 0x01 | .vmul o => o.ok 0x02
  | .vmin o => o.ok 0x03 | .vmax o => o.ok 0x04 | .vabs o => o.ok 0x05 | .vneg o => o.ok 0x06
  | .vfma o => o.ok 0x07
  | .vand o => o.ok 0x08 | .vor o => o.ok 0x09 | .vxor o => o.ok 0x0A
  | .vshl o => o.ok 0x0B | .vshr o => o.ok 0x0C | .vsar o => o.ok 0x0D
  | .vadds o => o.ok 0x0E | .vsubs o => o.ok 0x0F
  | .vcmpeq o => o.ok 0x10 | .vcmpne o => o.ok 0x11 | .vcmplt o => o.ok 0x12 | .vcmple o => o.ok 0x13
  | .vsel o => o.ok 0x14 | .vmov o => o.ok 0x15 | .vbcast o => o.ok 0x16 | .vperm o => o.ok 0x17
  | .vext o => o.ok 0x18 | .vins o => o.ok 0x19
  | .vredsum o => o.ok 0x1A | .vredmax o => o.ok 0x1B | .vredmin o => o.ok 0x1C
  | .vcvt o => o.ok 0x1D | .vqscale o => o.ok 0x1E | .vquant o => o.ok 0x1F | .vdq o => o.ok 0x20
  | .vtbl o => o.ok 0x21
  | .lmset o => VKind.bc.ok o.a
  | .mma o => o.com.ok && (!o.byp || (o.a.isZero && o.c.isZero && o.com.sa == 0))
  | .mmas o => o.com.ok && !o.byp
  | .mzero com _ => com.ok && com.noStep
  | .mdrain o => o.com.ok && o.com.sb == 0 && (!o.byp || (o.a.isZero && o.c.isZero && o.com.sa == 0))
  | .macc com _ _ => com.ok && com.noStep
  | .tmld o | .tmst o => o.com.ok && o.com.sb == 0
  | .tmmv com _ _ => com.ok && com.noStep
  | .engStat _ _ n => decide (n.toNat ≤ 19) || n == 22 || n == 23
  | .ceOutr _ op => op.redOk
  | .ceB o => o.b.isZero
  | .ceFill o => o.a.isZero
  | .colRed o op => op.colOk && decide (o.cx.toNat < 4)
  | .colAg o | .colBc o => decide (o.cx.toNat < 4)
  | .teCfg _ _ lo hi _ => lo != 3 && hi != 3
  | _ => true

end Sys2Proof
end

