-- ==== Sys2Proof/Decode.lean ====
section
/-! DEFINITION. The bundle decoder, total on any words and refusing by cause in the order of 07 R191, and
after it the encoder, written from the same tables (07 R163 to R190; 08; 09; 10; 11; 12). -/

namespace Sys2Proof

/-- A decode cause and the slot mb3 reports for it (18 R425). -/
structure DecErr where
  cause : Cause
  slot : Nat
  deriving DecidableEq, Repr

/-- Go on if the check holds, else refuse with the cause. -/
def chk (b : Bool) (c : Cause) : Except Cause Unit := if b then .ok () else .error c

/-! ### The fields of a slot word (07 R170, R171) -/

/-- A slot word unpacked. A short word is read as the long word of the same effect (07 R172):
`xop` is W0 [25:20], `gp` the guard field, `imm` W1 [15:0]. -/
structure SlotWord where
  long : Bool
  major : BitVec 6
  xop : BitVec 6
  gp : BitVec 4
  neg : Bool
  dst : BitVec 7
  a : BitVec 8
  b : BitVec 8
  c : BitVec 8
  imm : BitVec 16
  deriving DecidableEq, Repr

/-- The extended opcode that stands for a short word (07 R172): the default element format in the vector
class, z = 2 for VGATH and VSCAT, zero elsewhere. -/
def shortXop (slot : Nat) (major : BitVec 6) : BitVec 6 :=
  if slot = 3 then
    if 0x08 ≤ major.toNat ∧ major.toNat ≤ 0x0F ∨ 0x22 ≤ major.toNat then 0x0B else 0x09
  else if slot = 2 ∧ (major = 0x1A ∨ major = 0x1B) then 0x10 else 0

/-- A short slot word (07 R170). -/
def SlotWord.ofShort (slot : Nat) (w : Word32) : SlotWord :=
  { long := false, major := w.extractLsb' 26 6, xop := shortXop slot (w.extractLsb' 26 6)
    gp := (w.extractLsb' 23 3).zeroExtend 4, neg := false, dst := w.extractLsb' 16 7
    a := w.extractLsb' 8 8, b := w.extractLsb' 0 8, c := 0, imm := 0 }

/-- A long slot word (07 R171). -/
def SlotWord.ofLong (w0 w1 : Word32) : SlotWord :=
  { long := true, major := w0.extractLsb' 26 6, xop := w0.extractLsb' 20 6
    gp := w0.extractLsb' 16 4, neg := w0.getLsbD 15, dst := w0.extractLsb' 8 7, a := w0.extractLsb' 0 8
    b := w1.extractLsb' 24 8, c := w1.extractLsb' 16 8, imm := w1.extractLsb' 0 16 }

/-- The first word of the long form. -/
def SlotWord.w0 (f : SlotWord) : Word32 :=
  f.major ++ f.xop ++ f.gp ++ BitVec.ofBool f.neg ++ f.dst ++ f.a

/-- The second word of the long form. -/
def SlotWord.w1 (f : SlotWord) : Word32 := f.b ++ f.c ++ f.imm

/-! ### Operands and destinations -/

/-- A scalar operand specifier (03 R61, R64); reserved specifiers raise 0x020. -/
def decS (x : BitVec 8) : Except Cause SSrc :=
  if x.getLsbD 7 then .ok (.imm (x.extractLsb' 0 7))
  else if !x.getLsbD 6 then .ok (.g (x.extractLsb' 0 6))
  else match x.toNat with
    | 0x40 | 0x41 | 0x42 | 0x43 | 0x44 | 0x45 | 0x46 | 0x47 => .ok (.k (x.extractLsb' 0 3))
    | 0x48 => .ok (.latch .la0) | 0x49 => .ok (.latch .la1) | 0x4A => .ok (.latch .lm)
    | 0x4B => .ok (.latch .lv) | 0x4C => .ok (.latch .lx)
    | 0x50 => .ok (.ident .x) | 0x51 => .ok (.ident .y) | 0x52 => .ok (.ident .w) | 0x53 => .ok (.ident .h)
    | 0x54 => .ok (.ident .stream) | 0x55 => .ok (.ident .quad) | 0x56 => .ok (.ident .qpos)
    | 0x57 => .ok (.ident .part) | 0x58 => .ok (.ident .launch) | 0x59 => .ok (.ident .dev)
    | _ => .error 0x020

/-- A vector-class operand specifier (07 R175); reserved specifiers raise 0x021. -/
def decV (x : BitVec 8) : Except Cause VSrc :=
  if x.getLsbD 7 && x.getLsbD 6 then .ok (.imm (x.extractLsb' 0 6))
  else if x.getLsbD 6 then .ok (.g (x.extractLsb' 0 6))
  else match x.toNat with
    | 0x80 | 0x81 | 0x82 | 0x83 | 0x84 | 0x85 | 0x86 | 0x87 => .ok (.k (x.extractLsb' 0 3))
    | 0x88 => .ok (.latch .la0) | 0x89 => .ok (.latch .la1) | 0x8A => .ok (.latch .lm)
    | 0x8B => .ok (.latch .lv) | 0x8C => .ok (.latch .lx)
    | _ => if x.toNat < 0x20 then .ok (.v (x.extractLsb' 0 5)) else .error 0x021

/-- A scalar destination (07 R176); any other code raises 0x022. -/
def decSD (x : BitVec 7) : Except Cause SDst :=
  if !x.getLsbD 6 then .ok (.g (x.extractLsb' 0 6))
  else if x.toNat < 0x48 then .ok (.k (x.extractLsb' 0 3))
  else .error 0x022

/-- A predicate destination (07 R176, 08 R197): p8 to p15 in the long form only; a scalar destination
raises 0x023. -/
def decPD (long : Bool) (x : BitVec 7) : Except Cause (BitVec 4) :=
  if x.toNat < 0x48 then .error 0x023
  else if x.toNat < 0x50 then .ok ((x.extractLsb' 0 3).zeroExtend 4)
  else if x.toNat < 0x58 && long then .ok (1#1 ++ x.extractLsb' 0 3)
  else .error 0x022

/-- A vector destination (07 R176). -/
def decVD (x : BitVec 7) : Except Cause (BitVec 5) :=
  if x.toNat < 0x20 then .ok (x.extractLsb' 0 5) else .error 0x022

/-- A lane-mask destination (07 R176). -/
def decMD (x : BitVec 7) : Except Cause (BitVec 3) :=
  if 0x20 ≤ x.toNat && x.toNat < 0x28 then .ok (x.extractLsb' 0 3) else .error 0x022

/-- A typed destination of a set of 2^n registers (07 R176). -/
def decTD (n : Nat) (x : BitVec 7) : Except Cause (BitVec n) :=
  if x.toNat < 2 ^ n then .ok (x.extractLsb' 0 n) else .error 0x022

/-- A raw number below 2^n, or the cause. -/
def decRaw (n : Nat) (c : Cause) (x : BitVec 8) : Except Cause (BitVec n) :=
  if x.toNat < 2 ^ n then .ok (x.extractLsb' 0 n) else .error c

/-- A predicate specifier (08 R195). -/
def decP (x : BitVec 8) : Except Cause PSrc :=
  if x.toNat < 0x20 then .ok ⟨x.extractLsb' 0 4, x.getLsbD 4⟩ else .error 0x023

/-- An operand field that must be 0x00. -/
def zeroF (x : BitVec 8) : Except Cause Unit := chk (x == 0) 0x023

/-- A family with no result carries destination 0. -/
def zeroD (x : BitVec 7) : Except Cause Unit := chk (x == 0) 0x022

def zeroX (x : BitVec 6) : Except Cause Unit := chk (x == 0) 0x013

def zeroI (x : BitVec 16) : Except Cause Unit := chk (x == 0) 0x013

def SlotWord.guard (f : SlotWord) : Guard := ⟨f.gp, f.neg⟩

/-! ### Scalar class (07 R182; 08 R193-R204) -/

/-- The second source: imm16 when I is set, and then operand B is 0x00 (08 R194). -/
def decB (i : Bool) (f : SlotWord) : Except Cause SrcB :=
  if i then do zeroF f.b; zeroF f.c; return .imm16 f.imm
  else do
    let b ← decS f.b
    zeroF f.c; zeroI f.imm
    return .op b

def decAlu2 (f : SlotWord) : Except Cause Alu2 := do
  chk (f.xop.extractLsb' 2 4 == 0) 0x013
  let d ← decSD f.dst
  let a ← decS f.a
  let b ← decB (f.xop.getLsbD 0) f
  return ⟨f.guard, f.xop.getLsbD 1, d, a, b⟩

def decCmp2 (f : SlotWord) : Except Cause Cmp2 := do
  chk (f.xop.extractLsb' 2 4 == 0) 0x013
  let d ← decPD f.long f.dst
  let a ← decS f.a
  let b ← decB (f.xop.getLsbD 0) f
  return ⟨f.guard, f.xop.getLsbD 1, d, a, b⟩

def decPLog (f : SlotWord) : Except Cause PLog := do
  zeroX f.xop
  let d ← decPD f.long f.dst
  let a ← decP f.a
  let b ← decP f.b
  zeroF f.c; zeroI f.imm
  return ⟨f.guard, d, a, b⟩

def decSel (f : SlotWord) : Except Cause SelA := do
  chk (f.xop.extractLsb' 1 5 == 0) 0x013
  let d ← decSD f.dst
  let a ← decS f.a
  if f.xop.getLsbD 0 then
    zeroF f.b
    let c ← decP f.c
    return ⟨f.guard, d, c, a, .imm16 f.imm⟩
  else
    let b ← decS f.b
    let c ← decP f.c
    zeroI f.imm
    return ⟨f.guard, d, c, a, .op b⟩

/-- The reserved bits imm [15:12] are judged before the field's range (Assumption 57). -/
def decBfx (f : SlotWord) : Except Cause BfxA := do
  chk (f.xop.extractLsb' 1 5 == 0) 0x013
  let d ← decSD f.dst
  let a ← decS f.a
  if f.xop.getLsbD 0 then
    let p ← decS f.b
    let l ← decS f.c
    zeroI f.imm
    return ⟨f.guard, d, a, .reg p l⟩
  else
    zeroF f.b; zeroF f.c
    chk (f.imm.extractLsb' 12 4 == 0) 0x013
    chk (bitFieldOk (f.imm.extractLsb' 0 6) (f.imm.extractLsb' 6 6)) 0x083
    return ⟨f.guard, d, a, .imm (f.imm.extractLsb' 0 6) (f.imm.extractLsb' 6 6)⟩

def decBfi (f : SlotWord) : Except Cause BfiA := do
  zeroX f.xop
  let d ← decSD f.dst
  let a ← decS f.a
  let b ← decS f.b
  zeroF f.c
  chk (f.imm.extractLsb' 12 4 == 0) 0x013
  chk (bitFieldOk (f.imm.extractLsb' 0 6) (f.imm.extractLsb' 6 6)) 0x083
  return ⟨f.guard, d, a, b, f.imm.extractLsb' 0 6, f.imm.extractLsb' 6 6⟩

def decCnt (f : SlotWord) : Except Cause CntA := do
  chk (f.xop.extractLsb' 2 4 == 0 && !f.xop.getLsbD 0) 0x013
  let d ← decSD f.dst
  let a ← decS f.a
  zeroF f.b; zeroF f.c; zeroI f.imm
  return ⟨f.guard, f.xop.getLsbD 1, d, a⟩

def decAgen (f : SlotWord) : Except Cause AgenA := do
  zeroX f.xop
  let d ← decSD f.dst
  let a ← decS f.a
  let b ← decS f.b
  let c ← decS f.c
  chk (f.imm.extractLsb' 12 4 == 0) 0x013
  return ⟨f.guard, d, a, b, c, f.imm.extractLsb' 0 6, f.imm.extractLsb' 6 6⟩

/-- LI and LI.HI without their extension word (08 R203); `addExt` puts the payload in. -/
def decLi (f : SlotWord) : Except Cause Instr := do
  chk (f.xop == 0 || f.xop == 1) 0x013
  let d ← decSD f.dst
  if f.xop == 1 then
    let a ← decS f.a
    zeroF f.b; zeroF f.c
    return .liHi f.guard d a (f.imm.signExtend 19)
  else
    zeroF f.a; zeroF f.b; zeroF f.c
    return .li f.guard d (f.imm.signExtend 45)

def SReg.ofNum (n : BitVec 8) : Option SReg :=
  match n.toNat with
  | 0 => some .cyc | 1 => some .wall | 2 => some .bank | 3 => some .reentry | 4 => some .stitch
  | 5 => some .gauge | 6 => some .srpos | 7 => some .seed | 8 => some .level | 9 => some .accst | _ => none

def SReg.num : SReg → BitVec 8
  | .cyc => 0 | .wall => 1 | .bank => 2 | .reentry => 3 | .stitch => 4
  | .gauge => 5 | .srpos => 6 | .seed => 7 | .level => 8 | .accst => 9

/-- A number that names no register (0x080, 0x081, 0x082) is judged before the reserved immediate (Assumption 57). -/
def decRdsr (f : SlotWord) : Except Cause Instr := do
  zeroX f.xop
  let d ← decSD f.dst
  zeroF f.b; zeroF f.c
  match SReg.ofNum f.a with
  | none => .error 0x080
  | some n => do zeroI f.imm; return .rdsr f.guard d n

def decWrsr (f : SlotWord) : Except Cause Instr := do
  zeroX f.xop; zeroD f.dst
  let b ← decS f.b
  zeroF f.c
  chk (f.a == 6) 0x081
  zeroI f.imm
  return .wrsr f.guard b

def decRdmb (f : SlotWord) : Except Cause Instr := do
  zeroX f.xop
  let d ← decSD f.dst
  zeroF f.b; zeroF f.c
  let n ← decRaw 4 0x082 f.a
  zeroI f.imm
  return .rdmb f.guard d n

/-- The long-only majors of each class (07 R182 to R188). -/
def longOnly (slot : Nat) (m : Nat) : Bool :=
  match slot with
  | 0 | 1 => m == 0x1E || m == 0x1F || m == 0x20 || m == 0x21 || m == 0x25 || m == 0x26
  | 2 => m == 0x0C || m == 0x0D || (0x10 ≤ m && m ≤ 0x15)
  | 3 => m == 0x07 || m == 0x14 || m == 0x18 || m == 0x19 || (0x1D ≤ m && m ≤ 0x21)
  | 4 => m == 0 || m == 1 || (3 ≤ m && m ≤ 8)
  | 5 => true
  | _ => m == 1 || m == 3 || m == 5 || m == 6 || m == 8 || (0x10 ≤ m && m ≤ 0x17)

def decScalar (f : SlotWord) : Except Cause Instr :=
  match f.major.toNat with
  | 0x00 => .add <$> decAlu2 f | 0x01 => .sub <$> decAlu2 f | 0x02 => .and <$> decAlu2 f
  | 0x03 => .or <$> decAlu2 f | 0x04 => .xor <$> decAlu2 f | 0x05 => .andn <$> decAlu2 f
  | 0x06 => .shl <$> decAlu2 f | 0x07 => .shr <$> decAlu2 f | 0x08 => .sar <$> decAlu2 f
  | 0x09 => .min <$> decAlu2 f | 0x0A => .max <$> decAlu2 f | 0x0B => .minu <$> decAlu2 f
  | 0x0C => .maxu <$> decAlu2 f | 0x0D => .mul <$> decAlu2 f | 0x0E => .mulh <$> decAlu2 f
  | 0x0F => .mulhu <$> decAlu2 f | 0x10 => .div <$> decAlu2 f | 0x11 => .divu <$> decAlu2 f
  | 0x12 => .rem <$> decAlu2 f | 0x13 => .remu <$> decAlu2 f
  | 0x14 => .cmpeq <$> decCmp2 f | 0x15 => .cmpne <$> decCmp2 f | 0x16 => .cmplt <$> decCmp2 f
  | 0x17 => .cmple <$> decCmp2 f | 0x18 => .cmpltu <$> decCmp2 f | 0x19 => .cmpleu <$> decCmp2 f
  | 0x1A => .pand <$> decPLog f | 0x1B => .por <$> decPLog f | 0x1C => .pxor <$> decPLog f
  | 0x1D => .pandn <$> decPLog f
  | 0x1E => .sel <$> decSel f
  | 0x1F => .bfx <$> decBfx f | 0x20 => .bfxs <$> decBfx f | 0x21 => .bfi <$> decBfi f
  | 0x22 => .clz <$> decCnt f | 0x23 => .ctz <$> decCnt f | 0x24 => .popc <$> decCnt f
  | 0x25 => .agen2 <$> decAgen f
  | 0x26 => decLi f
  | 0x27 => decRdsr f | 0x28 => decWrsr f | 0x29 => decRdmb f
  | _ => .error 0x011

/-! ### Control class (07 R183; 08 R205-R219; 09 R239-R251) -/

/-- A family with no operand: destination, operands and immediate zero. -/
def decBare (f : SlotWord) (k : Guard → Instr) : Except Cause Instr := do
  zeroX f.xop; zeroD f.dst; zeroF f.a; zeroF f.b; zeroF f.c; zeroI f.imm
  return k f.guard

/-- The 18-bit word displacement of BR, CALL and FORK (08 R205). -/
def dispF (f : SlotWord) : BitVec 18 := f.xop.extractLsb' 0 2 ++ f.imm

def decDisp (f : SlotWord) (k : Guard → BitVec 18 → Instr) : Except Cause Instr := do
  chk (f.xop.extractLsb' 2 4 == 0) 0x013
  zeroD f.dst; zeroF f.a; zeroF f.b; zeroF f.c
  return k f.guard (dispF f)

def decCall (f : SlotWord) : Except Cause Instr := do
  chk (f.xop.extractLsb' 2 4 == 0) 0x013
  let d ← decSD f.dst
  zeroF f.a; zeroF f.b; zeroF f.c
  return .call f.guard d (dispF f)

def decBri (f : SlotWord) : Except Cause Instr := do
  zeroX f.xop; zeroD f.dst
  let a ← decS f.a
  zeroF f.b; zeroF f.c
  return .bri f.guard a f.imm

def decRet (f : SlotWord) : Except Cause Instr := do
  zeroX f.xop; zeroD f.dst
  let a ← decS f.a
  zeroF f.b; zeroF f.c; zeroI f.imm
  return .ret f.guard a

/-- LOOP and LOOPR: W1 [31:16] is the end displacement E (08 R210). -/
def decLoop (f : SlotWord) : Except Cause Instr := do
  zeroX f.xop
  let n ← decTD 2 f.dst
  zeroF f.a
  return .loop ⟨f.guard, n, f.b ++ f.c⟩ f.imm

def decLoopr (f : SlotWord) : Except Cause Instr := do
  zeroX f.xop
  let n ← decTD 2 f.dst
  let a ← decS f.a
  zeroI f.imm
  return .loopr ⟨f.guard, n, f.b ++ f.c⟩ a

/-- An immediate specifier of a number below 2^n: a register raises 0x023, another immediate 0x08A (08 R216, R218). -/
def decImmNum (n : Nat) (a : BitVec 8) : Except Cause (BitVec n) := do
  match ← decS a with
  | .imm v => if v.toNat < 2 ^ n then .ok (v.extractLsb' 0 n) else .error 0x08A
  | _ => .error 0x023

/-- Operand A's kind is checked with the operand, its number with the typed fields, before the reserved immediate
(Assumption 57). -/
def decNumbered (n : Nat) (f : SlotWord) (k : Guard → BitVec n → Instr) : Except Cause Instr := do
  zeroX f.xop; zeroD f.dst
  chk (match decS f.a with | .error _ => true | .ok (.imm _) => true | .ok _ => false) 0x023
  let _ ← decS f.a
  zeroF f.b; zeroF f.c
  let v ← decImmNum n f.a
  zeroI f.imm
  return k f.guard v

/-- The twin-mode refusal is made with the typed fields (08 R217, R222), last among them (Assumption 57). -/
def notTwin (twin : Bool) (r : Except Cause Instr) : Except Cause Instr := do
  let i ← r
  chk (!twin) 0x085
  return i

def decMark (f : SlotWord) (k : BitVec 16 → Instr) : Except Cause Instr := do
  zeroX f.xop; zeroD f.dst; zeroF f.a; zeroF f.b; zeroF f.c
  return k f.imm

def BarScope.ofCode (c : BitVec 3) : Option BarScope :=
  match c.toNat with
  | 1 => some .tile | 2 => some .quad | 3 => some .region | _ => none

def BarScope.code : BarScope → BitVec 3
  | .tile => 1 | .quad => 2 | .region => 3

/-- A barrier or counter number out of range (0x0A5, 0x095, 0x094) is judged with the typed fields, after operands B and
C (R222, R253); among the typed fields of one word the number comes before the immediate's reserved bits and its
codes (Assumption 57). -/
def decBarInit (f : SlotWord) : Except Cause Instr := do
  zeroX f.xop; zeroD f.dst
  let n ← decS f.b
  zeroF f.c
  let b ← decRaw 7 0x0A5 f.a
  chk (f.imm.extractLsb' 3 13 == 0) 0x013
  match BarScope.ofCode (f.imm.extractLsb' 0 3) with
  | none => .error 0x0A0
  | some s => return .barInit f.guard b s n

def decBarArr (f : SlotWord) : Except Cause Instr := do
  chk (f.xop.extractLsb' 1 5 == 0) 0x013
  zeroD f.dst
  zeroF f.b; zeroF f.c
  let b ← decRaw 7 0x0A5 f.a
  if f.xop.getLsbD 0 then return .barArrRel b f.imm
  else do zeroI f.imm; return .barArr f.guard b

def decBar (f : SlotWord) (k : Guard → BitVec 7 → Instr) : Except Cause Instr := do
  zeroX f.xop; zeroD f.dst
  zeroF f.b; zeroF f.c
  let b ← decRaw 7 0x0A5 f.a
  zeroI f.imm
  return k f.guard b

def decTlwait (f : SlotWord) : Except Cause Instr := do
  zeroX f.xop; zeroD f.dst
  zeroF f.b; zeroF f.c
  let n ← decRaw 5 0x095 f.a
  return .tlwait f.guard n f.imm

def decTlinc (f : SlotWord) : Except Cause Instr := do
  chk (f.xop.extractLsb' 1 5 == 0) 0x013
  zeroD f.dst
  let amt ← decS f.b
  zeroF f.c
  let n ← decRaw 5 0x095 f.a
  chk (24 ≤ n.toNat) 0x094
  if f.xop.getLsbD 0 then
    return .tlinc f.guard (n.extractLsb' 0 3) amt (some (f.imm.extractLsb' 8 8, f.imm.extractLsb' 0 8))
  else do zeroI f.imm; return .tlinc f.guard (n.extractLsb' 0 3) amt none

def decTlrd (f : SlotWord) : Except Cause Instr := do
  zeroX f.xop
  let d ← decSD f.dst
  zeroF f.b; zeroF f.c
  let n ← decRaw 5 0x095 f.a
  zeroI f.imm
  return .tlrd f.guard d n

def decTlbase (f : SlotWord) : Except Cause Instr := do
  chk (f.xop.extractLsb' 1 5 == 0) 0x013
  let n ← decTD 5 f.dst
  let a ← decS f.a
  zeroF f.b; zeroF f.c; zeroI f.imm
  return .tlbase f.guard n (f.xop.getLsbD 0) a

def decControl (twin : Bool) (f : SlotWord) : Except Cause Instr :=
  match f.major.toNat with
  | 0x00 => decBare f .nop
  | 0x01 => decDisp f .br
  | 0x02 => decBri f
  | 0x03 => decCall f
  | 0x04 => decRet f
  | 0x05 => decLoop f
  | 0x06 => decLoopr f
  | 0x07 => decBare f .lexit
  | 0x08 => notTwin twin (decDisp f .fork)
  | 0x09 => notTwin twin (decBare f .join)
  | 0x0A => notTwin twin (decNumbered 4 f .jset)
  | 0x0B => notTwin twin (decNumbered 4 f .jclr)
  | 0x0C => notTwin twin (decNumbered 4 f .jwait)
  | 0x0D => decNumbered 6 f .trap
  | 0x0E => decBare f .exit
  | 0x10 => decMark f .mark
  | 0x11 => decMark f .markD
  | 0x12 => decBarInit f
  | 0x13 => decBarArr f
  | 0x14 => decBar f .barWait
  | 0x15 => decBar f .barAw
  | 0x16 => decTlwait f
  | 0x17 => decTlinc f
  | 0x18 => decTlrd f
  | 0x19 => decTlbase f
  | _ => .error 0x011

/-! ### Memory class (07 R184; 09 R223-R238; 10 R260, R261) -/

def decLd (f : SlotWord) (k : LdA → Instr) : Except Cause Instr := do
  zeroX f.xop
  let d ← decSD f.dst
  let a ← decS f.a
  let b ← decS f.b
  let c ← decS f.c
  return k ⟨f.guard, d, a, b, c, f.imm, 0⟩

def decSt (f : SlotWord) (k : StA → Instr) : Except Cause Instr := do
  zeroX f.xop; zeroD f.dst
  let a ← decS f.a
  let b ← decS f.b
  let c ← decS f.c
  return k ⟨f.guard, a, b, c, f.imm, 0⟩

def Wid.ofCode (c : BitVec 2) : Wid :=
  match c.toNat with
  | 0 => .b | 1 => .h | 2 => .w | _ => .d

def Wid.code : Wid → BitVec 2
  | .b => 0 | .h => 1 | .w => 2 | .d => 3

def decLdx (f : SlotWord) : Except Cause Instr := do
  chk (f.xop.extractLsb' 3 3 == 0) 0x013
  chk (!(f.xop.getLsbD 2 && f.xop.extractLsb' 0 2 == 3)) 0x013
  let d ← decSD f.dst
  let a ← decS f.a
  zeroF f.b
  let c ← decS f.c
  return .ldx ⟨f.guard, Wid.ofCode (f.xop.extractLsb' 0 2), f.xop.getLsbD 2, d, a, c,
    f.imm.extractLsb' 8 8, f.imm.extractLsb' 0 8, 0⟩

def decStx (f : SlotWord) : Except Cause Instr := do
  chk (f.xop.extractLsb' 2 4 == 0) 0x013
  zeroD f.dst
  let a ← decS f.a
  let b ← decS f.b
  let c ← decS f.c
  return .stx ⟨f.guard, Wid.ofCode (f.xop.extractLsb' 0 2), a, b, c,
    f.imm.extractLsb' 8 8, f.imm.extractLsb' 0 8, 0⟩

def decXlate (f : SlotWord) : Except Cause Instr := do
  zeroX f.xop
  let h ← decTD 4 f.dst
  let a ← decS f.a
  let b ← decS f.b
  let c ← decS f.c
  return .xlate ⟨f.guard, h, a, b, c, f.imm, 0⟩

def decHrel (f : SlotWord) : Except Cause Instr := do
  zeroX f.xop
  let h ← decTD 4 f.dst
  zeroF f.a; zeroF f.b; zeroF f.c; zeroI f.imm
  return .hrel f.guard h

def Scope.ofCode (c : BitVec 3) : Option Scope :=
  match c.toNat with
  | 0 => some .str | 1 => some .tile | 2 => some .quad | 3 => some .rgn | 4 => some .dev | 5 => some .sys
  | _ => none

def Scope.code : Scope → BitVec 3
  | .str => 0 | .tile => 1 | .quad => 2 | .rgn => 3 | .dev => 4 | .sys => 5

def Flav.ofCode (c : BitVec 2) : Flav :=
  match c.toNat with
  | 0 => .plain | 1 => .acq | 2 => .rel | _ => .ar

def Flav.code : Flav → BitVec 2
  | .plain => 0 | .acq => 1 | .rel => 2 | .ar => 3

/-- Class, scope, flavour and displacement (09 R230): 0x026, then 0x027. -/
def decAtt (ok : Flav → Bool) (imm : BitVec 16) : Except Cause GAtt :=
  match Scope.ofCode (imm.extractLsb' 9 3) with
  | none => .error 0x026
  | some s => do
    chk (ok (Flav.ofCode (imm.extractLsb' 7 2))) 0x027
    return ⟨imm.extractLsb' 12 4, s, Flav.ofCode (imm.extractLsb' 7 2), imm.extractLsb' 0 7⟩

def decGld (f : SlotWord) : Except Cause Instr := do
  chk (f.xop.extractLsb' 0 3 == 0) 0x013
  chk (!(f.xop.getLsbD 3 && f.xop.extractLsb' 4 2 == 3)) 0x013
  let d ← decSD f.dst
  let h ← decRaw 4 0x023 f.a
  let b ← decS f.b
  zeroF f.c
  let att ← decAtt Flav.loadOk f.imm
  return .gld ⟨f.guard, Wid.ofCode (f.xop.extractLsb' 4 2), f.xop.getLsbD 3, d, h, b, att, 0⟩

def decGst (f : SlotWord) : Except Cause Instr := do
  chk (f.xop.extractLsb' 0 4 == 0) 0x013
  zeroD f.dst
  let h ← decRaw 4 0x023 f.a
  let b ← decS f.b
  let c ← decS f.c
  let att ← decAtt Flav.storeOk f.imm
  return .gst ⟨f.guard, Wid.ofCode (f.xop.extractLsb' 4 2), h, b, c, att, 0⟩

def AOp.ofCode (c : BitVec 4) : Option AOp :=
  match c.toNat with
  | 0 => some .add | 1 => some .and | 2 => some .or | 3 => some .xor | 4 => some .min | 5 => some .max
  | 6 => some .minu | 7 => some .maxu | 8 => some .fadd | 9 => some .swap | 10 => some .cas | _ => none

def AOp.code : AOp → BitVec 4
  | .add => 0 | .and => 1 | .or => 2 | .xor => 3 | .min => 4 | .max => 5 | .minu => 6 | .maxu => 7
  | .fadd => 8 | .swap => 9 | .cas => 10

/-- The operation and width of an atomic (09 R233): [25:22], [21], and [20] zero. -/
def decAop (ok : AOp → Bool) (x : BitVec 6) : Except Cause (AOp × Bool) :=
  match AOp.ofCode (x.extractLsb' 2 4) with
  | none => .error 0x013
  | some o => do
    chk (ok o && o.widthOk (x.getLsbD 1) && !x.getLsbD 0) 0x013
    return (o, x.getLsbD 1)

def decAtom (ok : AOp → Bool) (f : SlotWord) (k : AtomA → Instr) : Except Cause Instr := do
  let (op, dw) ← decAop ok f.xop
  zeroD f.dst
  let h ← decRaw 4 0x023 f.a
  let b ← decS f.b
  let c ← decS f.c
  let att ← decAtt Flav.storeOk f.imm
  return k ⟨f.guard, op, dw, h, b, c, att, 0⟩

def decAtomr (f : SlotWord) : Except Cause Instr := do
  let (op, dw) ← decAop (fun _ => true) f.xop
  let d ← decSD f.dst
  let h ← decRaw 4 0x023 f.a
  let b ← decS f.b
  let c ← decS f.c
  let att ← decAtt (fun _ => true) f.imm
  return .atomr ⟨op, dw, d, h, b, c, att, none⟩

def decFence (f : SlotWord) : Except Cause Instr := do
  zeroX f.xop; zeroD f.dst; zeroF f.a; zeroF f.b; zeroF f.c
  return .fenceC f.guard f.imm

def decVld (f : SlotWord) : Except Cause Instr := do
  chk (f.xop.extractLsb' 3 3 == 0) 0x013
  let d ← decVD f.dst
  let a ← decS f.a
  let b ← decS f.b
  let c ← decS f.c
  return .vld ⟨f.guard, f.xop.extractLsb' 0 3, d, a, b, c, f.imm, 0⟩

def decVst (f : SlotWord) : Except Cause Instr := do
  chk (f.xop.extractLsb' 3 3 == 0) 0x013
  zeroD f.dst
  let a ← decS f.a
  let b ← decRaw 5 0x023 f.b
  let c ← decS f.c
  return .vst ⟨f.guard, f.xop.extractLsb' 0 3, a, b, c, f.imm, 0⟩

def GWid.ofCode (c : BitVec 2) : Option GWid :=
  match c.toNat with
  | 0 => some .b | 1 => some .h | 2 => some .w | _ => none

def GWid.code : GWid → BitVec 2
  | .b => 0 | .h => 1 | .w => 2

def decVgath (f : SlotWord) : Except Cause Instr :=
  match GWid.ofCode (f.xop.extractLsb' 3 2) with
  | none => .error 0x013
  | some z => do
    chk (!(f.xop.getLsbD 5 && z == .w)) 0x013
    let d ← decVD f.dst
    let a ← decS f.a
    let x ← decRaw 5 0x023 f.b
    let c ← decS f.c
    return .vgath ⟨f.guard, f.xop.extractLsb' 0 3, z, f.xop.getLsbD 5, d, a, x, c, f.imm, 0⟩

def decVscat (f : SlotWord) : Except Cause Instr :=
  match GWid.ofCode (f.xop.extractLsb' 3 2) with
  | none => .error 0x013
  | some z => do
    chk (!f.xop.getLsbD 5) 0x013
    zeroD f.dst
    let x ← decRaw 5 0x023 f.a
    let b ← decRaw 5 0x023 f.b
    let c ← decS f.c
    return .vscat ⟨f.guard, f.xop.extractLsb' 0 3, z, x, b, c, f.imm, 0⟩

def decMemory (f : SlotWord) : Except Cause Instr :=
  match f.major.toNat with
  | 0x00 => decLd f .ldB | 0x01 => decLd f .ldH | 0x02 => decLd f .ldW | 0x03 => decLd f .ldD
  | 0x04 => decLd f .ldsB | 0x05 => decLd f .ldsH | 0x06 => decLd f .ldsW
  | 0x08 => decSt f .stB | 0x09 => decSt f .stH | 0x0A => decSt f .stW | 0x0B => decSt f .stD
  | 0x0C => decLdx f | 0x0D => decStx f
  | 0x0E => decXlate f | 0x0F => decHrel f
  | 0x10 => decGld f | 0x11 => decGst f
  | 0x12 => decAtom AOp.atomOk f .atom | 0x13 => decAtomr f | 0x14 => decAtom AOp.redOk f .red
  | 0x15 => decFence f
  | 0x18 => decVld f | 0x19 => decVst f | 0x1A => decVgath f | 0x1B => decVscat f
  | _ => .error 0x011

/-! ### Vector class (07 R186; 10 R255-R279) -/

def Rnd.ofCode (c : BitVec 3) : Option Rnd :=
  match c.toNat with
  | 0 => some .rne | 1 => some .rtz | 2 => some .rup | 3 => some .rdn | 4 => some .sr | _ => none

def Rnd.code : Rnd → BitVec 3
  | .rne => 0 | .rtz => 1 | .rup => 2 | .rdn => 3 | .sr => 4

/-- The extended opcode of a vector word: reserved format 0x024, variant not taken 0x013 (10 R257). A format the family
does not take, 0x0C0, is a Decode cause of 10 R281 and waits for the typed fields (R222). -/
def decVX (s : VSpec) (x : BitVec 6) : Except Cause Fmt :=
  match Fmt.ofCode (x.extractLsb' 0 4) with
  | none => .error 0x024
  | some fmt => do
    chk ((s.v4 fmt || !x.getLsbD 4) && (s.v5 || !x.getLsbD 5)) 0x013
    return fmt

/-- The guard of a vector word: [19] is reserved in the long form (07 R171, R190). -/
def decVG (f : SlotWord) : Except Cause VGuard := do
  chk (!f.gp.getLsbD 3) 0x015
  return ⟨f.gp.extractLsb' 0 3, f.neg⟩

/-- A vector operand of the kind its family takes (10 R256, R257). A field the family does not read must
be 0x00. -/
def decVO (k : VKind) (x : BitVec 8) : Except Cause VSrc :=
  if k == .unused then do zeroF x; return .v 0
  else do
    let s ← decV x
    chk (k.ok s) 0x023
    return s

/-- Rounding, .SAT and immediate [15:4] (10 R257): 0x025, 0x0C1, 0x013. -/
def decVI (s : VSpec) (fmt : Fmt) (imm : BitVec 16) : Except Cause (Rnd × Bool × BitVec 12) :=
  match Rnd.ofCode (imm.extractLsb' 0 3) with
  | none => .error 0x025
  | some r => do
    chk (s.rnd fmt || r == .rne) 0x0C1
    chk (s.sat || !imm.getLsbD 3) 0x0C1
    chk (imm.extractLsb' 4 12 &&& ~~~s.x == 0) 0x013
    return (r, imm.getLsbD 3, imm.extractLsb' 4 12)

/-- The source format and part of the conversion families: 0x024, 0x0C0, 0x0C2. -/
def decVC (maj : Nat) (m : VMod) : Except Cause Unit :=
  match Fmt.ofCode m.fsCode with
  | none => .error 0x024
  | some fs => do
    chk (pairOk maj m.fmt fs) 0x0C0
    chk (maj == 0x1E || decide (m.part < partCount m.fmt fs)) 0x0C2

/-- The typed fields together: the format, then rounding and .SAT, then the reserved bits, then the source format, the
pairing and the part. R191 and R222 give no order among them; this one is the model's (Assumption 57). -/
def decVM (maj : Nat) (s : VSpec) (f : SlotWord) (fmt : Fmt) (g : VGuard) : Except Cause VMod := do
  chk (s.fmt fmt) 0x0C0
  let (r, sat, x) ← decVI s fmt f.imm
  let m : VMod := ⟨g, fmt, f.xop.getLsbD 4, f.xop.getLsbD 5, r, sat, x⟩
  if 0x1D ≤ maj then decVC maj m
  return m

/-- A vector word of a family of the table of 10 R256, destination decoded by `dd`. -/
def decVec {δ : Type} (f : SlotWord) (dd : BitVec 7 → Except Cause δ)
    (k : VMod → δ → VSrc → VSrc → VSrc → Instr) : Except Cause Instr :=
  match vspec f.major.toNat with
  | none => .error 0x011
  | some s => do
    let fmt ← decVX s f.xop
    let g ← decVG f
    let d ← dd f.dst
    let a ← decVO s.a f.a
    let b ← decVO s.b f.b
    let c ← decVO s.c f.c
    let m ← decVM f.major.toNat s f fmt g
    return k m d a b c

def decVop (f : SlotWord) (k : VopA → Instr) : Except Cause Instr :=
  decVec f decVD fun m d a b c => k ⟨m, d, a, b, c⟩

def decVcmp (f : SlotWord) (k : VcmpA → Instr) : Except Cause Instr :=
  decVec f decMD fun m d a b _ => k ⟨m, d, a, b⟩

/-- The register a `vec` operand names. -/
def VSrc.vnum : VSrc → BitVec 5
  | .v n => n
  | _ => 0

def decVscal (f : SlotWord) (k : VscalA → Instr) : Except Cause Instr :=
  decVec f decSD fun m d a b _ => k ⟨m, d, a.vnum, b⟩

/-- The extended opcode of the lane-mask families: 0x024, then a variant not taken, 0x013. -/
def decLX (v4 : Bool) (x : BitVec 6) : Except Cause Fmt := do
  match Fmt.ofCode (x.extractLsb' 0 4) with
  | none => .error 0x024
  | some fmt => do
    chk ((v4 || !x.getLsbD 4) && !x.getLsbD 5) 0x013
    return fmt

/-- The typed fields of the lane-mask families, which have no element format (Fmt is 0xB, 10 R256) and take no rounding
and no immediate; the order among them is the model's (Assumption 57). -/
def decLI (fmt : Fmt) (imm : BitVec 16) : Except Cause Unit := do
  chk (fmt == .i32) 0x0C0
  match Rnd.ofCode (imm.extractLsb' 0 3) with
  | none => .error 0x025
  | some r => do
    chk (r == .rne && !imm.getLsbD 3) 0x0C1
    chk (imm.extractLsb' 4 12 == 0) 0x013

def decLm2 (f : SlotWord) (k : Lm2A → Instr) : Except Cause Instr := do
  let fmt ← decLX false f.xop
  let g ← decVG f
  let d ← decMD f.dst
  let a ← decRaw 3 0x023 f.a
  let b ← decRaw 3 0x023 f.b
  zeroF f.c
  decLI fmt f.imm
  return k ⟨g, d, a, b⟩

def decLmset (f : SlotWord) : Except Cause Instr := do
  let fmt ← decLX true f.xop
  let g ← decVG f
  let d ← decMD f.dst
  let a ← decVO .bc f.a
  zeroF f.b; zeroF f.c
  decLI fmt f.imm
  return .lmset ⟨g, f.xop.getLsbD 4, d, a⟩

def decLmpopc (f : SlotWord) : Except Cause Instr := do
  let fmt ← decLX false f.xop
  let g ← decVG f
  let d ← decSD f.dst
  let a ← decRaw 3 0x023 f.a
  zeroF f.b; zeroF f.c
  decLI fmt f.imm
  return .lmpopc ⟨g, d, a⟩

def decVector (f : SlotWord) : Except Cause Instr :=
  match f.major.toNat with
  | 0x00 => decVop f .vadd | 0x01 => decVop f .vsub | 0x02 => decVop f .vmul | 0x03 => decVop f .vmin
  | 0x04 => decVop f .vmax | 0x05 => decVop f .vabs | 0x06 => decVop f .vneg | 0x07 => decVop f .vfma
  | 0x08 => decVop f .vand | 0x09 => decVop f .vor | 0x0A => decVop f .vxor | 0x0B => decVop f .vshl
  | 0x0C => decVop f .vshr | 0x0D => decVop f .vsar | 0x0E => decVop f .vadds | 0x0F => decVop f .vsubs
  | 0x10 => decVcmp f .vcmpeq | 0x11 => decVcmp f .vcmpne | 0x12 => decVcmp f .vcmplt | 0x13 => decVcmp f .vcmple
  | 0x14 => decVop f .vsel | 0x15 => decVop f .vmov | 0x16 => decVop f .vbcast | 0x17 => decVop f .vperm
  | 0x18 => decVscal f .vext | 0x19 => decVop f .vins
  | 0x1A => decVscal f .vredsum | 0x1B => decVscal f .vredmax | 0x1C => decVscal f .vredmin
  | 0x1D => decVop f .vcvt | 0x1E => decVscal f .vqscale | 0x1F => decVop f .vquant | 0x20 => decVop f .vdq
  | 0x21 => decVop f .vtbl
  | 0x22 => decLm2 f .lmand | 0x23 => decLm2 f .lmor | 0x24 => decLm2 f .lmxor | 0x25 => decLm2 f .lmandn
  | 0x26 => decLmset f | 0x27 => decLmpopc f
  | _ => .error 0x011

/-! ### Matrix class (07 R187; 11 R284-R303) -/

/-- The common fields: signal, guard, wait code (0x0D0 from 21) and delta; steps come with the extension word. -/
def decCom (f : SlotWord) : Except Cause MxCom := do
  chk (decide ((f.imm.extractLsb' 11 5).toNat ≤ 20)) 0x0D0
  return ⟨f.guard, f.xop.getLsbD 5, f.imm.extractLsb' 11 5, f.imm.extractLsb' 0 11, 0, 0⟩

def decMma (f : SlotWord) : Except Cause Instr := do
  zeroD f.dst
  if f.xop.getLsbD 0 then zeroF f.a
  let a ← decS f.a
  let b ← decS f.b
  if f.xop.getLsbD 0 then zeroF f.c
  let c ← decS f.c
  let com ← decCom f
  return .mma ⟨com, f.xop.extractLsb' 2 3, f.xop.getLsbD 1, f.xop.getLsbD 0, a, b, c⟩

def decMmas (f : SlotWord) : Except Cause Instr := do
  chk (!f.xop.getLsbD 0) 0x013
  zeroD f.dst
  let a ← decS f.a
  let b ← decS f.b
  let c ← decS f.c
  let com ← decCom f
  return .mmas ⟨com, f.xop.extractLsb' 2 3, f.xop.getLsbD 1, false, a, b, c⟩

def decMzero (f : SlotWord) : Except Cause Instr := do
  chk (f.xop.extractLsb' 0 5 == 0) 0x013
  zeroD f.dst
  let s ← decRaw 3 0x023 f.a
  zeroF f.b; zeroF f.c
  let com ← decCom f
  return .mzero com s

def decMset (f : SlotWord) : Except Cause Instr := do
  chk (f.xop.extractLsb' 3 3 == 0) 0x013
  zeroD f.dst
  let a ← decS f.a
  zeroF f.b; zeroF f.c
  return .mset f.guard (f.xop.extractLsb' 0 3) a f.imm

def decMdrain (f : SlotWord) : Except Cause Instr := do
  chk (!f.xop.getLsbD 0) 0x013
  zeroD f.dst
  if f.xop.getLsbD 1 then zeroF f.a
  let a ← decS f.a
  zeroF f.b
  if f.xop.getLsbD 1 then zeroF f.c
  let c ← decS f.c
  let com ← decCom f
  return .mdrain ⟨com, f.xop.extractLsb' 2 3, f.xop.getLsbD 1, a, c⟩

/-- A tensor operand code in an opcode field: 0x18 to 0x1F raise the cause (11 R300). -/
def decTOp (c : Cause) (x : BitVec 5) : Except Cause TOp :=
  if !x.getLsbD 4 then .ok (.blk (x.extractLsb' 0 4))
  else if !x.getLsbD 3 then .ok (.acc (x.extractLsb' 0 3)) else .error c

/-- A tensor operand code as a raw operand: above 0x17 raises 0x023. -/
def decTRaw (x : BitVec 8) : Except Cause TOp := do
  chk (decide (x.toNat < 0x18)) 0x023
  decTOp 0x023 (x.extractLsb' 0 5)

def decMacc (f : SlotWord) : Except Cause Instr := do
  chk (f.xop.extractLsb' 0 2 == 0) 0x013
  zeroD f.dst
  let src ← decTRaw f.a
  zeroF f.b; zeroF f.c
  let com ← decCom f
  return .macc com (f.xop.extractLsb' 2 3) src

def decTm (f : SlotWord) (k : TmA → Instr) : Except Cause Instr := do
  let t ← decTOp 0x013 (f.xop.extractLsb' 0 5)
  zeroD f.dst
  let a ← decS f.a
  zeroF f.b
  let c ← decS f.c
  let com ← decCom f
  return k ⟨com, t, a, c⟩

def decTmmv (f : SlotWord) : Except Cause Instr := do
  let t ← decTOp 0x013 (f.xop.extractLsb' 0 5)
  zeroD f.dst
  let src ← decTRaw f.a
  zeroF f.b; zeroF f.c
  let com ← decCom f
  return .tmmv com t src

def decMaskR (f : SlotWord) (k : MaskA → Instr) : Except Cause Instr := do
  chk (f.xop.extractLsb' 1 5 == 0) 0x013
  let n ← decTD 2 f.dst
  let a ← decS f.a
  if f.xop.getLsbD 0 then
    let b ← decS f.b
    zeroF f.c; zeroI f.imm
    return k ⟨f.guard, n, a, some b⟩
  else
    zeroF f.b; zeroF f.c; zeroI f.imm
    return k ⟨f.guard, n, a, none⟩

def decMatrix (f : SlotWord) : Except Cause Instr :=
  match f.major.toNat with
  | 0x00 => decMma f | 0x01 => decMmas f | 0x02 => decMzero f | 0x03 => decMset f | 0x04 => decMdrain f
  | 0x05 => decMacc f | 0x06 => decTm f .tmld | 0x07 => decTm f .tmst | 0x08 => decTmmv f
  | 0x09 => decMaskR f .mrset | 0x0A => decMaskR f .mcset
  | _ => .error 0x011

/-! ### Engine commands (07 R188, R189; 12 R306) -/

/-- Whether a function replies never, if asked, or always (12 R306). -/
inductive RplRule | never | optional | always
  deriving DecidableEq, Repr

/-- The reply destination (07 R189): immediate [7] set names a scalar destination, clear needs 0. -/
def decRpl (f : SlotWord) : Except Cause (Option SDst) :=
  if f.imm.getLsbD 7 then some <$> decSD f.dst else do zeroD f.dst; return none

/-- 0x181 where the reply bit breaks the function's rule. -/
def chkRpl (r : RplRule) (f : SlotWord) : Except Cause Unit :=
  match r with
  | .never => chk (!f.imm.getLsbD 7) 0x181
  | .always => chk (f.imm.getLsbD 7) 0x181
  | .optional => .ok ()

/-- A scalar operand the function does not use: 0x00. -/
def decUn (used : Bool) (x : BitVec 8) : Except Cause SSrc :=
  if used then decS x else do zeroF x; return .g 0

/-- Copy and collective functions: operands A, B, the raw context in operand C, descriptor in imm [11:8];
`ext` says whether imm [15:12] is used. -/
def decEng (f : SlotWord) (n : Nat) (ua ub ext : Bool) (k : EngA → Except Cause Instr) : Except Cause Instr := do
  let rpl ← decRpl f
  let a ← decUn ua f.a
  let b ← decUn ub f.b
  let cx ← decRaw 4 0x023 f.c
  chk (decide (cx.toNat < n)) 0x023
  chk (ext || f.imm.extractLsb' 12 4 == 0) 0x013
  k ⟨f.guard, rpl, cx, f.imm.extractLsb' 8 4, a, b⟩

/-- The operation of CE.OUTR and COL.RED in imm [15:12] (12 R315, R320). -/
def decEngOp (f : SlotWord) (ok : AOp → Bool) (k : AOp → Instr) : Except Cause Instr :=
  match AOp.ofCode (f.imm.extractLsb' 12 4) with
  | none => .error 0x013
  | some o => do chk (ok o) 0x013; return k o

def decDescSet (f : SlotWord) : Except Cause Instr := do
  let _ ← decRpl f
  let a ← decS f.a
  let b ← decS f.b
  zeroF f.c
  chk (f.imm.extractLsb' 14 2 == 0) 0x013
  chkRpl .never f
  return .descSet f.guard (f.imm.extractLsb' 8 4) (f.imm.extractLsb' 12 2) a b

/-- The destination of a function that always replies; without its reply bit the cause is 0x181. -/
def decAlways (r : Option SDst) (k : SDst → Except Cause Instr) : Except Cause Instr :=
  match r with
  | none => .error 0x181
  | some d => k d

def decDescGet (f : SlotWord) : Except Cause Instr := do
  let r ← decRpl f
  zeroF f.a; zeroF f.b; zeroF f.c
  chk (!f.imm.getLsbD 15) 0x013
  decAlways r fun d => return .descGet f.guard d (f.imm.extractLsb' 8 4) (f.imm.extractLsb' 12 3)

def decEngStat (f : SlotWord) : Except Cause Instr := do
  let r ← decRpl f
  zeroF f.a; zeroF f.b; zeroF f.c
  chk (f.imm.extractLsb' 13 3 == 0) 0x013
  decAlways r fun d => do
    let n : BitVec 5 := f.imm.extractLsb' 8 5
    chk (decide (n.toNat ≤ 19) || n == 22 || n == 23) 0x182
    return .engStat f.guard d n

def decColq (f : SlotWord) : Except Cause Instr := do
  let rpl ← decRpl f
  zeroF f.a; zeroF f.b
  let cx ← decRaw 2 0x023 f.c
  chk (f.imm.extractLsb' 13 3 == 0) 0x013
  if f.imm.getLsbD 12 then return .colQFree ⟨f.guard, rpl, cx, f.imm.extractLsb' 8 4⟩
  else return .colQ ⟨f.guard, rpl, cx, f.imm.extractLsb' 8 4⟩

def decTeLoad (f : SlotWord) : Except Cause Instr := do
  let rpl ← decRpl f
  let a ← decS f.a
  let b ← decS f.b
  zeroF f.c
  chk (f.imm.extractLsb' 11 5 == 0) 0x013
  return .teLoad f.guard rpl (f.imm.extractLsb' 8 3) a b

def decTeCfg (f : SlotWord) : Except Cause Instr := do
  let _ ← decRpl f
  let a ← decS f.a
  zeroF f.b; zeroF f.c
  chk (!f.imm.getLsbD 15) 0x013
  chkRpl .never f
  chk (f.imm.extractLsb' 11 2 != 3 && f.imm.extractLsb' 13 2 != 3) 0x013
  return .teCfg f.guard (f.imm.extractLsb' 8 3) (f.imm.extractLsb' 11 2) (f.imm.extractLsb' 13 2) a

def decSch (f : SlotWord) (k : SchA → Instr) : Except Cause Instr := do
  let rpl ← decRpl f
  let a ← decS f.a
  let b ← decS f.b
  zeroF f.c
  chk (f.imm.extractLsb' 8 8 == 0) 0x013
  return k ⟨f.guard, rpl, a, b⟩

def decEngine (f : SlotWord) : Except Cause Instr :=
  if f.major ≠ 0 then .error 0x011
  else if f.xop ≠ 0 then .error 0x013
  else match (f.imm.extractLsb' 0 7).toNat with
    | 0x00 => decDescSet f
    | 0x01 => decDescGet f
    | 0x02 => decEngStat f
    | 0x08 => decEng f 16 true true false fun o => return .ceIn o
    | 0x09 => decEng f 16 true true false fun o => return .ceOut o
    | 0x0A => decEng f 16 true true true fun o => decEngOp f AOp.redOk fun op => .ceOutr o op
    | 0x0B => decEng f 16 true false false fun o => return .ceB o
    | 0x0C => decEng f 16 true true false fun o => return .ceWin o
    | 0x0D => decEng f 16 true true false fun o => return .ceGath o
    | 0x0E => decEng f 16 true true false fun o => return .ceScat o
    | 0x0F => decEng f 16 true true false fun o => return .ceXfer o
    | 0x10 => decEng f 16 false true false fun o => return .ceFill o
    | 0x20 => decEng f 4 true true true fun o => decEngOp f AOp.colOk fun op => .colRed o op
    | 0x21 => decEng f 4 true true false fun o => return .colAg o
    | 0x22 => decEng f 4 true true false fun o => return .colBc o
    | 0x23 => decColq f
    | 0x30 => decTeLoad f
    | 0x31 => decTeCfg f
    | 0x40 => decSch f .schEnq
    | 0x41 => decSch f .schRaise
    | 0x42 => decSch f .schPost
    | _ => .error 0x013

/-! ### A slot word of any class -/

/-- The last assigned major opcode of a class (07 R182 to R188). -/
def majorOk (slot m : Nat) : Bool :=
  match slot with
  | 0 | 1 => m ≤ 0x29
  | 2 => m ≤ 0x06 || (0x08 ≤ m && m ≤ 0x15) || (0x18 ≤ m && m ≤ 0x1B)
  | 3 => m ≤ 0x27
  | 4 => m ≤ 0x0A
  | 5 => m == 0
  | _ => m ≤ 0x0E || (0x10 ≤ m && m ≤ 0x19)

/-- One slot word: major opcode, form, then the family's own order (07 R191 point 3). -/
def decSlot (twin : Bool) (slot : Nat) (f : SlotWord) : Except Cause Instr := do
  chk (decide (f.major.toNat < 0x38)) 0x012
  chk (majorOk slot f.major.toNat) 0x011
  chk (f.long || !longOnly slot f.major.toNat) 0x014
  match slot with
  | 0 | 1 => decScalar f
  | 2 => decMemory f
  | 3 => decVector f
  | 4 => decMatrix f
  | 5 => decEngine f
  | _ => decControl twin f

/-! ### Extension words (07 R177) -/

/-- Put an extension word's payload into its operation: 0x032 where it takes none, 0x034 where a reserved
payload bit is set. LI.HI takes Y from the payload, and its imm16 is then ignored: 08 R203 neither reserves nor reads
it (Assumption 58). -/
def addExt (i : Instr) (p : BitVec 29) : Except Cause Instr :=
  let stepOk := p.extractLsb' 20 9 == 0
  let st : BitVec 20 := p.extractLsb' 0 20
  let sa : BitVec 14 := p.extractLsb' 0 14
  let sb : BitVec 14 := p.extractLsb' 14 14
  let mxOk := !p.getLsbD 28
  match i with
  | .li g d v => .ok (.li g d (p ++ v.extractLsb' 0 16))
  | .liHi g d a _ => do chk (p.extractLsb' 19 10 == 0) 0x034; return .liHi g d a (p.extractLsb' 0 19)
  | .ldB o => do chk stepOk 0x034; return .ldB { o with step := st }
  | .ldH o => do chk stepOk 0x034; return .ldH { o with step := st }
  | .ldW o => do chk stepOk 0x034; return .ldW { o with step := st }
  | .ldD o => do chk stepOk 0x034; return .ldD { o with step := st }
  | .ldsB o => do chk stepOk 0x034; return .ldsB { o with step := st }
  | .ldsH o => do chk stepOk 0x034; return .ldsH { o with step := st }
  | .ldsW o => do chk stepOk 0x034; return .ldsW { o with step := st }
  | .stB o => do chk stepOk 0x034; return .stB { o with step := st }
  | .stH o => do chk stepOk 0x034; return .stH { o with step := st }
  | .stW o => do chk stepOk 0x034; return .stW { o with step := st }
  | .stD o => do chk stepOk 0x034; return .stD { o with step := st }
  | .ldx o => do chk stepOk 0x034; return .ldx { o with step := st }
  | .stx o => do chk stepOk 0x034; return .stx { o with step := st }
  | .xlate o => do chk stepOk 0x034; return .xlate { o with step := st }
  | .gld o => do chk stepOk 0x034; return .gld { o with step := st }
  | .gst o => do chk stepOk 0x034; return .gst { o with step := st }
  | .atom o => do chk stepOk 0x034; return .atom { o with step := st }
  | .red o => do chk stepOk 0x034; return .red { o with step := st }
  | .atomr o => do chk (p.extractLsb' 16 13 == 0) 0x034; return .atomr { o with rid := some (p.extractLsb' 0 16) }
  | .vld o => do chk stepOk 0x034; return .vld { o with step := st }
  | .vst o => do chk stepOk 0x034; return .vst { o with step := st }
  | .vgath o => do chk stepOk 0x034; return .vgath { o with step := st }
  | .vscat o => do chk stepOk 0x034; return .vscat { o with step := st }
  | .mma o => do
    chk (mxOk && (!o.byp || sa == 0)) 0x034
    return .mma { o with com := { o.com with sa := sa, sb := sb } }
  | .mmas o => do chk mxOk 0x034; return .mmas { o with com := { o.com with sa := sa, sb := sb } }
  | .mdrain o => do
    chk (mxOk && sb == 0 && (!o.byp || sa == 0)) 0x034
    return .mdrain { o with com := { o.com with sa := sa } }
  | .tmld o => do chk (mxOk && sb == 0) 0x034; return .tmld { o with com := { o.com with sa := sa } }
  | .tmst o => do chk (mxOk && sb == 0) 0x034; return .tmst { o with com := { o.com with sa := sa } }
  | _ => .error 0x032

/-- Operations that commit: their guard must be p0 without negation (07 R173, 0x03A). -/
def Instr.commits : Instr → Bool
  | .mark _ | .markD _ | .atomr _ | .barArrRel _ _ => true
  | _ => false

/-- The LS families that name a v register (07 R185, 0x039). -/
def Instr.lsVector : Instr → Bool
  | .vld _ | .vst _ | .vgath _ | .vscat _ => true
  | _ => false

/-! ### The header and the bundle (07 R163 to R165, R191) -/

/-- Who issues the bundle: the pattern's mode and ownership (bit n of `own` gives slot 2 + n to stream B),
and the issuing stream, or none while LOAD reads the code (19 R430). -/
structure DecEnv where
  twin : Bool
  own : BitVec 4
  who : Option Bool
  deriving DecidableEq, Repr

/-- Whether a stream may issue in a slot (02 R43, R45). -/
def DecEnv.owns (e : DecEnv) (strB : Bool) (slot : Nat) : Bool :=
  if slot < 2 ∨ 5 < slot then true else if e.twin then !strB else e.own.getLsbD (slot - 2) == strB

/-- A decoded bundle: its length in words, repeat count, halt bits, and its operations by slot. -/
structure Bundle where
  len : Nat
  r : BitVec 6
  halt : BitVec 3
  ops : List (Nat × Instr)
  deriving DecidableEq, Repr

/-- The slots a header presents, ascending. -/
def presentSlots (h : Word32) : List Nat := (List.range 7).filter fun i => h.getLsbD i

def longSlot (h : Word32) (i : Nat) : Bool := h.getLsbD (16 + i)

/-- The header's own checks, 0x001 to 0x005 in order. -/
def chkHeader (h : Word32) : Except Cause Unit := do
  chk (h.extractLsb' 28 4 == 0xB) 0x001
  chk (h.extractLsb' 25 3 == 0) 0x002
  chk (h.extractLsb' 23 2 != 3) 0x003
  chk ((h.extractLsb' 16 7 &&& ~~~(h.extractLsb' 0 7)) == 0) 0x004
  chk ((h.extractLsb' 7 3 &&& h.extractLsb' 2 3) == 0) 0x005

/-- The length in words (07 R163). -/
def headerLen (h : Word32) : Nat :=
  1 + ((presentSlots h).map fun i => if longSlot h i then 2 else 1).sum + (h.extractLsb' 23 2).toNat

/-- The slot words after the header, in ascending slot number, and what follows them. -/
def readSlots (h : Word32) : List Nat → List Word32 → List (Nat × SlotWord) × List Word32
  | [], ws => ([], ws)
  | i :: is, ws =>
    if longSlot h i then
      let (r, rest) := readSlots h is (ws.drop 2)
      ((i, SlotWord.ofLong (ws.getD 0 0) (ws.getD 1 0)) :: r, rest)
    else
      let (r, rest) := readSlots h is (ws.drop 1)
      ((i, SlotWord.ofShort i (ws.getD 0 0)) :: r, rest)

def atSlot {α : Type} (slot : Nat) : Except Cause α → Except DecErr α
  | .ok a => .ok a
  | .error c => .error ⟨c, slot⟩

def decSlots (twin : Bool) : List (Nat × SlotWord) → Except DecErr (List (Nat × Instr))
  | [] => .ok []
  | (s, f) :: r => do
    let i ← atSlot s (decSlot twin s f)
    let is ← decSlots twin r
    return (s, i) :: is

/-- Replace the operation of a slot. -/
def setOp (s : Nat) (i : Instr) (ops : List (Nat × Instr)) : List (Nat × Instr) :=
  ops.map fun p => if p.1 = s then (s, i) else p

/-- The extension words in the order they stand; `seen` are the targets already met (07 R177, R191 point 4). -/
def decExts : List Word32 → List Nat → List (Nat × Instr) → Except DecErr (List (Nat × Instr))
  | [], _, ops => .ok ops
  | w :: ws, seen, ops =>
    let t := (w.extractLsb' 29 3).toNat
    if t = 7 then .error ⟨0x030, 7⟩
    else match ops.lookup t with
      | none => .error ⟨0x031, t⟩
      | some i =>
        match addExt i (w.extractLsb' 0 29) with
        | .error c => if c = 0x034 ∧ t ∈ seen then .error ⟨0x033, t⟩ else .error ⟨c, t⟩
        | .ok i' => if t ∈ seen then .error ⟨0x033, t⟩ else decExts ws (t :: seen) (setOp t i' ops)

/-- The first slot, present or halted, that the stream does not own (0x010). -/
def unowned (e : DecEnv) (strB : Bool) (h : Word32) : Option Nat :=
  ((List.range 7).filter fun i =>
    (h.getLsbD i || (decide (2 ≤ i) && decide (i ≤ 4) && h.getLsbD (5 + i))) && !e.owns strB i).head?

/-- The ownership checks, 0x010 and 0x039, for one stream. -/
def chkOwner (e : DecEnv) (strB : Bool) (h : Word32) (_ops : List (Nat × Instr)) : Except DecErr Unit :=
  match unowned e strB h with
  | some s => .error ⟨0x010, s⟩
  | none => .ok ()

def lsVecBad (e : DecEnv) (strB : Bool) (ops : List (Nat × Instr)) : Bool :=
  ops.any fun p => p.2.lsVector && !e.owns strB 3

/-- The checks made after the extension words: 0x010, then 0x038, 0x039, 0x03A (07 R191 point 5). -/
def chkLast (e : DecEnv) (h : Word32) (fs : List (Nat × SlotWord)) (ops : List (Nat × Instr)) :
    Except DecErr Unit := do
  match e.who with
  | some b => chkOwner e b h ops
  | none =>
    match chkOwner e false h ops, chkOwner e true h ops with
    | .error x, .error _ => .error x
    | _, _ => .ok ()
  atSlot 6 (chk (h.extractLsb' 10 6 == 0 || !h.getLsbD 6) 0x038)
  match e.who with
  | some b => atSlot 2 (chk (!lsVecBad e b ops) 0x039)
  | none =>
    let can (b : Bool) : Bool := (chkOwner e b h ops).isOk && !lsVecBad e b ops
    atSlot 2 (chk (can false || can true || (!(chkOwner e false h ops).isOk && !(chkOwner e true h ops).isOk)) 0x039)
  atSlot 6 (chk (!(ops.any fun p => p.2.commits &&
    fs.any fun q => q.1 = p.1 && (q.2.gp != 0 || q.2.neg))) 0x03A)

/-- Decode the bundle that starts the word list; the list ends where the pattern's code ends (0x006). -/
def decodeBundle (e : DecEnv) : List Word32 → Except DecErr Bundle
  | [] => .error ⟨0x006, 7⟩
  | h :: ws => do
    atSlot 7 (chkHeader h)
    atSlot 7 (chk (decide (headerLen h ≤ ws.length + 1)) 0x006)
    let (fs, rest) := readSlots h (presentSlots h) ws
    let ops ← decSlots e.twin fs
    let ops ← decExts (rest.take (h.extractLsb' 23 2).toNat) [] ops
    chkLast e h fs ops
    return ⟨headerLen h, h.extractLsb' 10 6, h.extractLsb' 7 3, ops⟩

/-- The one row a bundle stands for: its operation where it holds one, IDLE_BUNDLE where it holds none. -/
def Bundle.single (b : Bundle) : Option Instr :=
  match b.ops with
  | [] => some (.idleBundle b.r b.halt)
  | [(_, i)] => if b.r = 0 then some i else none
  | _ => none

/-! ### The encoder -/

def encS : SSrc → BitVec 8
  | .g n => 0#2 ++ n
  | .k n => 8#5 ++ n
  | .latch .la0 => 0x48 | .latch .la1 => 0x49 | .latch .lm => 0x4A | .latch .lv => 0x4B | .latch .lx => 0x4C
  | .ident .x => 0x50 | .ident .y => 0x51 | .ident .w => 0x52 | .ident .h => 0x53 | .ident .stream => 0x54
  | .ident .quad => 0x55 | .ident .qpos => 0x56 | .ident .part => 0x57 | .ident .launch => 0x58 | .ident .dev => 0x59
  | .imm v => 1#1 ++ v

def encV : VSrc → BitVec 8
  | .v n => 0#3 ++ n
  | .g n => 1#2 ++ n
  | .k n => 16#5 ++ n
  | .latch .la0 => 0x88 | .latch .la1 => 0x89 | .latch .lm => 0x8A | .latch .lv => 0x8B | .latch .lx => 0x8C
  | .imm v => 3#2 ++ v

def encSD : SDst → BitVec 7
  | .g n => 0#1 ++ n
  | .k n => 8#4 ++ n

/-- p0 to p7 are 1001ppp, p8 to p15 are 1010ppp. -/
def encPD (p : BitVec 4) : BitVec 7 := (if p.getLsbD 3 then 10#4 else 9#4) ++ p.extractLsb' 0 3

def encP (s : PSrc) : BitVec 8 := 0#3 ++ BitVec.ofBool s.inv ++ s.p

def bit1 (b : Bool) : BitVec 1 := BitVec.ofBool b

/-- A long word with every field zero but the major opcode and the guard. -/
def blank (major : BitVec 6) (g : Guard) : SlotWord := ⟨true, major, 0, g.p, g.neg, 0, 0, 0, 0, 0⟩

def encAlu2 (m : BitVec 6) (o : Alu2) : SlotWord :=
  match o.b with
  | .op b => { blank m o.gd with xop := 0#4 ++ bit1 o.w ++ 0#1, dst := encSD o.d, a := encS o.a, b := encS b }
  | .imm16 v => { blank m o.gd with xop := 0#4 ++ bit1 o.w ++ 1#1, dst := encSD o.d, a := encS o.a, imm := v }

def encCmp2 (m : BitVec 6) (o : Cmp2) : SlotWord :=
  match o.b with
  | .op b => { blank m o.gd with xop := 0#4 ++ bit1 o.w ++ 0#1, dst := encPD o.d, a := encS o.a, b := encS b }
  | .imm16 v => { blank m o.gd with xop := 0#4 ++ bit1 o.w ++ 1#1, dst := encPD o.d, a := encS o.a, imm := v }

def encPLog (m : BitVec 6) (o : PLog) : SlotWord :=
  { blank m o.gd with dst := encPD o.d, a := encP o.a, b := encP o.b }

def encSel (o : SelA) : SlotWord :=
  match o.b with
  | .op b => { blank 0x1E o.gd with dst := encSD o.d, a := encS o.a, b := encS b, c := encP o.c }
  | .imm16 v => { blank 0x1E o.gd with xop := 1, dst := encSD o.d, a := encS o.a, c := encP o.c, imm := v }

def encBfx (m : BitVec 6) (o : BfxA) : SlotWord :=
  match o.f with
  | .imm p l => { blank m o.gd with dst := encSD o.d, a := encS o.a, imm := 0#4 ++ l ++ p }
  | .reg p l => { blank m o.gd with xop := 1, dst := encSD o.d, a := encS o.a, b := encS p, c := encS l }

def encCnt (m : BitVec 6) (o : CntA) : SlotWord :=
  { blank m o.gd with xop := 0#4 ++ bit1 o.w ++ 0#1, dst := encSD o.d, a := encS o.a }

def encDisp (m : BitVec 6) (g : Guard) (d : BitVec 18) : SlotWord :=
  { blank m g with xop := 0#4 ++ d.extractLsb' 16 2, imm := d.extractLsb' 0 16 }

def encLd (m : BitVec 6) (o : LdA) : SlotWord :=
  { blank m o.gd with dst := encSD o.d, a := encS o.a, b := encS o.b, c := encS o.c, imm := o.imm }

def encSt (m : BitVec 6) (o : StA) : SlotWord :=
  { blank m o.gd with a := encS o.a, b := encS o.b, c := encS o.c, imm := o.imm }

def encAtt (t : GAtt) : BitVec 16 := t.cls ++ t.scope.code ++ t.flav.code ++ t.d7

def encAtom (m : BitVec 6) (o : AtomA) : SlotWord :=
  { blank m o.gd with xop := o.op.code ++ bit1 o.dw ++ 0#1, a := 0#4 ++ o.h, b := encS o.b, c := encS o.c, imm := encAtt o.att }

/-- The guard field of a vector word. -/
def vblank (m : BitVec 6) (g : VGuard) : SlotWord := ⟨true, m, 0, 0#1 ++ g.m, g.neg, 0, 0, 0, 0, 0⟩

def encVX (m : VMod) : BitVec 6 := bit1 m.v5 ++ bit1 m.v4 ++ m.fmt.code

def encVI (m : VMod) : BitVec 16 := m.x ++ bit1 m.sat ++ m.rnd.code

def encVop (m : BitVec 6) (o : VopA) : SlotWord :=
  { vblank m o.m.gd with xop := encVX o.m, dst := 0#2 ++ o.d, a := encV o.a, b := encV o.b, c := encV o.c, imm := encVI o.m }

def encVcmp (m : BitVec 6) (o : VcmpA) : SlotWord :=
  { vblank m o.m.gd with xop := encVX o.m, dst := 4#4 ++ o.d, a := encV o.a, b := encV o.b, imm := encVI o.m }

def encVscal (m : BitVec 6) (o : VscalA) : SlotWord :=
  { vblank m o.m.gd with xop := encVX o.m, dst := encSD o.d, a := 0#3 ++ o.a, b := encV o.b, imm := encVI o.m }

def encLm2 (m : BitVec 6) (o : Lm2A) : SlotWord :=
  { vblank m o.gd with xop := 0xB, dst := 4#4 ++ o.d, a := 0#5 ++ o.a, b := 0#5 ++ o.b }

def encTOp : TOp → BitVec 5
  | .blk n => 0#1 ++ n
  | .acc s => 2#2 ++ s

/-- The wait field of a matrix command. -/
def encCom (c : MxCom) : BitVec 16 := c.wait ++ c.delta

def encMx (m : BitVec 6) (c : MxCom) (x : BitVec 5) : SlotWord :=
  { blank m c.gd with xop := bit1 c.sig ++ x, imm := encCom c }

def encMaskR (m : BitVec 6) (o : MaskA) : SlotWord :=
  match o.range with
  | none => { blank m o.gd with dst := 0#5 ++ o.n, a := encS o.a }
  | some c => { blank m o.gd with xop := 1, dst := 0#5 ++ o.n, a := encS o.a, b := encS c }

def encRpl : Option SDst → BitVec 7
  | none => 0
  | some d => encSD d

/-- An ECMD word: imm [15:8] is `hi`, [7] the reply bit, [6:0] the function code. -/
def encEc (g : Guard) (rpl : Option SDst) (fc : BitVec 7) (hi : BitVec 8) (a b c : BitVec 8) : SlotWord :=
  { blank 0 g with dst := encRpl rpl, a := a, b := b, c := c, imm := hi ++ bit1 rpl.isSome ++ fc }

def encEng (fc : BitVec 7) (op : BitVec 4) (o : EngA) : SlotWord :=
  encEc o.gd o.rpl fc (op ++ o.ds) (encS o.a) (encS o.b) (0#4 ++ o.cx)

/-- The extension payload, if one is needed: a step of 0 needs none. -/
def encStep (s : BitVec 20) : Option (BitVec 29) := if s = 0 then none else some (0#9 ++ s)

def encSteps (c : MxCom) : Option (BitVec 29) :=
  if c.sa = 0 ∧ c.sb = 0 then none else some (0#1 ++ c.sb ++ c.sa)

/-- An instruction's slot, slot word and extension payload; none for the rows no bundle holds. -/
def Instr.enc : Instr → Option (Nat × SlotWord × Option (BitVec 29))
  | .add o => some (0, encAlu2 0x00 o, none) | .sub o => some (0, encAlu2 0x01 o, none)
  | .and o => some (0, encAlu2 0x02 o, none) | .or o => some (0, encAlu2 0x03 o, none)
  | .xor o => some (0, encAlu2 0x04 o, none) | .andn o => some (0, encAlu2 0x05 o, none)
  | .shl o => some (0, encAlu2 0x06 o, none) | .shr o => some (0, encAlu2 0x07 o, none)
  | .sar o => some (0, encAlu2 0x08 o, none) | .min o => some (0, encAlu2 0x09 o, none)
  | .max o => some (0, encAlu2 0x0A o, none) | .minu o => some (0, encAlu2 0x0B o, none)
  | .maxu o => some (0, encAlu2 0x0C o, none) | .mul o => some (0, encAlu2 0x0D o, none)
  | .mulh o => some (0, encAlu2 0x0E o, none) | .mulhu o => some (0, encAlu2 0x0F o, none)
  | .div o => some (0, encAlu2 0x10 o, none) | .divu o => some (0, encAlu2 0x11 o, none)
  | .rem o => some (0, encAlu2 0x12 o, none) | .remu o => some (0, encAlu2 0x13 o, none)
  | .cmpeq o => some (0, encCmp2 0x14 o, none) | .cmpne o => some (0, encCmp2 0x15 o, none)
  | .cmplt o => some (0, encCmp2 0x16 o, none) | .cmple o => some (0, encCmp2 0x17 o, none)
  | .cmpltu o => some (0, encCmp2 0x18 o, none) | .cmpleu o => some (0, encCmp2 0x19 o, none)
  | .pand o => some (0, encPLog 0x1A o, none) | .por o => some (0, encPLog 0x1B o, none)
  | .pxor o => some (0, encPLog 0x1C o, none) | .pandn o => some (0, encPLog 0x1D o, none)
  | .sel o => some (0, encSel o, none)
  | .bfx o => some (0, encBfx 0x1F o, none) | .bfxs o => some (0, encBfx 0x20 o, none)
  | .bfi o => some (0, { blank 0x21 o.gd with dst := encSD o.d, a := encS o.a, b := encS o.b, imm := 0#4 ++ o.lm1 ++ o.p }, none)
  | .clz o => some (0, encCnt 0x22 o, none) | .ctz o => some (0, encCnt 0x23 o, none)
  | .popc o => some (0, encCnt 0x24 o, none)
  | .agen2 o => some (0, { blank 0x25 o.gd with dst := encSD o.d, a := encS o.a, b := encS o.b, c := encS o.c, imm := 0#4 ++ o.s2 ++ o.s1 }, none)
  | .li g d v => some (0, { blank 0x26 g with dst := encSD d, imm := v.extractLsb' 0 16 }, some (v.extractLsb' 16 29))
  | .liHi g d a v => some (0, { blank 0x26 g with xop := 1, dst := encSD d, a := encS a }, some (0#10 ++ v))
  | .rdsr g d n => some (0, { blank 0x27 g with dst := encSD d, a := n.num }, none)
  | .wrsr g a => some (0, { blank 0x28 g with a := 6, b := encS a }, none)
  | .rdmb g d n => some (0, { blank 0x29 g with dst := encSD d, a := 0#4 ++ n }, none)
  | .nop g => some (6, blank 0x00 g, none)
  | .br g d => some (6, encDisp 0x01 g d, none)
  | .bri g a v => some (6, { blank 0x02 g with a := encS a, imm := v }, none)
  | .call g d v => some (6, { encDisp 0x03 g v with dst := encSD d }, none)
  | .ret g a => some (6, { blank 0x04 g with a := encS a }, none)
  | .loop o c => some (6, { blank 0x05 o.gd with dst := 0#5 ++ o.n, b := o.e.extractLsb' 8 8, c := o.e.extractLsb' 0 8, imm := c }, none)
  | .loopr o a => some (6, { blank 0x06 o.gd with dst := 0#5 ++ o.n, a := encS a, b := o.e.extractLsb' 8 8, c := o.e.extractLsb' 0 8 }, none)
  | .lexit g => some (6, blank 0x07 g, none)
  | .fork g d => some (6, encDisp 0x08 g d, none)
  | .join g => some (6, blank 0x09 g, none)
  | .jset g n => some (6, { blank 0x0A g with a := 8#4 ++ n }, none)
  | .jclr g n => some (6, { blank 0x0B g with a := 8#4 ++ n }, none)
  | .jwait g n => some (6, { blank 0x0C g with a := 8#4 ++ n }, none)
  | .trap g e => some (6, { blank 0x0D g with a := 2#2 ++ e }, none)
  | .exit g => some (6, blank 0x0E g, none)
  | .mark v => some (6, { blank 0x10 ⟨0, false⟩ with imm := v }, none)
  | .markD v => some (6, { blank 0x11 ⟨0, false⟩ with imm := v }, none)
  | .barInit g b s n => some (6, { blank 0x12 g with a := 0#1 ++ b, b := encS n, imm := 0#13 ++ s.code }, none)
  | .barArr g b => some (6, { blank 0x13 g with a := 0#1 ++ b }, none)
  | .barArrRel b v => some (6, { blank 0x13 ⟨0, false⟩ with xop := 1, a := 0#1 ++ b, imm := v }, none)
  | .barWait g b => some (6, { blank 0x14 g with a := 0#1 ++ b }, none)
  | .barAw g b => some (6, { blank 0x15 g with a := 0#1 ++ b }, none)
  | .tlwait g n d => some (6, { blank 0x16 g with a := 0#3 ++ n, imm := d }, none)
  | .tlinc g n a none => some (6, { blank 0x17 g with a := 3#5 ++ n, b := encS a }, none)
  | .tlinc g n a (some (dx, dy)) => some (6, { blank 0x17 g with xop := 1, a := 3#5 ++ n, b := encS a, imm := dx ++ dy }, none)
  | .tlrd g d n => some (6, { blank 0x18 g with dst := encSD d, a := 0#3 ++ n }, none)
  | .tlbase g n ad a => some (6, { blank 0x19 g with xop := 0#5 ++ bit1 ad, dst := 0#2 ++ n, a := encS a }, none)
  | .ldB o => some (2, encLd 0x00 o, encStep o.step) | .ldH o => some (2, encLd 0x01 o, encStep o.step)
  | .ldW o => some (2, encLd 0x02 o, encStep o.step) | .ldD o => some (2, encLd 0x03 o, encStep o.step)
  | .ldsB o => some (2, encLd 0x04 o, encStep o.step) | .ldsH o => some (2, encLd 0x05 o, encStep o.step)
  | .ldsW o => some (2, encLd 0x06 o, encStep o.step)
  | .stB o => some (2, encSt 0x08 o, encStep o.step) | .stH o => some (2, encSt 0x09 o, encStep o.step)
  | .stW o => some (2, encSt 0x0A o, encStep o.step) | .stD o => some (2, encSt 0x0B o, encStep o.step)
  | .ldx o => some (2, { blank 0x0C o.gd with xop := 0#3 ++ bit1 o.s ++ o.w.code, dst := encSD o.d, a := encS o.a, c := encS o.c, imm := o.dx ++ o.dy }, encStep o.step)
  | .stx o => some (2, { blank 0x0D o.gd with xop := 0#4 ++ o.w.code, a := encS o.a, b := encS o.b, c := encS o.c, imm := o.dx ++ o.dy }, encStep o.step)
  | .xlate o => some (2, { blank 0x0E o.gd with dst := 0#3 ++ o.h, a := encS o.a, b := encS o.b, c := encS o.c, imm := o.imm }, encStep o.step)
  | .hrel g h => some (2, { blank 0x0F g with dst := 0#3 ++ h }, none)
  | .gld o => some (2, { blank 0x10 o.gd with xop := o.w.code ++ bit1 o.s ++ 0#3, dst := encSD o.d, a := 0#4 ++ o.h, b := encS o.b, imm := encAtt o.att }, encStep o.step)
  | .gst o => some (2, { blank 0x11 o.gd with xop := o.w.code ++ 0#4, a := 0#4 ++ o.h, b := encS o.b, c := encS o.c, imm := encAtt o.att }, encStep o.step)
  | .atom o => some (2, encAtom 0x12 o, encStep o.step)
  | .atomr o => some (2, { blank 0x13 ⟨0, false⟩ with xop := o.op.code ++ bit1 o.dw ++ 0#1, dst := encSD o.d, a := 0#4 ++ o.h, b := encS o.b, c := encS o.c, imm := encAtt o.att }, o.rid.map fun v => 0#13 ++ v)
  | .red o => some (2, encAtom 0x14 o, encStep o.step)
  | .fenceC g m => some (2, { blank 0x15 g with imm := m }, none)
  | .vld o => some (2, { blank 0x18 o.gd with xop := 0#3 ++ o.lm, dst := 0#2 ++ o.d, a := encS o.a, b := encS o.b, c := encS o.c, imm := o.imm }, encStep o.step)
  | .vst o => some (2, { blank 0x19 o.gd with xop := 0#3 ++ o.lm, a := encS o.a, b := 0#3 ++ o.b, c := encS o.c, imm := o.imm }, encStep o.step)
  | .vgath o => some (2, { blank 0x1A o.gd with xop := bit1 o.s ++ o.z.code ++ o.lm, dst := 0#2 ++ o.d, a := encS o.a, b := 0#3 ++ o.x, c := encS o.c, imm := o.imm }, encStep o.step)
  | .vscat o => some (2, { blank 0x1B o.gd with xop := 0#1 ++ o.z.code ++ o.lm, a := 0#3 ++ o.x, b := 0#3 ++ o.b, c := encS o.c, imm := o.imm }, encStep o.step)
  | .vadd o => some (3, encVop 0x00 o, none) | .vsub o => some (3, encVop 0x01 o, none)
  | .vmul o => some (3, encVop 0x02 o, none) | .vmin o => some (3, encVop 0x03 o, none)
  | .vmax o => some (3, encVop 0x04 o, none) | .vabs o => some (3, encVop 0x05 o, none)
  | .vneg o => some (3, encVop 0x06 o, none) | .vfma o => some (3, encVop 0x07 o, none)
  | .vand o => some (3, encVop 0x08 o, none) | .vor o => some (3, encVop 0x09 o, none)
  | .vxor o => some (3, encVop 0x0A o, none) | .vshl o => some (3, encVop 0x0B o, none)
  | .vshr o => some (3, encVop 0x0C o, none) | .vsar o => some (3, encVop 0x0D o, none)
  | .vadds o => some (3, encVop 0x0E o, none) | .vsubs o => some (3, encVop 0x0F o, none)
  | .vcmpeq o => some (3, encVcmp 0x10 o, none) | .vcmpne o => some (3, encVcmp 0x11 o, none)
  | .vcmplt o => some (3, encVcmp 0x12 o, none) | .vcmple o => some (3, encVcmp 0x13 o, none)
  | .vsel o => some (3, encVop 0x14 o, none) | .vmov o => some (3, encVop 0x15 o, none)
  | .vbcast o => some (3, encVop 0x16 o, none) | .vperm o => some (3, encVop 0x17 o, none)
  | .vext o => some (3, encVscal 0x18 o, none) | .vins o => some (3, encVop 0x19 o, none)
  | .vredsum o => some (3, encVscal 0x1A o, none) | .vredmax o => some (3, encVscal 0x1B o, none)
  | .vredmin o => some (3, encVscal 0x1C o, none)
  | .vcvt o => some (3, encVop 0x1D o, none) | .vqscale o => some (3, encVscal 0x1E o, none)
  | .vquant o => some (3, encVop 0x1F o, none) | .vdq o => some (3, encVop 0x20 o, none)
  | .vtbl o => some (3, encVop 0x21 o, none)
  | .lmand o => some (3, encLm2 0x22 o, none) | .lmor o => some (3, encLm2 0x23 o, none)
  | .lmxor o => some (3, encLm2 0x24 o, none) | .lmandn o => some (3, encLm2 0x25 o, none)
  | .lmset o => some (3, { vblank 0x26 o.gd with xop := 0#1 ++ bit1 o.first ++ 0xB#4, dst := 4#4 ++ o.d, a := encV o.a }, none)
  | .lmpopc o => some (3, { vblank 0x27 o.gd with xop := 0xB, dst := encSD o.d, a := 0#5 ++ o.a }, none)
  | .mma o => some (4, { encMx 0x00 o.com (o.slot ++ bit1 o.set ++ bit1 o.byp) with a := encS o.a, b := encS o.b, c := encS o.c }, encSteps o.com)
  | .mmas o => some (4, { encMx 0x01 o.com (o.slot ++ bit1 o.set ++ bit1 o.byp) with a := encS o.a, b := encS o.b, c := encS o.c }, encSteps o.com)
  | .mzero c s => some (4, { encMx 0x02 c 0 with a := 0#5 ++ s }, none)
  | .mset g n a v => some (4, { blank 0x03 g with xop := 0#3 ++ n, a := encS a, imm := v }, none)
  | .mdrain o => some (4, { encMx 0x04 o.com (o.slot ++ bit1 o.byp ++ 0#1) with a := encS o.a, c := encS o.c }, encSteps o.com)
  | .macc c s t => some (4, { encMx 0x05 c (s ++ 0#2) with a := 0#3 ++ encTOp t }, none)
  | .tmld o => some (4, { encMx 0x06 o.com (encTOp o.t) with a := encS o.a, c := encS o.c }, encSteps o.com)
  | .tmst o => some (4, { encMx 0x07 o.com (encTOp o.t) with a := encS o.a, c := encS o.c }, encSteps o.com)
  | .tmmv c t u => some (4, { encMx 0x08 c (encTOp t) with a := 0#3 ++ encTOp u }, none)
  | .mrset o => some (4, encMaskR 0x09 o, none)
  | .mcset o => some (4, encMaskR 0x0A o, none)
  | .descSet g n p a b => some (5, encEc g none 0x00 (0#2 ++ p ++ n) (encS a) (encS b) 0, none)
  | .descGet g d n w => some (5, encEc g (some d) 0x01 (0#1 ++ w ++ n) 0 0 0, none)
  | .engStat g d n => some (5, encEc g (some d) 0x02 (0#3 ++ n) 0 0 0, none)
  | .ceIn o => some (5, encEng 0x08 0 o, none) | .ceOut o => some (5, encEng 0x09 0 o, none)
  | .ceOutr o op => some (5, encEng 0x0A op.code o, none)
  | .ceB o => some (5, encEng 0x0B 0 o, none) | .ceWin o => some (5, encEng 0x0C 0 o, none)
  | .ceGath o => some (5, encEng 0x0D 0 o, none) | .ceScat o => some (5, encEng 0x0E 0 o, none)
  | .ceXfer o => some (5, encEng 0x0F 0 o, none) | .ceFill o => some (5, encEng 0x10 0 o, none)
  | .colRed o op => some (5, encEng 0x20 op.code o, none)
  | .colAg o => some (5, encEng 0x21 0 o, none) | .colBc o => some (5, encEng 0x22 0 o, none)
  | .colQ o => some (5, encEc o.gd o.rpl 0x23 (0#4 ++ o.ds) 0 0 (0#6 ++ o.cx), none)
  | .colQFree o => some (5, encEc o.gd o.rpl 0x23 (1#4 ++ o.ds) 0 0 (0#6 ++ o.cx), none)
  | .teLoad g r t a b => some (5, encEc g r 0x30 (0#5 ++ t) (encS a) (encS b) 0, none)
  | .teCfg g t lo hi a => some (5, encEc g none 0x31 (0#1 ++ hi ++ lo ++ t) (encS a) 0 0, none)
  | .schEnq o => some (5, encEc o.gd o.rpl 0x40 0 (encS o.a) (encS o.b) 0, none)
  | .schRaise o => some (5, encEc o.gd o.rpl 0x41 0 (encS o.a) (encS o.b) 0, none)
  | .schPost o => some (5, encEc o.gd o.rpl 0x42 0 (encS o.a) (encS o.b) 0, none)
  | _ => none

/-- The header of a bundle of one long slot word and its extension words (07 R165). -/
def encHeader (slot : Nat) (ext : Bool) : Word32 :=
  0xB000_0000 ||| ((BitVec.ofNat 32 ext.toNat) <<< 23) ||| (1#32 <<< (16 + slot)) ||| (1#32 <<< slot)

/-- The words of a bundle that holds the one instruction; empty for the rows no bundle holds. -/
def encode (i : Instr) : List Word32 :=
  match i with
  | .idleBundle r h => [0xB000#16 ++ r ++ h ++ 0#7]
  | i =>
    match i.enc with
    | none => []
    | some (s, f, none) => [encHeader s false, f.w0, f.w1]
    | some (s, f, some p) => [encHeader s true, f.w0, f.w1, BitVec.ofNat 3 s ++ p]

/-! ### The table's words -/

/-- The ownership under which the table's words are read: a split-mode stream A that owns every slot. -/
def tableEnv : DecEnv := ⟨false, 0, some false⟩

/-- The longest bundle, in words (07 R163). -/
def maxBundle : Nat := 17

/-- The words of a number whose bit 0 is the least significant bit of the first word. -/
def wordsOf : Nat → Nat → List Word32
  | 0, _ => []
  | n + 1, w => BitVec.ofNat 32 w :: wordsOf n (w / 2 ^ 32)

/-- What the decoder reads from the table's word: the bits above `nbits` are zero. -/
def decodeTableWord (nbits w : Nat) : Option Instr :=
  match decodeBundle tableEnv (wordsOf maxBundle (w % 2 ^ nbits)) with
  | .ok b => b.single
  | .error _ => none

end Sys2Proof
end

