-- ==== Sys2Proof/Machine/State.lean ====
section
/-! DEFINITION. The state of the device: every piece of state the manual names, as plain data, and the
state after reset. INVENTORY.md lists each field with its rule and its reset value. -/

namespace Sys2Proof.Machine

/-! ### Values with their poison (20 R441) -/

/-- A scalar register's value and whether it is poisoned. -/
structure Val where
  bits : Word := 0
  bad : Bool := false
  deriving DecidableEq, Repr

/-- A predicate register. -/
structure PredV where
  bit : Bool := false
  bad : Bool := false
  deriving DecidableEq, Repr

/-- A lane-mask register. -/
structure MaskV where
  bits : BitVec 32 := 0
  bad : Bool := false
  deriving DecidableEq, Repr

/-- A vector register; poison is kept by 32-bit lane. -/
structure VReg where
  bits : BitVec 1024 := 0
  bad : BitVec 32 := 0
  deriving DecidableEq, Repr

/-- A byte and whether it comes from poisoned storage. -/
abbrev PByte := Byte × Bool

/-- Byte-addressed storage: the listed bytes, strictly rising and none 0x00, an unlisted byte reading 0x00;
and the numbers of the poisoned granules, strictly rising. The granule's size belongs to the storage:
8 bytes in scratchpad and B-stack, 4 in tensor memory, 32 in HBM4 (20 R441). -/
structure Mem where
  cells : List Host.Cell := []
  bad : List Nat := []
  deriving DecidableEq, Repr

/-! ### Registers of a stream (03 R66) -/

/-- What a page maps to, and so where an access is performed: local HBM4, host memory by CXL.cache or by
PCI Express, a peer (14 R377 bits [7:6]). -/
inductive Target | hbm | cxl | pcie | peer
  deriving DecidableEq, Repr

/-- A translation (03 R89): the page that holds the address, its permissions, target and the place it maps
to, under the owner tag that translated it. -/
structure Page where
  base : Nat
  size : Nat
  rd : Bool
  wr : Bool
  target : Target
  dev : BitVec 20
  place : Nat
  tag : BitVec 16
  deriving DecidableEq, Repr

/-- A valid handle: the translated address V and its page. -/
structure Handle where
  va : Nat
  page : Page
  deriving DecidableEq, Repr

/-- The latches, in the order of their specifiers (03 R62). -/
structure Latches where
  la0 : Val := {}
  la1 : Val := {}
  lm : Val := {}
  lv : Val := {}
  lx : Val := {}
  deriving DecidableEq, Repr

/-- One context bank's register sets. -/
structure Bank where
  g : Vector Val 64 := Vector.replicate 64 {}
  k : Vector Val 8 := Vector.replicate 8 {}
  la : Latches := {}
  p : Vector PredV 16 := Vector.replicate 16 {}
  m : Vector MaskV 8 := Vector.replicate 8 {}
  mr : Vector Val 4 := Vector.replicate 4 {}
  mc : Vector Val 4 := Vector.replicate 4 {}
  lc : Vector (BitVec 32) 4 := Vector.replicate 4 0
  lcBad : BitVec 4 := 0
  h : Vector (Option Handle) 16 := Vector.replicate 16 none
  tb : Vector Val 32 := Vector.replicate 32 {}
  v : Vector VReg 32 := Vector.replicate 32 {}
  deriving DecidableEq, Repr

/-- A taken transfer that is pending (07 R180): how many delay bundles are still to issue, the target,
whether the target is the bundle after the one at that offset (08 R213), and how many issues of the target have been
made (none but where a stream resumes within a repeated bundle, 07 R166). -/
structure Pend where
  left : Nat
  target : Word
  after : Bool
  done : Nat
  deriving DecidableEq, Repr

/-- Loop state (08 R209); the counters lc are in the bank. -/
structure Loops where
  depth : Nat := 0
  starts : Vector Word 4 := Vector.replicate 4 0
  ends : Vector Word 4 := Vector.replicate 4 0
  deriving DecidableEq, Repr

/-- An active sticky slot (07 R167): its operation, the re-issue index and the address operands a_0. -/
structure Sticky where
  op : Instr
  n : Nat
  addrs : List Val
  deriving DecidableEq, Repr

/-- A commit the stream has presented (02 R49): MARK, MARK.D, ATOMR or BAR.ARR.REL with its record. -/
inductive CommitKind
  | mark
  | markD
  | atomr
  | arrRel (b : BitVec 7)
  deriving DecidableEq, Repr

/-- A presented commit: its kind, its record, its issue sc. -/
structure Presented where
  kind : CommitKind
  record : BitVec 16
  iss : Nat
  deriving DecidableEq, Repr

/-- A stream of a tile. `resumeAt` says where it goes on after its rebuild stub: pc, skip, issues made, pending
transfers (02 R52). `sig` is its running signature (02 R44). -/
structure Stream where
  bank : Bank := {}
  bankNo : Bool := false
  running : Bool := false
  startAt : Nat := 0
  pc : Word := 0
  skip : Bool := false
  done : Nat := 0
  pend : List Pend := []
  loops : Loops := {}
  ls : Option Sticky := none
  va : Option Sticky := none
  mx : Option Sticky := none
  srpos : Word := 0
  srNext : Option Word := none
  presented : Option Presented := none
  waitFrom : Option Nat := none
  arrived : Bool := false
  resumeAt : Option (Word × Bool × Nat × List Pend) := none
  sig : BitVec 128 := 0
  deriving DecidableEq, Repr

/-! ### Tile storage -/

/-- One named barrier's state in one tile's copy (09 R243): `lastDone` is the sc of its latest completion. -/
structure Barrier where
  scope : Option BarScope := none
  n : Nat := 0
  a : Nat := 0
  phase : BitVec 32 := 0
  lastDone : Option Nat := none
  targetA : BitVec 32 := 0
  targetB : BitVec 32 := 0
  pendA : Bool := false
  pendB : Bool := false
  deriving DecidableEq, Repr

/-- A clean-fill record of a 4 KiB segment (03 R79, 12 R318). -/
structure Clean where
  seg : Nat
  va : Nat
  cls : BitVec 4
  scope : BitVec 3
  gen : BitVec 32
  deriving DecidableEq, Repr

/-- A resident interpolation table (04 R110, 10 R277): the 3,104-byte image and the numbers of its poisoned
32-bit words. -/
structure Table where
  bytes : List Byte
  bad : List Nat
  deriving DecidableEq, Repr

/-- TE.CFG's fields (12 R325). -/
structure TabCfg where
  lowPol : BitVec 2
  highPol : BitVec 2
  consts : Word
  deriving DecidableEq, Repr

/-- A table slot (10 R278): the table once loaded, the address of the last TE.LOAD and the TE.CFGs after it. -/
structure TabSlot where
  table : Option Table
  source : Nat
  cfgs : List TabCfg
  deriving DecidableEq, Repr

/-- The A-bypass buffer, full (11 R302): the format and the 64 x 64 element encodings by rows. -/
structure Bypass where
  fmt : Fmt
  elems : List (Word32 × Bool)
  deriving DecidableEq, Repr

/-- The matrix commands (11 R282). -/
inductive MxOp
  | mma (slot : BitVec 3) (set byp : Bool)
  | mmas (slot : BitVec 3) (set : Bool)
  | mzero (slot : BitVec 3)
  | macc (slot : BitVec 3) (src : TOp)
  | mdrain (slot : BitVec 3) (byp : Bool)
  | tmld (t : TOp)
  | tmst (t : TOp)
  | tmmv (t src : TOp)
  deriving DecidableEq, Repr

/-- One write a started command makes at its completion: tensor-memory words or scratchpad bytes. -/
structure MxWrite where
  tm : Bool
  addr : Nat
  data : List PByte
  deriving DecidableEq, Repr

/-- An enqueued matrix command with everything it captured (11 R282), its start and completion sc (11 R286)
and, once started, what it will write. -/
structure MxCmd where
  op : MxOp
  enq : Nat
  start : Nat
  fin : Nat
  gap : Nat
  key : Nat
  started : Bool
  sig : Bool
  wait : Option (Nat × Word)
  mp : Vector Val 8
  rows : BitVec 64
  cols : BitVec 64
  srpos : Word
  strB : Bool
  addrA : Word
  addrB : Word
  rdCopy : Bool
  wrCopy : Bool
  srcCopy : Bool
  fresh : Bool
  out : List MxWrite
  ovf : Bool
  byp : Option Bypass
  deriving DecidableEq, Repr

/-- The functions that take a command entry (12 R306, R309). -/
inductive EngFn
  | ceIn | ceOut | ceOutr (op : AOp) | ceB | ceWin | ceGath | ceScat | ceXfer | ceFill
  | colRed (op : AOp) | colAg | colBc | colQ | colQFree
  | teLoad (tab : BitVec 3)
  | schEnq | schRaise | schPost
  deriving DecidableEq, Repr

/-- Where an engine command stands: gated until its commit, sent but not started, started, or parked. -/
inductive CmdSt
  | gated
  | sent
  | started
  | parked (cause : Cause) (va : Nat)
  deriving DecidableEq, Repr

/-- A range of a tile's scratchpad or B-stack. -/
structure Range where
  bstack : Bool
  tile : Nat
  start : Nat
  len : Nat
  deriving DecidableEq, Repr

/-- An engine command, outstanding (12 R309, R313): descriptor and operands as captured at issue. `rank` is its place
among the commands of its counter that its stitch issued (13 R357); `touched` is what others have written since its
issue, `wrote` what it has written itself (05 R138); `moved` names the pieces it has moved (05 R122); `sends` counts
how often its request was sent again (20 R450). -/
structure Cmd where
  id : Nat
  fn : EngFn
  ctr : Nat
  num : Nat
  desc : Vector Val 8
  a : Word
  b : Word
  key : Nat
  stitch : Nat
  st : CmdSt
  tag : Option (BitVec 16)
  gen : BitVec 32
  touched : List Range
  dead : Bool
  lost : Bool
  rank : Nat
  wrote : List Range
  moved : List Nat
  sends : Nat
  deriving DecidableEq, Repr

/-- The destination of an engine command not yet acquired (05 R138): reading it gives free values. -/
structure Unacq where
  ctr : Nat
  num : Nat
  range : Option Range
  tab : Option (BitVec 3)
  deriving DecidableEq, Repr

/-- One entry of a tile's issue order of global accesses (05 R119, R127): a load, an item, an engine
command, or a fence, with its issue sc and what the order depends on. An engine command's bytes follow from the command. -/
structure Acc where
  id : Nat
  load : Bool
  item : Bool
  engine : Bool
  fence : Option (BitVec 16)
  cls : BitVec 4
  acq : Bool
  rel : Bool
  stitch : Nat
  iss : Nat
  spans : List (Target × BitVec 20 × Nat × Nat)
  deriving DecidableEq, Repr

/-- The storages of a tile that a byte can be unspecified in. -/
inductive Space | sp | tm | bs
  deriving DecidableEq, Repr

/-- Bytes that read as free values until they are written (03 R74): `id` names the free values. -/
structure FreeRange where
  space : Space
  start : Nat
  len : Nat
  id : Nat
  deriving DecidableEq, Repr

/-- A tile of a region. `mxLast` names the matrix command that was enqueued last, completed or not (11 R286). -/
structure Tile where
  sp : Mem := {}
  clean : List Clean := []
  tm : Mem := {}
  bs : Mem := {}
  accCom : BitVec 8 := 0
  accWr : BitVec 8 := 0
  ovf : BitVec 16 := 0
  byp : Option Bypass := none
  bypFmt : Option Fmt := none
  mp : Vector Val 8 := (Vector.replicate 8 {}).set 5 ⟨0x9, false⟩
  mxq : List MxCmd := []
  mxLast : Option Nat := none
  ds : Vector (Vector Val 8) 16 := Vector.replicate 16 (Vector.replicate 8 {})
  tabs : Vector (Option TabSlot) 8 := Vector.replicate 8 none
  tl : Vector Word 32 := Vector.replicate 32 0
  issued : Vector Nat 32 := Vector.replicate 32 0
  used : Vector Nat 32 := Vector.replicate 32 0
  counted : List (Nat × Nat) := []
  order : List Acc := []
  free : List FreeRange := []
  j : BitVec 16 := 0
  mb : Vector Word 16 := Vector.replicate 16 0
  bars : Vector Barrier 128 := Vector.replicate 128 {}
  a : Stream := {}
  b : Stream := {}
  twinBad : Bool := false
  dataBad : Bool := false
  mxBad : Bool := false
  codeBad : List Nat := []
  deriving DecidableEq, Repr

/-! ### What is in flight on the region clock -/

/-- An effect with a fixed sc (00 R11, 02 R37); `rel` marks the arrival of a BAR.ARR.REL (05 R132). -/
inductive Flight
  | scalar (d : Option SDst) (la : Option Latch) (x : Val)
  | pred (d : BitVec 4) (la : Latch) (x : PredV)
  | mask (d : BitVec 3) (bits wr : BitVec 32) (bad : Bool)
  | vec (d : BitVec 5) (bits wr : BitVec 1024) (bad : BitVec 32)
  | mxmask (col : Bool) (d : BitVec 2) (x : Val)
  | tb (d : BitVec 5) (x : Val)
  | handle (n : BitVec 4) (h : Handle)
  | store (tile : Nat) (parts : List (Nat × List PByte))
  | sample (tile : Nat) (addr n : Nat) (sx : Bool) (d : SDst) (due : Nat)
  | arrive (bar : BitVec 7) (rel : Bool)
  | phase (bar : BitVec 7)
  | inc (tile : Nat) (n : BitVec 5) (amt : BitVec 32)
  deriving DecidableEq, Repr

/-- An entry in flight: the sc it takes effect, the sc it was issued, its issuing stream, and its place
in the order of writes of one sc (02 R37, 07 R179). -/
structure Fly where
  due : Nat
  iss : Nat
  key : Nat
  tile : Nat
  strB : Bool
  what : Flight
  deriving DecidableEq, Repr

/-- A result that comes from wall time (02 R38): the value of a GLD or ATOMR, or the handle of an XLATE. -/
inductive AwaitKind
  | gld (n : Nat) (sx : Bool)
  | xlate (va : Nat)
  | atomr
  deriving DecidableEq, Repr

/-- Whether it has arrived, been refused, or is still awaited. -/
inductive AwaitSt
  | waiting
  | value (x : Val)
  | handle (h : Handle)
  | refused (c : Cause) (va : Nat)
  deriving DecidableEq, Repr

/-- An awaited result: its destination, whether no later write has taken its place there (`live`) or in the
latch lm (`latch`), the sc it lands, its state, the bytes already read at its home (05 R122), how often its request was
sent again (20 R450). -/
structure Await where
  id : Nat
  kind : AwaitKind
  st : AwaitSt
  tile : Nat
  strB : Bool
  due : Nat
  iss : Nat
  key : Nat
  dst : Option SDst
  hnd : Option (BitVec 4)
  live : Bool
  latch : Bool
  page : Option Page
  addr : Nat
  landed : Bool
  lost : Bool
  got : List (Nat × PByte)
  sends : Nat
  deriving DecidableEq, Repr

/-- What a gated item is (05 R124). -/
inductive ItemKind
  | gst
  | atom (op : AOp) (dw : Bool) (v : Word)
  | red (op : AOp) (dw : Bool) (v : Word)
  | atomr (op : AOp) (dw : Bool) (v cmp : Word) (await : Nat)
  | cmd (id : Nat)
  deriving DecidableEq, Repr

/-- A gated item and, after its release, the item not yet performed; `moved` names the bytes of a store that have been
written (05 R122). -/
structure Item where
  id : Nat
  kind : ItemKind
  tile : Nat
  key : Nat
  stitch : Nat
  released : Bool
  va : Nat
  page : Option Page
  bytes : List Byte
  bad : Bool
  cls : BitVec 4
  scope : BitVec 3
  flav : BitVec 2
  wcode : BitVec 8
  tag : Option (BitVec 16)
  lost : Bool
  moved : List Nat
  sends : Nat
  deriving DecidableEq, Repr

/-! ### Regions -/

/-- Where a cause was raised (18 R425 mb2, mb3). -/
structure Raise where
  cause : Cause
  precise : Bool
  tile : Nat
  strB : Bool
  slot : Nat
  offset : Nat
  va : Nat
  ctr : Option Nat
  cmd : Option Nat
  deriving DecidableEq, Repr

/-- A safe-point record (02 R51, 13 R361). -/
structure SafePt where
  id : BitVec 16
  gauge : Nat
  stub : Option Nat
  g : BitVec 64
  k : BitVec 8
  p : BitVec 16
  m : BitVec 8
  mr : BitVec 4
  mc : BitVec 4
  lc : BitVec 4
  acc : BitVec 8
  tb : BitVec 32
  v : BitVec 32
  j : BitVec 16
  tmRows : List (Nat × Nat)
  sp : List (Nat × Nat)
  bs : BitVec 64
  deriving DecidableEq, Repr

/-- A resident pattern (13 R360-R364): header fields, code, records, the queues that hold a reference,
and where its object lies. -/
structure Pattern where
  num : Nat
  digest : BitVec 256
  level : BitVec 16
  w : Nat
  h : Nat
  colSeam : Nat
  rowSeam : Nat
  split : Bool
  own : BitVec 4
  ng : Nat
  nv : Nat
  nb : Nat
  acc : BitVec 8
  code : List Word32
  recs : List SafePt
  matrix : Bool
  addr : Nat
  refs : List Nat
  deriving DecidableEq, Repr

/-- What a launch is given (13 R336, R337). -/
structure Launch where
  part : Nat
  queue : Nat
  node : Option Nat
  epoch : BitVec 10
  level : Nat
  dual : Bool
  desc : Nat
  seed : Word
  args : List Byte
  mail : Vector Word 16
  ordinal : BitVec 32
  gen : BitVec 32
  deriving DecidableEq, Repr

/-- The part an instance plays (13 R357; 20 R455, R456). -/
inductive Role | single | primary | shadow | third | rerun
  deriving DecidableEq, Repr

/-- Where a region stands (13 R354; 18 R409, R417, R424; 02 R46). -/
inductive Status
  | running
  | saving (r : Option Raise)
  | parked (c : Raise)
  | saved
  | interrupted (c : Raise)
  | final
  | killed (c : Cause)
  deriving DecidableEq, Repr

/-- Whether the region is frozen within an sc (02 R38) and for how long the freeze has counted against the
partition's budget, in units of wall time (18 R415); or it would freeze on a parked command, and parks (18 R423). -/
inductive Frozen
  | no
  | wait (spent : Nat)
  | parked (c : Raise)
  deriving DecidableEq, Repr

/-- A commit under way after its checks passed (09 R240, R241; 05 R132): what it waits for. -/
inductive Committing
  | none
  | durable (released : List Nat)
  deriving DecidableEq, Repr

/-- An effect applied at the end of its issue sc (02 R47; 08 R214, R215; 09 R245; 10 R278; 11 R290; 12 R307, R325). -/
inductive EndOp
  | jset (n : BitVec 4)
  | jclr (n : BitVec 4)
  | exit
  | fork (target : Word) (ks : Vector Val 8)
  | barInit (b : BitVec 7) (s : BarScope) (n : Nat)
  | tabLoad (t : BitVec 3) (source : Nat)
  | tabCfg (t : BitVec 3) (c : TabCfg)
  | mset (n : BitVec 3) (v : Val)
  | descSet (d : BitVec 4) (p : BitVec 2) (a b : Val)
  deriving DecidableEq, Repr

structure EndEff where
  tile : Nat
  strB : Bool
  op : EndOp
  deriving DecidableEq, Repr

/-- A tile's part of the shadow checkpoint (02 R50): both streams, sync bits, barriers. -/
structure TileCk where
  a : Stream
  b : Stream
  j : BitVec 16
  bars : Vector Barrier 128
  deriving DecidableEq, Repr

/-- The shadow checkpoint: `sc` is the sc of its commit plus one, where the stitch begins. -/
structure Ckpt where
  sc : Nat := 0
  tiles : List TileCk := []
  flights : List Fly := []
  awaits : List Await := []
  resumed : Bool := false
  deriving DecidableEq, Repr

/-- The context of an interrupted launch and its handler (18 R424-R426): the region interrupted, the
address of its fault block. -/
structure HandlerOf where
  region : Option Nat
  queue : Nat
  block : Nat
  deriving DecidableEq, Repr

/-- What a saved tile still holds in place on a physical tile (13 R354): its logical banks with a live byte, and whether
its live rows, slots and slices lie there. -/
structure HeldTile where
  phys : Nat
  tile : Nat
  banks : List Nat
  mx : Bool
  deriving DecidableEq, Repr

/-- What a save recorded (03 R92, 13 R354): its place in the save area and length, the wall time of the save, what is
still held in place, the tiles whose saved items an error has struck. -/
structure Saved where
  pos : Nat
  len : Nat
  since : Nat
  held : List HeldTile
  lostTiles : List Nat
  deriving DecidableEq, Repr

/-- How a dual run stands (13 R359; 20 R455, R456): its verdict is awaited, given, waits for the third run or for the
re-run. -/
inductive Verdict | none | pending | agreed | third | rerun
  deriving DecidableEq, Repr

/-- What a collective wrote, by tile, counter, stitch and place among the stitch's commands of that counter (13 R357). -/
structure ColRec where
  tile : Nat
  ctr : Nat
  stitch : Nat
  rank : Nat
  bytes : List PByte
  deriving DecidableEq, Repr

/-- A region: one placed, parked or saved instance of a launch. `records` are the signature records with their
quads (13 R358; 20 R455); `firm` says that an
item was released that cannot be written again (20 R456); `park` is the cause a saved region is parked on (18 R417); `rets` what the launch's ATOMRs returned, by stream and stitch, and `cols` what its
collectives wrote, which a dual run's other instances receive (13 R357). -/
structure Region where
  rid : Nat
  launch : Launch
  pat : Pattern
  role : Role
  place : Place
  placedAt : Nat
  status : Status
  sc : Nat
  gaugeN : Nat
  gaugeLim : Nat
  stitch : Nat
  reentry : Nat
  lastCause : Cause
  recId : BitVec 16
  tiles : List Tile
  flights : List Fly
  awaits : List Await
  items : List Item
  cmds : List Cmd
  unacq : List Unacq
  ckpt : Ckpt
  raised : List Raise
  frozen : Frozen
  committing : Committing
  finalDone : Bool
  preempt : Bool
  reclaimAt : Option Nat
  mailPend : List (BitVec 4 × Word)
  endEffs : List EndEff
  records : List (Nat × List Byte)
  rets : List (Nat × Nat × Option Val)
  cols : List ColRec
  paths : BitVec 2
  detected : Bool
  stub : Bool
  stubSc : Nat
  handler : Option HandlerOf
  saved : Option Saved
  failed : Option Cause
  seqTag : List (Nat × Nat)
  avoid : List Nat
  trans : List Page
  verdict : Verdict
  firm : Bool
  park : Option Raise
  deriving DecidableEq, Repr

/-! ### The scheduler -/

/-- How far the packet at the read index has got (13 R333, R335). -/
inductive Head
  | idle
  | launch
  | running
  | wait
  | graph
  deriving DecidableEq, Repr

/-- A graph node's state (13 R345). -/
inductive NodeSt | idle | runnable | running
  deriving DecidableEq, Repr

structure Node where
  kind : Nat
  preds : Nat
  x : Nat
  y : Nat
  count : Nat
  b0 : Nat
  b1 : Nat
  succ : List Nat
  left : Int
  st : NodeSt
  iter : Nat
  pkt : List Byte
  deriving DecidableEq, Repr

structure GraphRun where
  desc : Nat
  nodes : List Node
  deriving DecidableEq, Repr

/-- One of the 256 queues (13 R330). `ctl` is the register as read; `pkt` is the LAUNCH or WAIT packet that has begun,
`parked` says that a global replay restarts the stopped queue, `fwdFor` is the cause and the queue a handler of
this queue was forwarded for (18 R428). -/
structure Queue where
  base : Word := 0
  ctl : Word := 0x10C00
  wr : Nat := 0
  rd : Nat := 0
  tl : Word := 0
  cause : Cause := 0
  ord : BitVec 32 := 0
  head : Head := .idle
  pkt : List Byte := []
  parked : Bool := false
  graph : Option GraphRun := none
  deficit : Int := 0
  fwdFor : Option (Cause × Nat) := none
  deriving DecidableEq, Repr

/-- Who waits for a page: a region, a command, a queue (18 R418). -/
inductive Asker
  | region (r : Nat)
  | cmd (r id : Nat)
  | queue (q : Nat)
  deriving DecidableEq, Repr

/-- A page-request record (18 R418): its index once it is written, its contents, its requesters. A withdrawn one
serves nobody (18 R419). -/
structure PageReq where
  idx : Nat
  va : Nat
  gen : BitVec 32
  who : Nat
  ctx : Nat
  ordinal : Nat
  tile : Nat
  askers : List Asker
  withdrawn : Bool
  deriving DecidableEq, Repr

/-- An invalidation under way (03 R91): the regions that held a handle made from the translation, with their stitch. -/
structure Inval where
  holders : List (Nat × Nat)
  deriving DecidableEq, Repr

/-- The error ring, counters and AER-style registers of a function (20 R460, R462). -/
structure ErrRegs where
  base : Word := 0
  wr : Nat := 0
  rd : Word := 0
  ctl : Word := 0
  chip : BitVec 32 := 0
  hbm : BitVec 32 := 0
  link : BitVec 32 := 0
  ustat : Word := 0
  umask : Word := 0
  cstat : Word := 0
  cmask : Word := 0
  log : List Byte := []
  deriving DecidableEq, Repr

/-- A request to a peer that a frog or a kill has dropped and that is still outstanding (20 R450; 21 R468): the device,
its address, its launch and tile. -/
structure Dropped where
  dev : BitVec 20
  va : Nat
  ordinal : Nat
  tile : Nat
  deriving DecidableEq, Repr

/-- A partition (14 R367, R376). `reqs` are the page-request records outstanding, `prqWait` those that wait for a slot;
`fenced` says that a turnover runs, `barred` that one has failed: only a reset ends that fence (17 R400; 20 R463). -/
structure Part where
  conf : PartRec
  epoch : BitVec 10
  genCtr : Nat
  transGen : BitVec 32
  ctl : Word
  ptroot : Word
  prq : Word
  inval : Word
  invals : List Inval
  pats : List Pattern
  table : List (Nat × BitVec 32)
  err : ErrRegs
  reqs : List PageReq
  prqWait : List PageReq
  nextReq : Nat
  poisonPages : List Nat
  toldPeers : List (BitVec 20)
  dropped : List Dropped
  fenced : Bool
  barred : Bool
  deriving DecidableEq, Repr

/-! ### The device -/

/-- How far the device has come up (17 R397, 20 R464). -/
inductive Stage
  | reset
  | management
  | up
  | fatal (code : Cause) (die : BitVec 2)
  deriving DecidableEq, Repr

/-- A peer device's partition as this device reaches it (14 R379): its memory is an outside agent's. -/
structure PeerSpace where
  dev : BitVec 20
  tenant : BitVec 16
  size : Nat
  mem : Mem
  deriving DecidableEq, Repr

/-- A lent margin quad (14 R371-R373): `back` is set while it is being reclaimed. -/
structure Lent where
  quad : Nat
  owner : Nat
  borrower : Nat
  back : Bool
  deriving DecidableEq, Repr

/-- A context bank that is waiting for the clear engine (03 R72). -/
structure BankJob where
  x : Nat
  y : Nat
  strB : Bool
  bank : Bool
  deriving DecidableEq, Repr

/-- A request a home has applied (05 R140): its source (owner tag, device, launch ordinal, tile), its tag, the offset
of its element (12 R315), and the value the application found. -/
structure Applied where
  source : BitVec 16 × BitVec 20 × BitVec 32 × Nat
  tag : BitVec 16
  elem : Nat
  old : Val
  deriving DecidableEq, Repr

/-- What the manual says a hardware error does (20 R439): the outcomes that are no row of their own. -/
inductive Strike
  | reg (r t : Nat) (b : Bool) (d : SDst)
  | pred (r t : Nat) (b : Bool) (p : BitVec 4)
  | vlane (r t : Nat) (b : Bool) (v l : BitVec 5)
  | sp (r t addr : Nat)
  | tm (r t word : Nat)
  | bs (r t addr : Nat)
  | desc (r t : Nat) (d : BitVec 4) (w : BitVec 3)
  | param (r t : Nat) (n : BitVec 3)
  | table (r t : Nat) (n : BitVec 3) (w : Nat)
  | code (r t word : Nat)
  | hbm (addr : Nat)
  | twin (r t : Nat)
  | datapath (r t : Nat)
  | matrix (r t : Nat)
  | tb (r t : Nat) (b : Bool) (n : BitVec 5)
  | lc (r t : Nat) (b : Bool) (n : BitVec 2)
  | latch (r t : Nat) (b : Bool) (l : Latch)
  | mask (r t : Nat) (b : Bool) (m : BitVec 3)
  | mxmask (r t : Nat) (b col : Bool) (n : BitVec 2)
  | tlb (r n : Nat)
  | saved (r t : Nat)
  | corrected (part : Option Nat) (c : ErrCtr)
  deriving DecidableEq, Repr

/-- Whose turn it is: between two tile clock cycles, or a region within its sc: landings, the issue of a
stream, the end of the sc. -/
inductive Phase
  | idle
  | land (r : Nat)
  | issue (r t : Nat) (b : Bool)
  | close (r : Nat)
  deriving DecidableEq, Repr

/-- The issue an operation is part of: region, tile, stream, slot, the re-issue's sticky index and address
operands, the bundle's offset, length in bytes and presence bits, and whether its stream is held (02 R40). -/
structure Cursor where
  r : Nat
  t : Nat
  b : Bool
  slot : Nat
  again : Option Sticky
  offset : Word
  len : Nat
  present : BitVec 7
  held : Bool
  deriving DecidableEq, Repr

/-- An issue of stream A in twin mode that stream B has still to make (02 R43): the sc of B's issue, the tile, the bundle
and where it stands, A's signature after it, and what A's issue met: its region, the wall time and the free values, from
which B receives what it does not compute itself. -/
structure TwinRec where
  due : Nat
  tile : Nat
  pc : Nat
  bu : Bundle
  sig : BitVec 128
  env : Region
  wall : Nat
  fresh : Nat
  deriving DecidableEq, Repr

/-- A turnover that runs (17 R400): what its steps 4 and 5 find, once it is known. -/
structure Turning where
  found : Option TurnRec
  deriving DecidableEq, Repr

/-- Device-wide state. `fused` is what was fused at manufacture, `kernels` the reference signatures of the swatch kernels
(17 R401), `hostMaps` the ranges of partitions' HBM4 mapped for the host (14 R374), `nonces` the quote requests that wait
for a turnover's end (17 R399), `placed` says that the scheduler has placed in
this instant (01 R25), `fatalAt` when the fatal state began, `log` the last error records of the physical function (20
R465). -/
structure Dev where
  id : BitVec 20 := 0
  stage : Stage := .reset
  wall : Nat := 0
  clkStep : BitVec 5 := 0
  clkCap : BitVec 5 := 18
  good : BitVec 576 := BitVec.allOnes 576
  quar : BitVec 576 := 0
  gate : BitVec 576 := 0
  waking : List Nat := []
  scores : List (Nat × Nat) := []
  unproved : List Nat := []
  replace : Bool := false
  turn : Word := 0
  turning : Option Turning := none
  err : ErrRegs := {}
  aerFatal : Bool := false
  dumpArea : Nat := 0
  dumpUnread : Bool := false
  fwHash : BitVec 256 := 0
  recHash : BitVec 256 := 0
  quote : List Byte := []
  portsUp : BitVec 32 := 0
  hostUp : Bool := true
  badGroups : List Nat := []
  fused : Option Fuses := none
  kernels : List (List Byte) := []
  hostMaps : List (Nat × Nat × Nat) := []
  nonces : List (BitVec 256) := []
  placed : Bool := false
  fatalAt : Nat := 0
  log : List (List Byte) := []
  deriving DecidableEq, Repr

/-- The whole state. `inputs` are the outside events still to come, in order, taken between two tile clock
cycles; `strikes` the hardware errors; `choices` says which of the enabled wall-time acts comes next; `cur` is
the issue under way; `twins` the issues stream B has still to make; `seq` and `fresh` number the choices and the free
values (the model's own fields); `left` is what stands on the tiles of launches that have posted, until the tiles are
used again (15 R384, R387). -/
structure State where
  dev : Dev
  parts : List Part
  queues : Vector Queue 256
  served : List (Nat × Nat × Nat)
  regions : List Region
  nextRid : Nat
  lent : List Lent
  jobs : List BankJob
  hbm : Mem
  host : Mem
  peers : List PeerSpace
  quiet : List (BitVec 20)
  applied : List Applied
  reserved : List (Nat × Nat × Nat × List Nat)
  phase : Phase
  cur : Option Cursor
  twins : List TwinRec
  left : List Region
  inputs : List Instr
  strikes : List Strike
  choices : List Nat
  seq : Nat
  fresh : Nat
  deriving DecidableEq, Repr

/-- Why the machine stops with a fault. -/
inductive Fault
  /-- Raised by an access of a local home at or past 1 TiB, which no channel of HBM4 holds (01 R13): the
  manual gives such an address no byte. Safe. -/
  | noSuchByte (addr : Nat)
  deriving DecidableEq, Repr

/-- Why a step is refused. -/
inductive Refusal
  /-- Raised by an arm of `exec` that has no meaning yet. Safe. -/
  | notModelled (mnemonic : String)
  /-- Raised by an operation when no stream is issuing a bundle: it has nothing to act on. Safe. -/
  | noStream
  /-- Raised by a machine or outside event asked for in a state in which it is not due. Safe. -/
  | notDue (what : String)
  deriving DecidableEq, Repr

/-- The state after reset: every field at the value the manual gives, or the log names (Assumption 3). -/
def State.reset : State where
  dev := {}
  parts := []
  queues := Vector.replicate 256 {}
  served := []
  regions := []
  nextRid := 0
  lent := []
  jobs := []
  hbm := {}
  host := {}
  peers := []
  quiet := []
  applied := []
  reserved := []
  phase := .idle
  cur := none
  twins := []
  left := []
  inputs := []
  strikes := []
  choices := []
  seq := 0
  fresh := 0

end Sys2Proof.Machine
end

