-- ==== Sys2Proof/Machine/Mem.lean ====
section
/-! DEFINITION. Storage: reading and writing bytes with their poison (00 R4; 03 R75, R80, R85; 20 R441). -/

namespace Sys2Proof.Machine

/-- The byte at an address; an unlisted address reads 0x00 (03 R76, R84, R86; 17 R397 stage 3). -/
def cellGet : List Host.Cell → Nat → Byte
  | [], _ => 0
  | (k, v) :: r, a => if a = k then v else if a < k then 0 else cellGet r a

/-- Write one byte, keeping the form: strictly rising, no entry 0x00. -/
def cellSet : List Host.Cell → Nat → Byte → List Host.Cell
  | [], a, v => if v = 0 then [] else [(a, v)]
  | (k, w) :: r, a, v =>
    if a < k then if v = 0 then (k, w) :: r else (a, v) :: (k, w) :: r
    else if a = k then if v = 0 then r else (a, v) :: r
    else (k, w) :: cellSet r a v

/-- Membership in a strictly rising list of numbers. -/
def natMem : List Nat → Nat → Bool
  | [], _ => false
  | k :: r, a => if a = k then true else if a < k then false else natMem r a

/-- Put a number into a strictly rising list, or take it out. -/
def natSet : List Nat → Nat → Bool → List Nat
  | [], a, b => if b then [a] else []
  | k :: r, a, b =>
    if a < k then if b then a :: k :: r else k :: r
    else if a = k then if b then k :: r else r
    else k :: natSet r a b

/-- Strictly rising from a bound on. -/
def cellsFrom (lo : Nat) : List Host.Cell → Bool
  | [] => true
  | (k, v) :: r => decide (lo ≤ k) && v != 0 && cellsFrom (k + 1) r

def natsFrom (lo : Nat) : List Nat → Bool
  | [] => true
  | k :: r => decide (lo ≤ k) && natsFrom (k + 1) r

/-- The canonical form of storage: equal storages are equal data. -/
def Mem.wf (m : Mem) : Bool := cellsFrom 0 m.cells && natsFrom 0 m.bad

def Mem.byte (m : Mem) (a : Nat) : Byte := cellGet m.cells a

/-- One byte with the poison of its granule of `g` bytes. -/
def Mem.pbyte (m : Mem) (g a : Nat) : PByte := (m.byte a, natMem m.bad (a / g))

/-- `n` bytes from `a` on. -/
def Mem.read (m : Mem) (g a : Nat) : Nat → List PByte
  | 0 => []
  | n + 1 => m.pbyte g a :: m.read g (a + 1) n

def writeCells : List Host.Cell → Nat → List PByte → List Host.Cell
  | cs, _, [] => cs
  | cs, a, p :: ps => writeCells (cellSet cs a p.1) (a + 1) ps

/-- The poison of granule `k` after bytes are written from `a` on: set by any poisoned byte, cleared when every
byte of the granule is written clean, else as it was (20 R441, R442). -/
def granuleBad (g : Nat) (old : Bool) (a : Nat) (ps : List PByte) (k : Nat) : Bool :=
  let mine := (ps.drop (k * g - a)).take (k * g + g - max a (k * g))
  if mine.any (·.2) then true
  else if a ≤ k * g ∧ k * g + g ≤ a + ps.length then false
  else old

def writeBad (g : Nat) (a : Nat) (ps : List PByte) : Nat → Nat → List Nat → List Nat
  | 0, _, bad => bad
  | n + 1, k, bad => writeBad g a ps n (k + 1) (natSet bad k (granuleBad g (natMem bad k) a ps k))

/-- Write bytes with their poison from `a` on. -/
def Mem.write (m : Mem) (g a : Nat) (ps : List PByte) : Mem :=
  if ps.isEmpty then m else
  { cells := writeCells m.cells a ps
    bad := writeBad g a ps ((a + ps.length - 1) / g - a / g + 1) (a / g) m.bad }

/-- The parts write a byte, and the last of them that does writes it clean. -/
def partsClean (parts : List (Nat × List PByte)) (a : Nat) : Bool :=
  (parts.foldl (fun m p => if p.1 ≤ a then (p.2[a - p.1]?).elim m fun b => some b.2 else m) none) == some false

/-- One operation that wrote its parts one by one has written these granules whole and clean: their poison ends (20 R441). -/
def Mem.heal (m : Mem) (g : Nat) (parts : List (Nat × List PByte)) : Mem :=
  if m.bad.isEmpty then m else
  { m with bad := m.bad.filter fun k => !(List.range g).all fun i => partsClean parts (k * g + i) }

/-- Mark a granule poisoned. -/
def Mem.poison (m : Mem) (k : Nat) : Mem := { m with bad := natSet m.bad k true }

/-- Granules of the storage bytes. -/
def spGran : Nat := 8
def tmGran : Nat := 4
def bsGran : Nat := 8
def hbmGran : Nat := 32

/-- A little-endian number of bytes (00 R4). -/
def leNat : List Byte → Nat
  | [] => 0
  | b :: r => b.toNat + 256 * leNat r

/-- The low `n` bytes of a number, little-endian. -/
def leBytes : Nat → Nat → List Byte
  | 0, _ => []
  | n + 1, x => BitVec.ofNat 8 x :: leBytes n (x / 256)

/-- Clean bytes. -/
def clean (bs : List Byte) : List PByte := bs.map fun b => (b, false)

def taint (bad : Bool) (bs : List Byte) : List PByte := bs.map fun b => (b, bad)

/-- The number the bytes hold and whether any is poisoned. -/
def leVal (ps : List PByte) : Nat × Bool := (leNat (ps.map (·.1)), ps.any (·.2))

end Sys2Proof.Machine
end

