-- ==== Sys2Proof/Machine/Exact.lean ====
section
/-! DEFINITION. Exact values, rounding and conversion (00 R8-R10; 04 R94-R105). -/

namespace Sys2Proof.Machine

/-- A value typed `exact` (00 R8): NaN, an infinity, or a rational with a sign that a zero keeps (04 R96);
the denominator is positive. -/
inductive Exact
  | nan
  | inf (neg : Bool)
  | num (neg : Bool) (n d : Nat)
  deriving DecidableEq, Repr

namespace Exact

def zero (neg : Bool) : Exact := .num neg 0 1

def ofInt (i : Int) : Exact := .num (decide (i < 0)) i.natAbs 1

def isNan : Exact → Bool
  | .nan => true
  | _ => false

def isInf : Exact → Bool
  | .inf _ => true
  | _ => false

def isZero : Exact → Bool
  | .num _ 0 _ => true
  | _ => false

def neg? : Exact → Bool
  | .nan => false
  | .inf s => s
  | .num s _ _ => s

/-- The product of 04 R96. -/
def mul : Exact → Exact → Exact
  | .nan, _ => .nan
  | _, .nan => .nan
  | .inf s, .inf t => .inf (s ^^ t)
  | .inf s, .num t n _ => if n = 0 then .nan else .inf (s ^^ t)
  | .num s n _, .inf t => if n = 0 then .nan else .inf (s ^^ t)
  | .num s n d, .num t m e => .num (s ^^ t) (n * m) (d * e)

/-- Signed addition of rationals over a common denominator; a zero result is +0. -/
def addNum (s : Bool) (n d : Nat) (t : Bool) (m e : Nat) : Exact :=
  let (x, y, q) :=
    if d % e = 0 then (n, m * (d / e), d) else if e % d = 0 then (n * (e / d), m, e) else (n * e, m * d, d * e)
  if s == t then .num (s && (x + y != 0)) (x + y) q
  else if x = y then .num false 0 1
  else if y < x then .num s (x - y) q else .num t (y - x) q

/-- Addition with +0 for every zero sum; `sum` decides the sign of a zero sum. -/
def add : Exact → Exact → Exact
  | .nan, _ => .nan
  | _, .nan => .nan
  | .inf s, .inf t => if s == t then .inf s else .nan
  | .inf s, _ => .inf s
  | _, .inf t => .inf t
  | .num s n d, .num t m e => addNum s n d t m e

/-- The sum of terms of 04 R96; `rdn` says that the operation that consumes it rounds under RDN. -/
def sum (rdn : Bool) (xs : List Exact) : Exact :=
  let r := xs.foldl add (zero false)
  if r.isZero then zero (rdn || (!xs.isEmpty && xs.all fun x => x.isZero && x.neg?)) else r

def negate : Exact → Exact
  | .nan => .nan
  | .inf s => .inf (!s)
  | .num s n d => .num (!s) n d

/-- Quotient by 2^e. -/
def scale (x : Exact) (e : Int) : Exact :=
  match x with
  | .num s n d => if 0 ≤ e then .num s n (d * 2 ^ e.toNat) else .num s (n * 2 ^ (-e).toNat) d
  | y => y

/-- The real quotient of two nonzero finite values' magnitudes with the XOR of the signs. -/
def quot : Exact → Exact → Exact
  | .num s n d, .num t m e => .num (s ^^ t) (n * e) (d * m)
  | x, _ => x

/-- Less-than; false with a NaN; −0 = +0 (04 R96). -/
def lt : Exact → Exact → Bool
  | .nan, _ => false
  | _, .nan => false
  | .inf s, .inf t => s && !t
  | .inf s, _ => s
  | _, .inf t => !t
  | .num s n d, .num t m e =>
    let x : Int := (if s then -1 else 1) * (n * e : Nat)
    let y : Int := (if t then -1 else 1) * (m * d : Nat)
    decide (x < y)

/-- Equality as values; false with a NaN. -/
def eq : Exact → Exact → Bool
  | .nan, _ => false
  | _, .nan => false
  | x, y => !(lt x y) && !(lt y x)

/-- The greatest integer not above a finite value. -/
def floor : Exact → Int
  | .num s n d => if s then -(((n + d - 1) / d : Nat) : Int) else ((n / d : Nat) : Int)
  | _ => 0

end Exact

/-! ### Formats (04 R94) -/

/-- Mantissa width, bias, and the encoding of the largest finite magnitude. -/
structure FloatFmt where
  exp : Nat
  man : Nat
  bias : Int
  maxEnc : Nat

def fmtFloat : Fmt → Option FloatFmt
  | .e4m3 => some ⟨4, 3, 7, 0x7E⟩
  | .e5m2 => some ⟨5, 2, 15, 0x7B⟩
  | .e2m3 => some ⟨2, 3, 1, 0x1F⟩
  | .e3m2 => some ⟨3, 2, 3, 0x1F⟩
  | .e2m1 => some ⟨2, 1, 1, 0x7⟩
  | .bf16 => some ⟨8, 7, 127, 0x7F7F⟩
  | .f16 => some ⟨5, 10, 15, 0x7BFF⟩
  | .f32 => some ⟨8, 23, 127, 0x7F7F_FFFF⟩
  | _ => none

/-- The canonical NaN; the 6-bit and 4-bit formats have none, and a NaN gives +0 there (04 R94, R100). -/
def fmtNan : Fmt → Nat
  | .e4m3 => 0x7F | .e5m2 => 0x7E | .bf16 => 0x7FC0 | .f16 => 0x7E00 | .f32 => 0x7FC0_0000
  | .e8m0 => 0xFF | _ => 0

/-- Formats whose exponent of all ones is kept for infinity and NaN. -/
def fmtIeee : Fmt → Bool
  | .e5m2 | .bf16 | .f16 | .f32 => true
  | _ => false

/-- The value 2^e · n as an exact value. -/
def exactPow (neg : Bool) (n : Nat) (e : Int) : Exact :=
  if 0 ≤ e then .num neg (n * 2 ^ e.toNat) 1 else .num neg n (2 ^ (-e).toNat)

/-- The value of a floating encoding (04 R94). -/
def floatVal (f : Fmt) (p : FloatFmt) (x : Nat) : Exact :=
  let neg := x / 2 ^ (p.exp + p.man) % 2 = 1
  let e := x / 2 ^ p.man % 2 ^ p.exp
  let m := x % 2 ^ p.man
  if fmtIeee f ∧ e = 2 ^ p.exp - 1 then (if m = 0 then .inf neg else .nan)
  else if f = .e4m3 ∧ e = 15 ∧ m = 7 then .nan
  else if e = 0 then exactPow neg m (1 - p.bias - p.man)
  else exactPow neg (2 ^ p.man + m) (e - p.bias - p.man)

/-- The signed value of the low w bits. -/
def signedOf (w x : Nat) : Int := if x % 2 ^ w < 2 ^ (w - 1) then (x % 2 ^ w : Nat) else ((x % 2 ^ w : Nat) : Int) - 2 ^ w

/-- The exact value of an element of any format (04 R94). -/
def fmtValue (f : Fmt) (x : Nat) : Exact :=
  match fmtFloat f with
  | some p => floatVal f p x
  | none => if f = .e8m0 then (if x = 0xFF then .nan else exactPow false 1 ((x : Int) - 127))
    else .ofInt (signedOf f.width x)

/-- floor(log2(n/d)) of a positive rational. -/
def floorLog (n d : Nat) : Int :=
  let e : Int := (Nat.log2 n : Int) - (Nat.log2 d : Int)
  if (if 0 ≤ e then n < d * 2 ^ e.toNat else n * 2 ^ (-e).toNat < d) then e - 1 else e

/-- The magnitude n/d over 2^q: the integer part, and the remainder over the new denominator. -/
def splitAt (n d : Nat) (q : Int) : Nat × Nat × Nat :=
  let (x, y) := if 0 ≤ q then (n, d * 2 ^ q.toNat) else (n * 2 ^ (-q).toNat, d)
  (x / y, x % y, y)

/-- Whether the magnitude goes up to the next integer c + 1 (04 R99, R101, R105; 00 R10), with remainder
r/y above c, for the sign and the mode. -/
def roundsUp (m : Rnd) (rand : BitVec 32) (neg : Bool) (c r y : Nat) : Bool :=
  if r = 0 then false else
  match m with
  | .rne => decide (y < 2 * r) || (decide (2 * r = y) && c % 2 == 1)
  | .rtz => false
  | .rup => !neg
  | .rdn => neg
  | .sr =>
    -- positive x: hi is c + 1 and (x - lo) is r/y; negative x: hi is -c and (x - lo) is 1 - r/y
    if neg then !decide (rand.toNat * y < (y - r) * 2 ^ 32) else decide (rand.toNat * y < r * 2 ^ 32)

/-- Whether an overflow of a value of this sign is "away" (04 R100). -/
def overflowAway (m : Rnd) (neg : Bool) : Bool :=
  match m with
  | .rne => true
  | .rtz => false
  | .rup => !neg
  | .rdn => neg
  | .sr => true

/-- The result of an overflow or of an infinite source (04 R100). -/
def overflowEnc (f : Fmt) (p : FloatFmt) (sat away neg : Bool) : Nat :=
  let s := if neg then 2 ^ (p.exp + p.man) else 0
  if sat && f != .f32 || !away then s + p.maxEnc
  else if fmtIeee f then s + (2 ^ p.exp - 1) * 2 ^ p.man
  else if f = .e4m3 then 0x7F
  else s + p.maxEnc

/-- Round an exact value to a floating format: RND32 and SR32 for .F32 (00 R9, R10), R99, R100 and R105
for the others; `rand` is the random word of a stochastic rounding. -/
def roundFloat (f : Fmt) (p : FloatFmt) (m : Rnd) (sat : Bool) (rand : BitVec 32) (x : Exact) : Nat :=
  match x with
  | .nan => fmtNan f
  | .inf neg => overflowEnc f p sat true neg
  | .num neg n d =>
    let s := if neg then 2 ^ (p.exp + p.man) else 0
    if n = 0 then s else
    let q := max (floorLog n d - p.man) (1 - p.bias - p.man)
    let (c, r, y) := splitAt n d q
    let c := if roundsUp m rand neg c r y then c + 1 else c
    let mag := if c < 2 ^ p.man then c else ((q + p.man + p.bias).toNat - 1) * 2 ^ p.man + c
    if p.maxEnc < mag then overflowEnc f p sat (overflowAway m neg) neg else s + mag

/-- Clamp to n bits, signed and unsigned (00 R9). -/
def satS (n : Nat) (i : Int) : Int := max (-(2 ^ (n - 1))) (min (2 ^ (n - 1) - 1) i)

def satU (n : Nat) (i : Int) : Int := max 0 (min (2 ^ n - 1) i)

/-- An integer's n-bit two's-complement encoding. -/
def encInt (n : Nat) (i : Int) : Nat := (i % 2 ^ n).toNat

/-- Round to an integer (04 R101 step 1). -/
def roundInt (m : Rnd) (rand : BitVec 32) (neg : Bool) (n d : Nat) : Int :=
  let c := if roundsUp m rand neg (n / d) (n % d) d then n / d + 1 else n / d
  if neg then -(c : Int) else c

/-- Convert an exact value to a format of any kind (04 R99-R101, R105). -/
def convert (f : Fmt) (m : Rnd) (sat : Bool) (rand : BitVec 32) (x : Exact) : Nat :=
  match fmtFloat f with
  | some p => roundFloat f p m sat rand x
  | none =>
    let w := f.width
    match x with
    | .nan => 0
    | .inf neg => encInt w (if neg then -(2 ^ (w - 1)) else 2 ^ (w - 1) - 1)
    | .num neg n d => encInt w (satS w (roundInt m rand neg n d))

/-- RN32 (00 R9). -/
def rn32 (x : Exact) : Nat := convert .f32 .rne false 0 x

/-- RND32 or SR32 by the rounding field. -/
def rnd32 (m : Rnd) (rand : BitVec 32) (x : Exact) : Nat := convert .f32 m false rand x

def f32Val (x : Nat) : Exact := fmtValue .f32 x

/-- One of the two rounds of the generator (04 R103). -/
def srRound (z : Word) : Word :=
  let z := z ^^^ (z >>> 30)
  let z := z * 0xBF58_476D_1CE4_E5B9
  let z := z ^^^ (z >>> 27)
  let z := z * 0x94D0_49BB_1331_11EB
  z ^^^ (z >>> 31)

/-- The random word of element e (04 R103): `tile` is y·W + x. -/
def srWord (seed pos : Word) (tile : Nat) (strB : Bool) (e : Nat) : BitVec 32 :=
  let z := seed + 0x9E37_79B9_7F4A_7C15 * (pos + 1)
  let z := z ^^^ (BitVec.ofNat 64 tile <<< 20) ^^^ (BitVec.ofNat 64 strB.toNat <<< 19) ^^^ BitVec.ofNat 64 e
  (srRound (srRound z)).truncate 32

/-- The lesser or greater of two floating values with −0 < +0, canonical NaN with a NaN (10 R263, 04 R115). -/
def floatPick (f : Fmt) (greater : Bool) (x y : Nat) : Nat :=
  let a := fmtValue f x
  let b := fmtValue f y
  if a.isNan || b.isNan then fmtNan f
  else
    let less := a.lt b || (a.eq b && a.neg? && !b.neg?)
    if less == greater then y else x

end Sys2Proof.Machine
end

