-- ==== Sys2Proof/Machine/Sha.lean ====
section
/-! DEFINITION. SHA-256, which the manual names for the pattern's digest and the commit signature
(13 R358, R360; 17 R399). The manual names the standard; the algorithm is the standard's (Assumption 17). -/

namespace Sys2Proof.Machine

/-- The first 64 prime numbers: a number below 312 is prime if no prime below 18 divides it properly. -/
def shaPrimes : List Nat :=
  (List.range 312).filter fun n => 2 ≤ n && [2, 3, 5, 7, 11, 13, 17].all fun p => n == p || n % p != 0

/-- The largest number below `r + 2 ^ n`, built bit by bit from `r`, whose `k`-th power does not exceed `x`. -/
def rootFrom (k x : Nat) : Nat → Nat → Nat
  | 0, r => r
  | n + 1, r => rootFrom k x n (if (r + 2 ^ n) ^ k ≤ x then r + 2 ^ n else r)

/-- The first 32 bits of the fractional part of the `k`-th root of `p`: the root of `p · 2^(32 k)` is the root of `p`
times 2^32, and the integer part falls off. -/
def rootBits (k p : Nat) : Word32 := BitVec.ofNat 32 (rootFrom k (p * 2 ^ (32 * k)) 38 0)

/-- The round constants come from the cube roots of the first 64 primes. -/
def shaK : List Word32 := shaPrimes.map (rootBits 3)

/-- The eight working words. -/
structure ShaSt where
  a : Word32
  b : Word32
  c : Word32
  d : Word32
  e : Word32
  f : Word32
  g : Word32
  h : Word32

/-- The initial words come from the square roots of the first eight primes. -/
def shaInit : ShaSt :=
  ⟨rootBits 2 2, rootBits 2 3, rootBits 2 5, rootBits 2 7, rootBits 2 11, rootBits 2 13, rootBits 2 17, rootBits 2 19⟩

/-- Rotate right. -/
def rotr (x : Word32) (n : Nat) : Word32 := (x >>> n) ||| (x <<< (32 - n))

def shaRound (s : ShaSt) (k w : Word32) : ShaSt :=
  let t1 := s.h + (rotr s.e 6 ^^^ rotr s.e 11 ^^^ rotr s.e 25) + ((s.e &&& s.f) ^^^ (~~~s.e &&& s.g)) + k + w
  let t2 := (rotr s.a 2 ^^^ rotr s.a 13 ^^^ rotr s.a 22) +
    ((s.a &&& s.b) ^^^ (s.a &&& s.c) ^^^ (s.b &&& s.c))
  ⟨t1 + t2, s.a, s.b, s.c, s.d + t1, s.e, s.f, s.g⟩

/-- The next word of the schedule, from the last sixteen, newest first. -/
def shaNext (w : List Word32) : Word32 :=
  let x := w.getD 1 0
  let y := w.getD 14 0
  (rotr x 17 ^^^ rotr x 19 ^^^ (x >>> 10)) + w.getD 6 0 + (rotr y 7 ^^^ rotr y 18 ^^^ (y >>> 3)) + w.getD 15 0

/-- The rounds: the words of the block first, then the schedule; `past` is newest first. -/
def shaRounds : List Word32 → List Word32 → List Word32 → ShaSt → ShaSt
  | [], _, _, s => s
  | k :: ks, [], past, s => let w := shaNext past; shaRounds ks [] (w :: past.take 15) (shaRound s k w)
  | k :: ks, w :: ws, past, s => shaRounds ks ws (w :: past) (shaRound s k w)

def shaBlock (s : ShaSt) (ws : List Word32) : ShaSt :=
  let t := shaRounds shaK ws [] s
  ⟨s.a + t.a, s.b + t.b, s.c + t.c, s.d + t.d, s.e + t.e, s.f + t.f, s.g + t.g, s.h + t.h⟩

/-- Big-endian words of a byte list. -/
def shaWords : List Byte → List Word32
  | a :: b :: c :: d :: r => (a ++ b ++ c ++ d) :: shaWords r
  | _ => []

/-- The message with its padding. -/
def shaPad (m : List Byte) : List Byte :=
  m ++ [0x80] ++ List.replicate ((119 - m.length % 64) % 64) 0 ++ (leBytes 8 (m.length * 8)).reverse

def shaBlocks : Nat → List Word32 → ShaSt → ShaSt
  | 0, _, s => s
  | n + 1, ws, s => shaBlocks n (ws.drop 16) (shaBlock s (ws.take 16))

/-- The SHA-256 digest, its first byte in the most significant bits. -/
def sha256 (m : List Byte) : BitVec 256 :=
  let p := shaPad m
  let s := shaBlocks (p.length / 64) (shaWords p) shaInit
  s.a ++ s.b ++ s.c ++ s.d ++ s.e ++ s.f ++ s.g ++ s.h

/-- The first 16 bytes of the digest, low byte first (13 R341, R358). -/
def sha128 (m : List Byte) : List Byte := ((leBytes 32 (sha256 m).toNat).reverse).take 16

end Sys2Proof.Machine
end

