-- ==== Sys2Proof/Machine/Access.lean ====
section
/-! DEFINITION. Getting at the parts of the state, translation tables and the homes of global memory
(03 R87-R89; 14 R368, R369, R377, R379). -/

namespace Sys2Proof.Machine

/-! ### Parts of the state -/

def State.region? (s : State) (r : Nat) : Option Region := s.regions.find? fun g => g.rid = r

def State.setRegion (s : State) (g : Region) : State :=
  { s with regions := s.regions.map fun x => if x.rid = g.rid then g else x }

def State.modRegion (s : State) (r : Nat) (f : Region → Region) : State :=
  { s with regions := s.regions.map fun x => if x.rid = r then f x else x }

def State.dropRegion (s : State) (r : Nat) : State :=
  { s with regions := s.regions.filter fun x => x.rid ≠ r, twins := s.twins.filter fun k => k.env.rid ≠ r }

def State.part? (s : State) (n : Nat) : Option Part := s.parts.find? fun p => p.conf.num = n

def State.setPart (s : State) (p : Part) : State :=
  { s with parts := s.parts.map fun x => if x.conf.num = p.conf.num then p else x }

def State.modPart (s : State) (n : Nat) (f : Part → Part) : State :=
  { s with parts := s.parts.map fun x => if x.conf.num = n then f x else x }

def State.queue (s : State) (q : Nat) : Queue := s.queues[q]?.getD {}

def State.modQueue (s : State) (q : Nat) (f : Queue → Queue) : State :=
  { s with queues := s.queues.setIfInBounds q (f (s.queue q)) }

/-- The partition a queue is assigned to (13 R330). -/
def State.queuePart (s : State) (q : Nat) : Option Part := s.parts.find? fun p => p.conf.queues.contains q

def Region.tile (g : Region) (t : Nat) : Tile := g.tiles.getD t {}

def Region.modTile (g : Region) (t : Nat) (f : Tile → Tile) : Region := { g with tiles := g.tiles.modify t f }

def Tile.str (x : Tile) (b : Bool) : Stream := if b then x.b else x.a

def Tile.modStr (x : Tile) (b : Bool) (f : Stream → Stream) : Tile :=
  if b then { x with b := f x.b } else { x with a := f x.a }

def Region.str (g : Region) (t : Nat) (b : Bool) : Stream := (g.tile t).str b

def Region.modStr (g : Region) (t : Nat) (b : Bool) (f : Stream → Stream) : Region :=
  g.modTile t fun x => x.modStr b f

/-- The tile's coordinates: tiles are numbered y·W + x (02 R28). -/
def Region.x (g : Region) (t : Nat) : Nat := t % g.pat.w

def Region.y (g : Region) (t : Nat) : Nat := t / g.pat.w

/-- The region quad of a tile and its position in it (02 R28). -/
def Region.quad (g : Region) (t : Nat) : Nat := (g.y t / 2) * (g.pat.w / 2) + g.x t / 2

def Region.qpos (g : Region) (t : Nat) : Nat := g.x t % 2 + 2 * (g.y t % 2)

/-- The scratchpad limit 0x8000·Nb (03 R75). -/
def Region.spLimit (g : Region) : Nat := 0x8000 * g.pat.nb

/-- The place of one write among those of one sc (02 R37, 07 R179): issue sc, tile, stream, slot. -/
def orderKey (iss tile : Nat) (b : Bool) (slot : Nat) : Nat := ((iss * 4096 + tile) * 2 + b.toNat) * 8 + slot

/-- The slot a place in the order names. -/
def keySlot (k : Nat) : Nat := k % 8

/-- The tile it names. -/
def keyTile (k : Nat) : Nat := k / 16 % 4096

/-- The physical tile a region coordinate is placed on (02 R30). -/
def placeTile (p : Place) (w h x y : Nat) : Nat × Nat :=
  match p.rot.val with
  | 0 => (p.x0 + x, p.y0 + y)
  | 1 => (p.x0 + (h - 1 - y), p.y0 + x)
  | 2 => (p.x0 + (w - 1 - x), p.y0 + (h - 1 - y))
  | _ => (p.x0 + y, p.y0 + (w - 1 - x))

def Region.phys (g : Region) (t : Nat) : Nat × Nat := placeTile g.place g.pat.w g.pat.h (g.x t) (g.y t)

/-- The physical quad of a physical tile (01 R15) and of a region's tile. -/
def quadOf (p : Nat × Nat) : Nat := 24 * (p.2 / 2) + p.1 / 2

def Region.physQuad (g : Region) (t : Nat) : Nat := quadOf (g.phys t)

/-- The physical quads a placement covers. -/
def placeQuads (p : Place) (w h : Nat) : List Nat :=
  ((List.range (w * h)).map fun t => quadOf (placeTile p w h (t % w) (t / w))).eraseDups

def Region.quads (g : Region) : List Nat := placeQuads g.place g.pat.w g.pat.h

/-- The die of a quad (01 R14). -/
def dieOf (q : Nat) : Nat := 2 * (q / 24 / 12) + q % 24 / 12

/-- Declared seams between two coordinates along one axis (02 R32). -/
def crosses (seam a b : Nat) : Nat := if seam ≠ 0 ∧ (decide (a < seam) ≠ decide (b < seam)) then 1 else 0

/-- The signed 8-bit dx and dy of a remote access (09 R226). -/
def Region.remote (g : Region) (t : Nat) (dx dy : BitVec 8) : Option (Nat × Nat × Nat) :=
  let x : Int := g.x t + dx.toInt
  let y : Int := g.y t + dy.toInt
  if 0 ≤ x ∧ x < g.pat.w ∧ 0 ≤ y ∧ y < g.pat.h then
    some (y.toNat * g.pat.w + x.toNat, dx.toInt.natAbs + dy.toInt.natAbs,
      crosses g.pat.colSeam (g.x t) x.toNat + crosses g.pat.rowSeam (g.y t) y.toNat)
  else none

/-- A safe-point record of the pattern. -/
def Pattern.rec? (p : Pattern) (id : BitVec 16) : Option SafePt := p.recs.find? fun r => r.id = id

/-- Code length in bytes. -/
def Pattern.codeLen (p : Pattern) : Nat := 4 * p.code.length

/-- A region whose context is on tiles. -/
def Region.onTiles (g : Region) : Bool :=
  match g.status with
  | .running | .saving _ | .parked _ => true
  | _ => false

/-- The region's clock may run. -/
def Region.runs (g : Region) : Bool := g.status = .running

/-- The owner tag of a partition (14 R368). -/
def Part.tag (p : Part) : BitVec 16 := p.epoch ++ BitVec.ofNat 6 p.conf.num

/-- Units of wall time: 1/L ns, L the least common multiple of the clock steps' 20ths of a GHz (17 R402):
at step s the clock is (37 − s)/20 GHz and its period 20·L/(37 − s) units. -/
def wallUnit : Nat := (List.range 19).foldl (fun m i => Nat.lcm m (19 + i)) 1

def Dev.period (d : Dev) : Nat := 20 * wallUnit / (37 - d.clkStep.toNat)

/-- Wall time in ns since device reset (03 R70). -/
def Dev.ns (d : Dev) : Nat := d.wall / wallUnit

/-! ### Local HBM4 (14 R369) -/

/-- The channel groups of a partition in ascending number. -/
def Part.groups (p : Part) : List Nat := (List.range 128).filter fun n => p.conf.groups.contains n

/-- The size of the partition-local space: G × 8 GiB. -/
def Part.localSize (p : Part) : Nat := p.groups.length * 2 ^ 33

/-- The device byte of partition-local byte P. -/
def localByte (groups : List Nat) (a : Nat) : Nat :=
  let n := groups.length
  groups.getD (a / 256 % n) 0 * 2 ^ 33 + 256 * (a / (256 * n)) + a % 256

/-- A byte of the partition-local space; one beyond it is no byte of the partition and reads zero (14 R369). -/
def localPByte (m : Mem) (groups : List Nat) (a : Nat) : PByte :=
  if a < groups.length * 2 ^ 33 then m.pbyte hbmGran (localByte groups a) else (0, false)

def readLocal (m : Mem) (groups : List Nat) (a : Nat) : Nat → List PByte
  | 0 => []
  | n + 1 => localPByte m groups a :: readLocal m groups (a + 1) n

/-- Write bytes run by run: a run never leaves a 256-byte line, so it is contiguous in its group. -/
def writeLocal : Nat → Mem → List Nat → Nat → List PByte → Mem
  | 0, m, _, _, _ => m
  | f + 1, m, groups, a, ps =>
    if ps.isEmpty || decide (groups.length * 2 ^ 33 ≤ a) then m else
    let k := 256 - a % 256
    writeLocal f (m.write hbmGran (localByte groups a) (ps.take k)) groups (a + k) (ps.drop k)

/-! ### Homes (05 R139; 14 R377, R379) -/

/-- Where a byte range of global memory is: the target, the peer, the address there. -/
structure Home where
  target : Target
  dev : BitVec 20
  addr : Nat
  deriving DecidableEq, Repr

/-- The home of a virtual address in a page (03 R89). -/
def Page.home (p : Page) (va : Nat) : Home := ⟨p.target, p.dev, p.place + (va - p.base)⟩

def State.peer? (s : State) (dev : BitVec 20) (tenant : BitVec 16) : Option PeerSpace :=
  s.peers.find? fun x => x.dev = dev ∧ x.tenant = tenant

/-- A page whose device is this one: it serves the request itself, in the partition with the issuer's tenant id, which is
the issuer (14 R367, R379; Assumption 78). -/
def State.ownPeer (s : State) (h : Home) : Bool := h.target = .peer ∧ h.dev = s.dev.id

/-- Who holds the bytes of a home. -/
def State.holder (s : State) (h : Home) : Target := if s.ownPeer h then .hbm else h.target

/-- Bytes at a home; a peer space this device knows nothing of reads zero (Assumption 4). -/
def State.homeRead (s : State) (part : Nat) (h : Home) (n : Nat) : List PByte :=
  match s.part? part with
  | none => List.replicate n (0, false)
  | some p =>
    match s.holder h with
    | .hbm => readLocal s.hbm p.groups h.addr n
    | .cxl | .pcie => s.host.read hbmGran h.addr n
    | .peer =>
      match s.peer? h.dev p.conf.tenant with
      | some x => x.mem.read hbmGran h.addr n
      | none => List.replicate n (0, false)

def State.homeWrite (s : State) (part : Nat) (h : Home) (ps : List PByte) : State :=
  match s.part? part with
  | none => s
  | some p =>
    match s.holder h with
    | .hbm => { s with hbm := writeLocal (ps.length + 1) s.hbm p.groups h.addr ps }
    | .cxl | .pcie => { s with host := s.host.write hbmGran h.addr ps }
    | .peer =>
      { s with peers := s.peers.map fun x =>
          if x.dev = h.dev ∧ x.tenant = p.conf.tenant then { x with mem := x.mem.write hbmGran h.addr ps } else x }

/-- Why a peer refuses an access, and nothing there is read or written (14 R379). -/
def State.peerRefuses (s : State) (part : Nat) (h : Home) (n : Nat) : Option Cause :=
  if h.target ≠ .peer then none else
  match s.part? part with
  | none => none
  | some p =>
    if s.ownPeer h then if p.localSize < h.addr + n then some 0x109 else none else
    match s.peer? h.dev p.conf.tenant with
    | none => some 0x108
    | some x => if x.size < h.addr + n then some 0x109 else none

/-- A peer that was declared unresponsive: a switch answers in its place (20 R450). -/
def State.synthetic (s : State) (h : Home) : Bool := h.target = .peer ∧ !s.ownPeer h ∧ s.quiet.contains h.dev

/-- The home does not answer: an unresponsive peer, or any peer once every port is down (20 R439, R464). -/
def State.silent (s : State) (h : Home) : Bool :=
  h.target = .peer ∧ !s.ownPeer h ∧ (s.quiet.contains h.dev ∨ s.dev.portsUp = 0)

/-! ### Translation (14 R377) -/

/-- What a walk finds. -/
inductive Walk
  | mapped (p : Page)
  | unmapped
  | poisoned (tablePage : Nat)
  deriving DecidableEq, Repr

/-- A table entry: 8 bytes read where pc.ptroot [0] says, and whether they are poisoned. -/
def State.entry (s : State) (p : Part) (addr : Nat) : Nat × Bool :=
  leVal (if p.ptroot.getLsbD 0 then s.host.read hbmGran addr 8 else readLocal s.hbm p.groups addr 8)

def bitsOf (x hi lo : Nat) : Nat := x / 2 ^ lo % 2 ^ (hi + 1 - lo)

/-- The page size a leaf at a level maps. -/
def leafSize : Nat → Nat
  | 2 => 2 ^ 30
  | 1 => 2 ^ 21
  | _ => 2 ^ 16

/-- The index a level takes from the address. -/
def walkIndex (va : Nat) : Nat → Nat
  | 4 => bitsOf va 56 48
  | 3 => bitsOf va 47 39
  | 2 => bitsOf va 38 30
  | 1 => bitsOf va 29 21
  | _ => bitsOf va 20 16

def targetOf : Nat → Target
  | 0 => .hbm
  | 1 => .cxl
  | 2 => .pcie
  | _ => .peer

/-- The page a leaf entry maps, if it is well formed. -/
def leafPage (p : Part) (lev va e : Nat) : Walk :=
  let size := leafSize lev
  let t := targetOf (bitsOf e 7 6)
  let place := if t = .peer then bitsOf e 43 12 * 4096 else bitsOf e 55 12 * 4096
  if 2 < lev ∨ bitsOf e 2 2 ≠ 0 ∨ bitsOf e 5 5 ≠ 0 ∨ bitsOf e 11 8 ≠ 0 ∨ (t ≠ .peer ∧ bitsOf e 63 56 ≠ 0) then .unmapped
  else if place % size ≠ 0 then .unmapped
  else if t = .hbm ∧ p.localSize < place + size then .unmapped
  else .mapped { base := va / size * size, size := size, rd := bitsOf e 3 3 = 1, wr := bitsOf e 4 4 = 1, target := t
                 dev := if t = .peer then BitVec.ofNat 20 (bitsOf e 63 44) else 0, place := place, tag := p.tag }

/-- The walk from a level's table down to level 0. -/
def State.walkFrom (s : State) (p : Part) (va : Nat) : Nat → Nat → Walk
  | lev, table =>
    let (e, bad) := s.entry p (table + 8 * walkIndex va lev)
    if bad then .poisoned (if lev = 0 then table / 256 * 256 else table / 4096 * 4096)
    else if bitsOf e 0 0 = 0 then .unmapped
    else if bitsOf e 1 1 = 1 then leafPage p lev va e
    else
      match lev with
      | 0 => .unmapped
      | n + 1 =>
        if bitsOf e 63 56 ≠ 0 ∨ bitsOf e 7 2 ≠ 0 ∨ (lev ≠ 1 ∧ bitsOf e 11 8 ≠ 0) then .unmapped
        else s.walkFrom p va n (bitsOf e 55 12 * 4096 + (if lev = 1 then bitsOf e 11 8 * 256 else 0))

/-- Translate a virtual address of a partition. -/
def State.walk (s : State) (part va : Nat) : Walk :=
  match s.part? part with
  | none => .unmapped
  | some p => s.walkFrom p va 4 (bitsOf p.ptroot.toNat 56 12 * 4096)

/-- Bytes of a virtual range, page by page: the bytes, or the first address that does not translate and why.
Poisoned entries give 0x103, a missing mapping 0x101, a page without the permission 0x106 (12 R314;
14 R379; 20 R453). -/
inductive VRes
  | ok (bytes : List PByte)
  | stop (c : Cause) (va : Nat)
  deriving DecidableEq, Repr

def State.page (s : State) (part va : Nat) (write : Bool) : Except (Cause × Nat) Page :=
  if 2 ^ 57 ≤ va then .error (0x100, va) else
  match s.walk part va with
  | .unmapped => .error (0x101, va)
  | .poisoned _ => .error (0x103, va)
  | .mapped p => if (if write then p.wr else p.rd) then .ok p else .error (0x106, va)

def State.vread : Nat → State → Nat → Nat → Nat → Except (Cause × Nat) (List PByte)
  | 0, _, _, _, _ => .ok []
  | f + 1, s, part, va, n =>
    if n = 0 then .ok [] else do
    let p ← s.page part va false
    let k := min n (p.base + p.size - va)
    match s.peerRefuses part (p.home va) k with
    | some c => .error (c, va)
    | none =>
      let here := if s.silent (p.home va) then List.replicate k (0, true) else s.homeRead part (p.home va) k
      let rest ← State.vread f s part (va + k) (n - k)
      return here ++ rest

/-- Write a virtual range page by page; what precedes the first refused page is written (18 R422). -/
def State.vwrite : Nat → State → Nat → Nat → List PByte → State × Option (Cause × Nat)
  | 0, s, _, _, _ => (s, none)
  | f + 1, s, part, va, ps =>
    if ps.isEmpty then (s, none) else
    match s.page part va true with
    | .error c => (s, some c)
    | .ok p =>
      let k := min ps.length (p.base + p.size - va)
      match s.peerRefuses part (p.home va) k with
      | some c => (s, some (c, va))
      | none => State.vwrite f (s.homeWrite part (p.home va) (ps.take k)) part (va + k) (ps.drop k)

/-- Pages a range of this length can touch. -/
def pagesOf (n : Nat) : Nat := n / 65536 + 2

def State.readV (s : State) (part va n : Nat) : Except (Cause × Nat) (List PByte) := s.vread (pagesOf n) part va n

def State.writeV (s : State) (part va : Nat) (ps : List PByte) : State × Option (Cause × Nat) :=
  s.vwrite (pagesOf ps.length) part va ps

end Sys2Proof.Machine
end

