-- ==== Sys2Proof/Machine/Ring.lean ====
section
/-! DEFINITION. Error records, AER-style status, the action table, page-request records and completion
postings (13 R341-R343; 18 R408, R418, R419; 20 R460-R462). -/

namespace Sys2Proof.Machine

/-! ### The action table (18 R408) -/

/-- An entry's reset value: kill, limit 3, notify. -/
def entryReset : BitVec 32 := 0x0001_000C

def Part.entry (p : Part) (c : Cause) : BitVec 32 := (p.table.lookup c).getD entryReset

/-- A write keeps what the register holds: reserved bits read zero. -/
def Part.setEntry (p : Part) (c : Cause) (v : BitVec 32) : Part :=
  let v := v &&& 0x0001_FF3F
  { p with table := (c, v) :: p.table.filter fun x => x.1 ≠ c }

inductive Action | kill | replay | park | forward
  deriving DecidableEq, Repr

def entryAction (e : BitVec 32) : Action :=
  match (e.extractLsb' 0 2).toNat with
  | 0 => .kill
  | 1 => .replay
  | 2 => .park
  | _ => .forward

def Action.code : Action → Nat
  | .kill => 0
  | .replay => 1
  | .park => 2
  | .forward => 3

def entryLimit (e : BitVec 32) : Nat := (e.extractLsb' 2 4).toNat

def entryForward (e : BitVec 32) : Nat := (e.extractLsb' 8 8).toNat

def entryNotify (e : BitVec 32) : Bool := e.getLsbD 16

/-! ### Error rings (20 R460-R462) -/

/-- An event to record (20 R461). -/
structure Event where
  code : Cause
  kind : Nat
  byte5 : Nat := 0
  quad : Nat := 0xFFFF
  va : Nat := 0
  ordinal : Nat := 0
  where_ : Nat := 0
  count : Nat := 0
  deriving DecidableEq, Repr

/-- The 32 bytes of a record with the index it gets. -/
def recordBytes (tag : BitVec 16) (e : Event) (idx : Nat) : List Byte :=
  leBytes 2 e.code ++ leBytes 2 tag.toNat ++ leBytes 1 e.kind ++ leBytes 1 e.byte5 ++ leBytes 2 e.quad ++
  leBytes 8 e.va ++ leBytes 4 e.ordinal ++ leBytes 4 e.where_ ++ leBytes 4 (idx % 2 ^ 30) ++ leBytes 4 e.count

/-- The ea.ustat bit of a code. -/
def ustatBit (c : Cause) : Option Nat :=
  match c with
  | 0x300 => some 0 | 0x301 => some 1 | 0x303 => some 2 | 0x304 => some 3 | 0x305 => some 4 | 0x306 => some 5
  | 0x307 => some 6 | 0x103 => some 7 | 0x30C => some 8 | 0x30E => some 8 | 0x30F => some 8 | 0x314 => some 9
  | 0x381 => some 10 | 0x385 => some 11 | 0x386 => some 11 | 0x387 => some 11 | 0x388 => some 11
  | 0x321 => some 12 | 0x322 => some 12 | _ => none

/-- The ea.cstat bit of a code: a first detection or a refetch (20 R440), a dual run settled. -/
def cstatBit (c : Cause) : Option Nat :=
  match c with
  | 0x380 => some 3 | 0x382 => some 3 | 0x383 => some 3 | 0x302 => some 3 | 0x384 => some 4 | _ => none

def setBit64 (w : Word) : Option Nat → Word
  | none => w
  | some n => w ||| (1#64 <<< n)

def ringSlots (base : Word) : Nat := 2 ^ ((base.extractLsb' 0 4).toNat + 7)

def ringAddr (base : Word) : Nat := (base &&& 0x01FF_FFFF_FFFF_F000).toNat

def ErrRegs.enabled (r : ErrRegs) : Bool := r.ctl.getLsbD 0

def ErrRegs.full (r : ErrRegs) : Bool := (BitVec.ofNat 64 r.wr - r.rd).toNat = ringSlots r.base

/-- One more record dropped: the count, and the overflow bit where the ring is full. -/
def ErrRegs.drop (r : ErrRegs) : ErrRegs :=
  let n := (r.ctl.extractLsb' 32 32) + 1
  { r with ctl := (n ++ r.ctl.extractLsb' 0 32) ||| (if r.full then 2 else 0) }

/-- Status bits and the log (20 R462). -/
def ErrRegs.mark (r : ErrRegs) (tag : BitVec 16) (e : Event) : ErrRegs :=
  let u := setBit64 r.ustat (ustatBit e.code)
  { r with
    ustat := u
    cstat := setBit64 r.cstat (cstatBit e.code)
    log := if r.ustat = 0 ∧ u ≠ 0 then recordBytes tag e r.wr else r.log }

/-- Record an event in one function's registers; the record goes to host memory. -/
def ringWrite (host : Mem) (r : ErrRegs) (tag : BitVec 16) (e : Event) : Mem × ErrRegs :=
  let r' := r.mark tag e
  if !r.enabled || r.full then (host, r'.drop)
  else
    (host.write hbmGran (ringAddr r.base + 32 * (r.wr % ringSlots r.base)) (clean (recordBytes tag e r.wr)),
     { r' with wr := r.wr + 1 })

/-- The last 1,024 of a list of records, one more added (20 R465). -/
def addLog (l : List (List Byte)) (r : List Byte) : List (List Byte) := (l ++ [r]).drop (l.length + 1 - 1024)

/-- Record an event in the physical function's ring. -/
def State.recordPf (s : State) (tag : BitVec 16) (e : Event) : State :=
  let (host, r) := ringWrite s.host s.dev.err tag e
  let log := if r.wr = s.dev.err.wr then s.dev.log else addLog s.dev.log (recordBytes tag e s.dev.err.wr)
  { s with host := host, dev := { s.dev with err := r, log := log } }

/-- A first detection or refetch that succeeded counts as a corrected error, recorded or not (20 R440). -/
def ErrRegs.markCorrected (r : ErrRegs) (c : Cause) : ErrRegs :=
  if cstatBit c = some 3 then { r with cstat := setBit64 r.cstat (some 3) } else r

/-- Record an event of a partition: in its own ring when `notify` is set, and always in the physical function's
(20 R460). -/
def State.record (s : State) (part : Nat) (notify : Bool) (e : Event) : State :=
  match s.part? part with
  | none => s
  | some p =>
    let s := if notify then
        let (host, r) := ringWrite s.host p.err p.tag e
        ({ s with host := host } : State).setPart { p with err := r }
      else s.setPart { p with err := p.err.markCorrected e.code }
    s.recordPf p.tag e

/-- A notice: its entry's notify bit decides whether the partition's ring receives it. -/
def State.notice (s : State) (part : Nat) (e : Event) : State :=
  match s.part? part with
  | none => s
  | some p => s.record part (entryNotify (p.entry e.code)) { e with kind := 4 }

/-- Count a corrected error (20 R440, R460): a notice 0x320 each time the counter passes a multiple of 2^t. -/
def ErrRegs.count (r : ErrRegs) (c : ErrCtr) : ErrRegs × Option (BitVec 32) :=
  let old := match c with | .chip => r.chip | .hbm => r.hbm | .link => r.link
  let new := if old = BitVec.allOnes 32 then old else old + 1
  let t := (r.ctl.extractLsb' 16 16).toNat
  let passed := old ≠ new ∧ new.toNat % 2 ^ t = 0
  let bit := match c with | .chip => 0 | .hbm => 1 | .link => 2
  let r := match c with
    | .chip => { r with chip := new }
    | .hbm => { r with hbm := new }
    | .link => { r with link := new }
  ({ r with cstat := setBit64 r.cstat (some bit) }, if passed then some new else none)

/-- A corrected error: every one counts in the physical function's counters, a partition's in its own too, and each counter
has its own threshold (20 R440, R460). -/
def State.corrected (s : State) (part : Option Nat) (c : ErrCtr) : State :=
  let (r, n) := s.dev.err.count c
  let s := { s with dev := { s.dev with err := r } }
  let s := match n with
    | none => s
    | some v => s.recordPf 0xFFFF { code := 0x320, kind := 4, count := v.toNat }
  match part.bind s.part? with
  | none => s
  | some p =>
    let (r', n') := p.err.count c
    let s := s.setPart { p with err := r' }
    match n' with
    | none => s
    | some v => s.notice p.conf.num { code := 0x320, kind := 4, count := v.toNat }

/-! ### Completion descriptors (13 R341-R343) -/

/-- What a posting carries. -/
structure Posting where
  amount : Nat
  flags : Nat
  sig : Option (List Byte)
  failed : Option Cause

/-- The new 32 bytes of a descriptor (13 R342). Its reserved bits stay as they are, zero or not: no cause is given for a
descriptor that breaks R6 (Assumption 72). -/
def postBytes (old : List Byte) (p : Posting) : List Byte :=
  let e := leNat (old.take 4)
  let done := (leNat ((old.drop 4).take 4) + p.amount) % 2 ^ 32
  let f := leNat ((old.drop 8).take 4) ||| p.flags
  let f := if p.failed.isSome then f ||| 2 else f
  let f := if f % 2 = 0 ∧ e ≤ done then f ||| 1 else f
  let c := match p.failed with | some c => leBytes 4 c | none => (old.drop 12).take 4
  leBytes 4 e ++ leBytes 4 done ++ leBytes 4 f ++ c ++
    (match p.sig with | some b => b | none => (old.drop 16).take 16)

/-- Post to the descriptor at a virtual address; 0 is none. The cause where it cannot be reached. -/
def State.post (s : State) (part desc : Nat) (p : Posting) : Except (Cause × Nat) State :=
  if desc = 0 then .ok s else do
  let old ← s.readV part desc 32
  match s.writeV part desc (clean (postBytes (old.map (·.1)) p)) with
  | (s, none) => return s
  | (_, some c) => .error c

/-! ### Page requests (18 R418, R419) -/

/-- The slot of the next record is free: the record that used it last has been answered. -/
def prqFree (p : Part) : Bool := p.reqs.all fun q => decide (q.idx % ringSlots p.prq ≠ p.nextReq % ringSlots p.prq)

/-- The 32 bytes of a page-request record. -/
def prqBytes (va : Nat) (gen : BitVec 32) (tag : BitVec 16) (who ctx ordinal tile idx : Nat) : List Byte :=
  leBytes 8 (va / 65536 * 65536) ++ leBytes 4 gen.toNat ++ leBytes 2 tag.toNat ++ leBytes 1 who ++ leBytes 1 ctx ++
  leBytes 4 ordinal ++ leBytes 4 tile ++ leBytes 4 (idx % 2 ^ 30) ++ leBytes 4 0

/-- Give the records that wait their slots, in their order, while slots are free. -/
def writeReqs : Nat → Mem → Part → Mem × Part
  | 0, host, p => (host, p)
  | f + 1, host, p =>
    match p.prqWait with
    | [] => (host, p)
    | q :: rest =>
      if q.askers.isEmpty then writeReqs f host { p with prqWait := rest }
      else if !prqFree p then (host, p)
      else
        let i := p.nextReq
        let rec_ := clean (prqBytes q.va q.gen p.tag q.who q.ctx q.ordinal q.tile i)
        writeReqs f (host.write hbmGran (ringAddr p.prq + 32 * (i % ringSlots p.prq)) rec_)
          { p with nextReq := (i + 1) % 2 ^ 30, reqs := p.reqs ++ [{ q with idx := i }], prqWait := rest }

def State.flushReqs (s : State) (part : Nat) : State :=
  match s.part? part with
  | none => s
  | some p =>
    let (host, p) := writeReqs (p.prqWait.length) s.host p
    ({ s with host := host } : State).setPart p

/-- A requester joins a record that serves its address. -/
def PageReq.join (v : Nat) (a : Asker) (q : PageReq) : PageReq :=
  if q.va = v ∧ !q.withdrawn ∧ !q.askers.contains a then { q with askers := q.askers ++ [a] } else q

/-- Write a page-request record, or join the one for the same 64 KiB address. While no slot of the ring is free the
record waits. -/
def State.pageRequest (s : State) (part va : Nat) (gen : BitVec 32) (a : Asker) (who ctx ordinal tile : Nat) : State :=
  match s.part? part with
  | none => s
  | some p =>
    let v := va / 65536 * 65536
    if (p.reqs ++ p.prqWait).any fun q => q.va = v ∧ !q.withdrawn then
      s.setPart { p with reqs := p.reqs.map (PageReq.join v a), prqWait := p.prqWait.map (PageReq.join v a) }
    else (s.setPart { p with prqWait := p.prqWait ++ [⟨0, v, gen, who, ctx, ordinal, tile, [a], false⟩] }).flushReqs part

/-- A requester leaves a record; one that loses its last requester is withdrawn (18 R419). -/
def PageReq.leave (mine : Asker → Bool) (q : PageReq) : PageReq :=
  let left := q.askers.filter fun a => !mine a
  { q with askers := left, withdrawn := q.withdrawn || left.isEmpty }

def State.leaveReqs (s : State) (part : Nat) (mine : Asker → Bool) : State :=
  s.modPart part fun p => { p with reqs := p.reqs.map (PageReq.leave mine), prqWait := p.prqWait.map (PageReq.leave mine) }

/-- A requester that is one of this region's. -/
def Asker.ofRegion (r : Nat) : Asker → Bool
  | .region n => n = r
  | .cmd n _ => n = r
  | .queue _ => false

end Sys2Proof.Machine
end

