-- ==== Sys2Proof/Machine/Packet.lean ====
section
/-! DEFINITION. Queue registers and packets: reading the ring and the form of each packet
(13 R330, R331, R334-R340). -/

namespace Sys2Proof.Machine

/-! ### qc.ctl (13 R330) -/

def Queue.enabled (q : Queue) : Bool := q.ctl.getLsbD 0
def Queue.stopped (q : Queue) : Bool := q.ctl.getLsbD 1
def Queue.deviceFed (q : Queue) : Bool := q.ctl.getLsbD 2
def Queue.ceiling (q : Queue) : Nat := (q.ctl.extractLsb' 4 3).toNat
def Queue.logSize (q : Queue) : Nat := (q.ctl.extractLsb' 8 5).toNat
def Queue.weight (q : Queue) : Nat := (q.ctl.extractLsb' 16 8).toNat

def Queue.size (q : Queue) : Nat := 2 ^ q.logSize

def Queue.setStopped (q : Queue) (b : Bool) : Queue :=
  { q with ctl := if b then q.ctl ||| 2 else q.ctl &&& ~~~2#64 }

/-- Stop a queue at a cause (13 R333). -/
def Queue.stop (q : Queue) (c : Cause) : Queue := { q.setStopped true with cause := c }

/-- Ring position of the reader and its address. -/
def Queue.pos (q : Queue) : Nat := q.rd % q.size

def Queue.addr (q : Queue) : Nat := (q.base &&& 0x01FF_FFFF_FFFF_F000).toNat + q.pos

/-! ### Packets -/

inductive PktKind | pad | launch | wait | signal | graph | load | unload
  deriving DecidableEq, Repr

def PktKind.ofCode : Nat → Option PktKind
  | 0 => some .pad
  | 1 => some .launch
  | 2 => some .wait
  | 3 => some .signal
  | 4 => some .graph
  | 5 => some .load
  | 6 => some .unload
  | _ => none

/-- The length in 8-byte words (13 R335). -/
def PktKind.words : PktKind → Nat
  | .pad => 1
  | .launch => 52
  | .wait | .signal | .graph | .load => 4
  | .unload => 2

/-- A packet's bytes with its kind. -/
structure Packet where
  kind : PktKind
  bytes : List Byte
  deriving DecidableEq, Repr

/-- Bytes a to a + n − 1 of the packet, as a number. -/
def Packet.field (p : Packet) (a n : Nat) : Nat := leNat ((p.bytes.drop a).take n)

def Packet.header (p : Packet) : Nat := p.field 0 8

/-- An address with bits [63:57] zero and the alignment. -/
def addrOk (align a : Nat) : Bool := decide (a < 2 ^ 57) && decide (a % align = 0)

/-- The reserved bits, lengths and address fields of a packet (13 R335 to R340): 0x281 where they fail, and
0x280 for a reserved WAIT or SIGNAL code. -/
def Packet.form (p : Packet) : Option Cause :=
  let h := p.header
  let bad := some 0x281
  if bitsOf h 15 8 ≠ 0 ∨ bitsOf h 31 16 ≠ p.kind.words then bad else
  match p.kind with
  | .pad => if bitsOf h 63 32 ≠ 0 then bad else none
  | .launch =>
    if bitsOf h 63 53 ≠ 0 ∨ p.field 10 2 ≠ 0 ∨ p.field 14 2 ≠ 0 ∨ !addrOk 32 (p.field 16 8) then bad else none
  | .wait =>
    let c := bitsOf h 35 32
    let a := p.field 8 8
    if bitsOf h 39 36 ≠ 0 ∨ bitsOf h 63 48 ≠ 0 ∨ p.field 24 8 ≠ 0 then bad
    else if 4 < c then some 0x280
    else if c = 0 ∧ a ≠ 0 then bad
    else if 1 ≤ c ∧ c ≤ 3 ∧ !addrOk 8 a then bad
    else if c = 4 ∧ (!addrOk 32 a ∨ p.field 16 8 ≠ 0) then bad
    else none
  | .signal =>
    let c := bitsOf h 35 32
    let a := p.field 8 8
    if bitsOf h 39 36 ≠ 0 ∨ bitsOf h 63 48 ≠ 0 ∨ p.field 24 8 ≠ 0 then bad
    else if 3 < c then some 0x280
    else if c = 0 ∧ a ≠ 0 then bad
    else if 1 ≤ c ∧ c ≤ 2 ∧ !addrOk 8 a then bad
    else if c = 3 ∧ !addrOk 32 a then bad
    else none
  | .graph =>
    if bitsOf h 63 32 ≠ 0 ∨ p.field 18 6 ≠ 0 ∨ !addrOk 64 (p.field 8 8) ∨ !addrOk 32 (p.field 24 8) then bad
    else if p.field 16 2 < 1 ∨ 4096 < p.field 16 2 then some 0x28D
    else none
  | .load =>
    if bitsOf h 63 32 ≠ 0 ∨ 255 < p.field 8 2 ∨ p.field 10 6 ≠ 0 ∨ p.field 24 8 ≠ 0 ∨ !addrOk 256 (p.field 16 8)
    then bad else none
  | .unload => if bitsOf h 63 32 ≠ 0 ∨ 255 < p.field 8 2 ∨ p.field 10 6 ≠ 0 then bad else none

/-- Why no packet can be read now: none published whole, or a cause, or no translation. -/
inductive PktRes
  | none
  | pkt (p : Packet)
  | bad (c : Cause) (va : Nat)
  deriving DecidableEq, Repr

/-- A packet of known kind at a virtual address (13 R345 for a graph's nodes). -/
def State.packetAt (s : State) (part va : Nat) : PktRes :=
  match s.readV part va 8 with
  | .error (c, a) => .bad c a
  | .ok hd =>
    match PktKind.ofCode (leNat (hd.map (·.1)) % 256) with
    | none => .bad 0x281 0
    | some k =>
      match s.readV part va (8 * k.words) with
      | .error (c, a) => .bad c a
      | .ok bs =>
        let p : Packet := ⟨k, bs.map (·.1)⟩
        match p.form with
        | some c => .bad c 0
        | none => .pkt p

/-- The packet at the read index of a queue (13 R331, R333): its header says how long it is; one that straddles the ring's
end is refused, one that is not published whole is not read. -/
def State.headPacket (s : State) (q : Nat) : PktRes :=
  match s.queuePart q with
  | none => .none
  | some p =>
    let u := s.queue q
    if u.wr < u.rd + 8 then .none else
    match s.readV p.conf.num u.addr 8 with
    | .error (c, a) => .bad c a
    | .ok hd =>
      match PktKind.ofCode (leNat (hd.map (·.1)) % 256) with
      | none => .bad 0x281 0
      | some k =>
        if u.size < u.pos + 8 * k.words then .bad 0x281 0
        else if u.wr < u.rd + 8 * k.words then .none
        else s.packetAt p.conf.num u.addr

/-- A queue of this partition (13 R338, R339). -/
def Part.hasQueue (p : Part) (q : Nat) : Bool := p.conf.queues.contains q

def Part.pattern? (p : Part) (n : Nat) : Option Pattern := p.pats.find? fun x => x.num = n

/-- A LAUNCH packet against the patterns its queue refers to (13 R336): 0x282, 0x283. -/
def launchCause (p : Part) (q : Nat) (k : Packet) : Option Cause :=
  match p.pattern? (k.field 8 2) with
  | none => some 0x282
  | some x =>
    if !x.refs.contains q then some 0x282
    else
      let h := k.header
      if bitsOf h 39 32 ≠ x.w ∨ bitsOf h 47 40 ≠ x.h ∨ decide (bitsOf h 48 48 = 1) ≠ x.split then some 0x283 else none

/-- A queue number that WAIT or SIGNAL refuses, whatever the code (13 R338, R339): one of another partition; where the code
uses the queue, any that is not the partition's own. -/
def State.codeCause (s : State) (p : Part) (k : Packet) : Option Cause :=
  let n := bitsOf k.header 47 40
  let foreign := s.parts.any fun o => o.conf.num ≠ p.conf.num && o.hasQueue n
  if foreign || (decide (bitsOf k.header 35 32 = 0) && !p.hasQueue n) then some 0x280 else none

/-- The level of a launch: the lesser of the header's and the queue's ceiling (13 R336). -/
def launchLevel (u : Queue) (k : Packet) : Nat := min (bitsOf k.header 52 50) u.ceiling

/-- The mailbox values of a LAUNCH (13 R337). -/
def launchMail (k : Packet) : Vector Word 16 :=
  Vector.ofFn fun i : Fin 16 =>
    if (k.field 12 2).testBit i.val then BitVec.ofNat 64 (k.field (288 + 8 * i.val) 8) else 0

/-- What the packet gives a launch; the ordinal and the generation come at the placement. -/
def launchOf (p : Part) (q : Nat) (node : Option Nat) (level : Nat) (k : Packet) : Launch where
  part := p.conf.num
  queue := q
  node := node
  epoch := p.epoch
  level := level
  dual := bitsOf k.header 49 49 = 1
  desc := k.field 16 8
  seed := BitVec.ofNat 64 (k.field 24 8)
  args := (k.bytes.drop 32).take 256
  mail := launchMail k
  ordinal := 0
  gen := 0

end Sys2Proof.Machine
end

