-- ==== Sys2Proof/Machine/Save.lean ====
section
/-! DEFINITION. The saved context of a region: what it holds, its size, where each item lies in the save area, and how
it is read back (03 R74, R92, R93; 13 R354 to R356; 18 R417, R422, R426). The places of items within a save are the
model's (Assumption 15). -/

namespace Sys2Proof.Machine

/-! ### What is kept (03 R92; 18 R417) -/

/-- At the start of stitch 0 a context keeps the argument block and no register. -/
def emptyRec : SafePt :=
  ⟨0, 0, none, 0, 0, 0, 0, 0, 0, 0, 0, 0, 0, 0, [], [(0, 256)], 0⟩

/-- The safe-point record the region stands at. -/
def Region.keepRec (g : Region) : SafePt := if g.stitch = 0 then emptyRec else (g.pat.rec? g.recId).getD emptyRec

def Cmd.parked? (c : Cmd) : Bool :=
  match c.st with
  | .parked .. => true
  | _ => false

/-- The streams of a tile that are saved: those that run; in twin mode stream A's only. -/
def Region.savedStreams (g : Region) (t : Nat) : List Bool :=
  [false, true].filter fun b => (g.str t b).running && (g.pat.split || !b)

/-- The byte a space's read returns where nothing has written it since a resumption: a free value. -/
def Tile.freeAt (x : Tile) (z : Space) (a : Nat) : Option Byte :=
  match x.free.find? fun f => f.space = z ∧ f.start ≤ a ∧ a < f.start + f.len with
  | some f => some (Config.freeByte f.id a)
  | none => none

/-- A byte of a tile's storage, as a read finds it. -/
def Tile.stored (x : Tile) (z : Space) (a : Nat) : PByte :=
  let (b, bad) := match z with
    | .sp => x.sp.pbyte spGran a
    | .tm => x.tm.pbyte tmGran a
    | .bs => x.bs.pbyte bsGran a
  ((x.freeAt z a).getD b, bad)

/-- A run of live storage: its space, first byte, length. No run crosses a scratchpad bank. -/
structure LiveRun where
  space : Space
  start : Nat
  len : Nat
  deriving DecidableEq, Repr

def spBank : Nat := 0x8000

/-- Cut a scratchpad range at the boundaries of logical banks. -/
def cutBanks : Nat → Nat → Nat → List LiveRun
  | 0, _, _ => []
  | f + 1, a, n =>
    let k := spBank - a % spBank
    if n ≤ k then [⟨.sp, a, n⟩] else ⟨.sp, a, k⟩ :: cutBanks f (a + k) (n - k)

/-- The 64 rows of a block of tensor memory. -/
def blockRuns (blk : Nat) : List LiveRun :=
  (List.range 64).map fun i => ⟨.tm, (64 * (blk / 4) + i) * 1024 + 256 * (blk % 4), 256⟩

/-- Whether a segment of 64 words of tensor memory belongs to a declared slot. -/
def inSlot (acc : BitVec 8) (k : Nat) : Bool := acc.getLsbD ((4 * (k / 4 / 64) + k % 4) / 2)

/-- The live storage of a tile in the order of R92: committed copies of slots, rows of general tensor memory, scratchpad
ranges, B-stack slices. -/
def Tile.liveRuns (x : Tile) (acc : BitVec 8) (r : SafePt) : List LiveRun :=
  (((List.range 8).filter fun s => acc.getLsbD s && r.acc.getLsbD s).flatMap fun s =>
      blockRuns (2 * s + (x.accCom.getLsbD s).toNat)) ++
    ((List.range 256).flatMap fun row =>
      if r.tmRows.any fun w => decide (w.1 ≤ row ∧ row < w.1 + w.2) then
        ((List.range 4).filter fun k => !inSlot acc (4 * row + k)).map fun k => (⟨.tm, 1024 * row + 256 * k, 256⟩ : LiveRun)
      else []) ++
    (r.sp.flatMap fun w => if w.2 = 0 then [] else cutBanks 33 w.1 w.2) ++
    ((List.range 64).filter r.bs.getLsbD).map fun j => ⟨.bs, 32768 * j, 32768⟩

def Region.liveRuns (g : Region) (t : Nat) : List LiveRun := (g.tile t).liveRuns g.pat.acc g.keepRec

/-! ### Registers (03 R92) -/

/-- How many of the items below a number are live. -/
def rankOf (live : Nat → Bool) (i : Nat) : Nat := ((List.range i).filter live).length

/-- The live registers of a bank, set by set in the order of R92's rows. -/
def Bank.image (k : Bank) (r : SafePt) : List PByte :=
  let each (n : Nat) (live : Nat → Bool) (f : Nat → List PByte) : List PByte := ((List.range n).filter live).flatMap f
  let val (x : Val) : List PByte := taint x.bad (leBytes 8 x.bits.toNat)
  each 64 r.g.getLsbD (fun i => val (k.g[i]?.getD {})) ++
  each 8 r.k.getLsbD (fun i => val (k.k[i]?.getD {})) ++
  each 32 r.tb.getLsbD (fun i => val (k.tb[i]?.getD {})) ++
  (if r.p = 0 then [] else
    taint (k.p.any (·.bad)) (leBytes 8 ((List.range 16).foldr (fun i a => (k.p[i]?.getD {}).bit.toNat + 2 * a) 0))) ++
  each 8 r.m.getLsbD (fun i => let x := k.m[i]?.getD {}; taint x.bad (leBytes 4 x.bits.toNat)) ++
  each 4 r.mr.getLsbD (fun i => val (k.mr[i]?.getD {})) ++
  each 4 r.mc.getLsbD (fun i => val (k.mc[i]?.getD {})) ++
  each 4 r.lc.getLsbD (fun i => taint (k.lcBad.getLsbD i) (leBytes 4 (k.lc[i]?.getD 0).toNat)) ++
  each 32 r.v.getLsbD (fun i => let x := k.v[i]?.getD {}; taint (x.bad != 0) (leBytes 128 x.bits.toNat))

/-- The bytes of the live registers that a record names. -/
def SafePt.regLen (r : SafePt) : Nat :=
  8 * rankOf r.g.getLsbD 64 + 8 * rankOf r.k.getLsbD 8 + 8 * rankOf r.tb.getLsbD 32 + (if r.p = 0 then 0 else 8) +
    4 * rankOf r.m.getLsbD 8 + 8 * rankOf r.mr.getLsbD 4 + 8 * rankOf r.mc.getLsbD 4 + 4 * rankOf r.lc.getLsbD 4 +
    128 * rankOf r.v.getLsbD 32

/-- The register sets read back: what is not live reads zero (03 R74). -/
def Bank.ofImage (r : SafePt) (bs : List Byte) : Bank :=
  let item (live : Nat → Bool) (w base i : Nat) : Nat :=
    if live i then leNat ((bs.drop (base + w * rankOf live i)).take w) else 0
  let word (live : Nat → Bool) (base i : Nat) : Val := ⟨BitVec.ofNat 64 (item live 8 base i), false⟩
  let k0 := 8 * rankOf r.g.getLsbD 64
  let tb0 := k0 + 8 * rankOf r.k.getLsbD 8
  let p0 := tb0 + 8 * rankOf r.tb.getLsbD 32
  let m0 := p0 + (if r.p = 0 then 0 else 8)
  let mr0 := m0 + 4 * rankOf r.m.getLsbD 8
  let mc0 := mr0 + 8 * rankOf r.mr.getLsbD 4
  let lc0 := mc0 + 8 * rankOf r.mc.getLsbD 4
  let v0 := lc0 + 4 * rankOf r.lc.getLsbD 4
  let ps := leNat ((bs.drop p0).take 2)
  { g := Vector.ofFn fun i => word r.g.getLsbD 0 i
    k := Vector.ofFn fun i => word r.k.getLsbD k0 i
    tb := Vector.ofFn fun i => word r.tb.getLsbD tb0 i
    p := Vector.ofFn fun i => ⟨r.p.getLsbD i && ps.testBit i, false⟩
    m := Vector.ofFn fun i => ⟨BitVec.ofNat 32 (item r.m.getLsbD 4 m0 i), false⟩
    mr := Vector.ofFn fun i => word r.mr.getLsbD mr0 i
    mc := Vector.ofFn fun i => word r.mc.getLsbD mc0 i
    lc := Vector.ofFn fun i => BitVec.ofNat 32 (item r.lc.getLsbD 4 lc0 i)
    v := Vector.ofFn fun i => ⟨BitVec.ofNat 1024 (item r.v.getLsbD 128 v0 i), 0⟩ }

/-! ### Stream blocks (03 R92; 07 R180) -/

/-- The words of a pending transfer: how many delay bundles, where it goes. -/
def Pend.bits (p : Pend) : Nat := p.left % 4 + 4 * p.after.toNat

/-- A stream's 64 bytes: pc with up to two pending transfers, how far its bundle is, whether it runs, its loops, sr.cyc,
sr.srpos, the stitch number; sr.cyc is the sc of the commit (16 R395). -/
def streamBlock (sc stitch : Nat) (x : Stream) : List Byte :=
  let pend (i : Nat) : Pend := x.pend[i]?.getD ⟨0, 0, false, 0⟩
  let flags := x.running.toNat + 2 * x.skip.toNat + 4 * x.loops.depth + 32 * (pend 0).bits + 256 * (pend 1).bits + 2048 * x.done
  leBytes 3 x.pc.toNat ++ leBytes 3 (pend 0).target.toNat ++ leBytes 3 (pend 1).target.toNat ++ leBytes 3 flags ++
    (x.loops.starts.toList.flatMap fun w => leBytes 3 w.toNat) ++ (x.loops.ends.toList.flatMap fun w => leBytes 3 w.toNat) ++
    leBytes 4 0 ++ leBytes 8 sc ++ leBytes 8 x.srpos.toNat ++ leBytes 8 stitch

/-- The pending transfers a block names. -/
def pendOf (bits target : Nat) : List Pend :=
  if bits % 4 = 0 then [] else [⟨bits % 4, BitVec.ofNat 64 target, decide (bits / 4 % 2 = 1), 0⟩]

/-- A stream read back from its block and its registers. -/
def Stream.ofBlock (r : SafePt) (x : Stream) (bs : List Byte) : Stream :=
  let f (a n : Nat) : Nat := leNat ((bs.drop a).take n)
  let flags := f 9 3
  { x with
    bank := Bank.ofImage r (bs.drop 64)
    pc := BitVec.ofNat 64 (f 0 3)
    running := decide (flags % 2 = 1), skip := decide (flags / 2 % 2 = 1)
    loops := ⟨flags / 4 % 8, Vector.ofFn fun i => BitVec.ofNat 64 (f (12 + 3 * i.val) 3),
      Vector.ofFn fun i => BitVec.ofNat 64 (f (24 + 3 * i.val) 3)⟩
    pend := pendOf (flags / 32 % 8) (f 3 3) ++ pendOf (flags / 256 % 8) (f 6 3)
    done := flags / 2048
    srpos := BitVec.ofNat 64 (f 48 8), srNext := none
    ls := none, va := none, mx := none }

/-- A stream that was not saved. -/
def Stream.unsaved (x : Stream) : Stream := { bankNo := x.bankNo, startAt := x.startAt, sig := x.sig }

/-! ### Tile blocks (03 R93) -/

/-- A barrier's 16 bytes. -/
def barBytes (b : Barrier) : List Byte :=
  let sc := match b.scope with | none => 0 | some .tile => 1 | some .quad => 2 | some .region => 3
  leBytes 4 b.phase.toNat ++ leBytes 4 b.targetA.toNat ++ leBytes 4 b.targetB.toNat ++
    leBytes 4 (b.n % 8192 + 8192 * (b.a % 8192) + 2 ^ 26 * sc + 2 ^ 28 * b.pendA.toNat + 2 ^ 29 * b.pendB.toNat)

def barScopeOf : Nat → Option BarScope
  | 1 => some .tile
  | 2 => some .quad
  | 3 => some .region
  | _ => none

/-- A barrier read back; the sc of its last completion is not in the block. -/
def Barrier.ofBytes (old : Barrier) (bs : List Byte) : Barrier :=
  let f (a : Nat) : Nat := leNat ((bs.drop a).take 4)
  let w := f 12
  { scope := barScopeOf (w / 2 ^ 26 % 4), n := w % 8192, a := w / 8192 % 8192, phase := BitVec.ofNat 32 (f 0)
    lastDone := old.lastDone, targetA := BitVec.ofNat 32 (f 4), targetB := BitVec.ofNat 32 (f 8)
    pendA := decide (w / 2 ^ 28 % 2 = 1), pendB := decide (w / 2 ^ 29 % 2 = 1) }

/-- The pending release arrival of a stream of a tile, if any: its barrier and sc (05 R132). -/
def pendingArr (g : Region) (t : Nat) (b : Bool) : Option (BitVec 7 × Nat) :=
  g.flights.findSome? fun f =>
    match f.what with
    | .arrive n true => if f.tile = t ∧ f.strB = b then some (n, f.due) else none
    | _ => none

/-- The overflow flags of the committed copies. -/
def committedOvf (x : Tile) : Nat :=
  (List.range 8).foldr (fun s acc => (x.ovf.getLsbD (2 * s + (x.accCom.getLsbD s).toNat)).toNat + 2 * acc) 0

/-- The flags of the committed copies put back; the other copies' are read by nothing before a write replaces them
(03 R83). -/
def ovfOf (com : BitVec 8) (flags : Nat) : BitVec 16 :=
  BitVec.ofNat 16 ((List.range 8).foldl (fun a s => a + if flags.testBit s then 2 ^ (2 * s + (com.getLsbD s).toNat) else 0) 0)

def tileBlock (g : Region) (t : Nat) : List Byte :=
  let x := g.tile t
  let pa := pendingArr g t false
  let pb := pendingArr g t true
  let byte (p : Option (BitVec 7 × Nat)) := match p with | some (n, _) => n.toNat + 128 | none => 0
  let sc (p : Option (BitVec 7 × Nat)) := match p with | some (_, d) => d | none => 0
  (x.tl.toList.flatMap fun w => leBytes 8 w.toNat) ++ (x.mb.toList.flatMap fun w => leBytes 8 w.toNat) ++
  leBytes 2 x.j.toNat ++ leBytes 1 x.accCom.toNat ++ leBytes 1 (committedOvf x) ++ leBytes 1 (byte pa) ++ leBytes 1 (byte pb) ++
  leBytes 2 0 ++ leBytes 8 (sc pa) ++ leBytes 8 (sc pb) ++ List.replicate 104 0 ++ (x.bars.toList.flatMap barBytes)

/-- A tile read back from its block; a sync bit that is not live reads zero (03 R74). -/
def Tile.ofBlock (r : SafePt) (x : Tile) (bs : List Byte) : Tile :=
  let f (a n : Nat) : Nat := leNat ((bs.drop a).take n)
  let com := BitVec.ofNat 8 (f 386 1)
  { x with
    tl := Vector.ofFn fun i => BitVec.ofNat 64 (f (8 * i.val) 8)
    mb := Vector.ofFn fun i => BitVec.ofNat 64 (f (256 + 8 * i.val) 8)
    j := BitVec.ofNat 16 (f 384 2) &&& r.j
    accCom := com, accWr := 0, ovf := ovfOf com (f 387 1)
    bars := x.bars.mapFinIdx fun i k _ => k.ofBytes ((bs.drop (512 + 16 * i)).take 16) }

/-- The pending release arrivals a block names: stream, barrier, sc. -/
def arrivalsOf (bs : List Byte) : List (Bool × BitVec 7 × Nat) :=
  let f (a n : Nat) : Nat := leNat ((bs.drop a).take n)
  [(false, 388, 392), (true, 389, 400)].filterMap fun (b, a, d) =>
    if 128 ≤ f a 1 then some (b, BitVec.ofNat 7 (f a 1), f d 8) else none

/-! ### Where the items lie -/

/-- The bytes that hold the region's identity: pattern, mode, record, shape, seed, ordinal; the rest of the 256 bytes is
given by no rule. -/
def Region.saveHeader (g : Region) (fresh : Nat) : List Byte :=
  let named := leBytes 1 g.pat.num ++ leBytes 1 g.pat.split.toNat ++ leBytes 2 g.recId.toNat ++ leBytes 1 g.pat.w ++
    leBytes 1 g.pat.h ++ leBytes 8 g.launch.seed.toNat ++ leBytes 4 g.launch.ordinal.toNat
  named ++ (List.range (256 - named.length)).map fun i => Config.freeByte fresh (named.length + i)

/-- Stream blocks and registers of a tile. -/
def Region.bodyHead (g : Region) (t : Nat) : List PByte :=
  (g.savedStreams t).flatMap fun b =>
    clean (streamBlock (g.ckpt.sc - 1) g.stitch (g.str t b)) ++ (g.str t b).bank.image g.keepRec

def Region.bodyHeadLen (g : Region) (t : Nat) : Nat := (g.savedStreams t).length * (64 + g.keepRec.regLen)

/-- What a tile saves beside its tile block. -/
def Region.bodyLen (g : Region) (t : Nat) : Nat := g.bodyHeadLen t + ((g.liveRuns t).map (·.len)).sum

/-- The size of a saved context (03 R92): every live item counts, written out or not. -/
def Region.saveBytes (g : Region) : Nat :=
  256 + ((List.range g.tiles.length).map fun t => 2560 + g.bodyLen t).sum

/-- A tile block's place: after the header and the fault block's 64 bytes. -/
def blockAt (t : Nat) : Nat := 320 + 2560 * t

/-- The place of a tile's stream blocks, registers and storage. -/
def Region.bodyAt (g : Region) (t : Nat) : Nat :=
  blockAt g.tiles.length + ((List.range t).map g.bodyLen).sum

/-- The live runs of a tile with their places. -/
def placeRuns : Nat → List LiveRun → List (Nat × LiveRun)
  | _, [] => []
  | o, r :: rs => (o, r) :: placeRuns (o + r.len) rs

def Region.placedRuns (g : Region) (t : Nat) : List (Nat × LiveRun) :=
  placeRuns (g.bodyAt t + g.bodyHeadLen t) (g.liveRuns t)

/-- The record of a parked command: tile, counter, tag, completion number (03 R92). -/
def Cmd.record (c : Cmd) : List Byte :=
  leBytes 2 (keyTile c.key) ++ leBytes 1 c.ctr ++ leBytes 1 c.tag.isSome.toNat ++ leBytes 4 ((c.tag.getD 0).toNat) ++ leBytes 8 c.num

def Region.parkedCmds (g : Region) : List Cmd := g.cmds.filter Cmd.parked?

/-- The bytes a save takes up. -/
def Region.saveExtent (g : Region) : Nat := 64 + g.saveBytes + 16 * g.parkedCmds.length

/-- Move past the saves that lie in the way. -/
def stepPast (lo hi len : Nat) (others : List (Nat × Nat)) : Nat → Nat → Nat
  | 0, a => a
  | f + 1, a =>
    let a := if hi < a + len then lo else a
    match others.find? fun o => decide (a < o.1 + o.2 ∧ o.1 < a + len) with
    | some o => stepPast lo hi len others f ((o.1 + o.2 + 63) / 64 * 64)
    | none => a

/-- Where a region's save lies: a 64-byte-aligned place of the region manager's choice, whole within the save area, apart
from the other saves there (18 R426; Assumption 15). -/
def savePlace (p : Part) (others : List (Nat × Nat)) (len r : Nat) : Nat :=
  let lo := (p.conf.saveVa + 63) / 64 * 64
  let hi := p.conf.saveVa + p.conf.saveSize
  stepPast lo hi len others (2 * others.length + 1) (lo + 64 * (Config.savePos r % ((hi - lo - len) / 64 + 1)))

/-! ### Writing and reading -/

/-- Bytes of a partition's HBM4. -/
def State.putLocal (s : State) (p : Part) (a : Nat) (ps : List PByte) : State :=
  { s with hbm := writeLocal (ps.length + 1) s.hbm p.groups a ps }

/-- What a part of a tile that is held in place covers. -/
def HeldTile.covers (h : HeldTile) (r : LiveRun) : Bool :=
  match r.space with
  | .sp => h.banks.contains (r.start / spBank)
  | _ => h.mx

/-- Write held storage of a saved region out to its save. -/
def State.writeOut (s : State) (p : Part) (pos : Nat) (g : Region) (h : HeldTile) : State :=
  (g.placedRuns h.tile).foldl (fun s (o, r) =>
    if h.covers r then s.putLocal p (pos + o) ((List.range r.len).map fun i => (g.tile h.tile).stored r.space (r.start + i))
    else s) s

/-- What a tile's context holds in place: the banks with a live byte, and whether a row, slot or slice is live. -/
def Region.holdsAt (g : Region) (phys t : Nat) : HeldTile :=
  let runs := g.liveRuns t
  { phys := phys, tile := t
    banks := (List.range 32).filter fun k => runs.any fun r => r.space == .sp && decide (r.start / spBank = k)
    mx := runs.any fun r => r.space != .sp }

def HeldTile.nonempty (h : HeldTile) : Bool := !h.banks.isEmpty || h.mx

end Sys2Proof.Machine
end

