-- ==== Sys2Proof/Machine/Ops.lean ====
section
/-! DEFINITION. The shared operations: issuing an operation, what is in flight, registers, scratchpad,
counters, the frog (18 R411), and the taking of a cause by a region (18 R407-R428; 20 R454-R459). -/

namespace Sys2Proof.Machine

abbrev Out := Host.Outcome State Fault Refusal

/-! ### Issuing (19 R429, R431) -/

/-- Why an operation does not act: a precise cause, an event cause of the region met by a read (20 R445), a
result the region must freeze for (02 R38), or a hold of its stream (02 R40), with what the presentation of its
bundle leaves in the region. -/
inductive Stop
  | cause (c : Cause) (va : Nat)
  | event (c : Cause) (va : Nat)
  | freeze (on : Option Raise)
  | hold (g : Region)
  deriving DecidableEq, Repr

/-- Refuse with a precise cause unless the check holds. -/
def need (b : Bool) (c : Cause) : Except Stop Unit := if b then .ok () else .error (.cause c 0)

/-- The same, with the virtual address of the fault (18 R425). -/
def needAt (b : Bool) (c : Cause) (va : Nat) : Except Stop Unit := if b then .ok () else .error (.cause c va)

/-- The sc the region issues in; a rebuild stub runs in a count of its own (02 R52). -/
def Region.now (g : Region) : Nat := if g.stub then g.stubSc else g.sc

/-- Where a stub's own count starts: beyond every sc of a launch's stitch. -/
def stubBase : Nat := 2 ^ 40

/-- A sc has come, on its own count. -/
def isDue (now due : Nat) : Bool := decide (due ≤ now) && (decide (stubBase ≤ now) == decide (stubBase ≤ due))

/-- Record a precise cause of the issue under way (18 R407, R425). -/
def Region.raise (g : Region) (cu : Cursor) (c : Cause) (va : Nat) : Region :=
  { g with raised := g.raised ++ [⟨c, true, cu.t, cu.b, cu.slot, cu.offset.toNat, va, none, none⟩] }

/-- Record an event cause of a tile and stream; slot 7 and offset 0xFFFF_FFFF as mb3 has them (18 R425). -/
def Region.raiseEvent (g : Region) (t : Nat) (b : Bool) (c : Cause) (va : Nat) (ctr cmd : Option Nat) : Region :=
  { g with raised := g.raised ++ [⟨c, false, t, b, 7, 0xFFFF_FFFF, va, ctr, cmd⟩] }

/-- Freeze, or note the parked command that the freeze would wait on (18 R423). -/
def Region.freeze (g : Region) (on : Option Raise) : Region :=
  { g with frozen := match on, g.frozen with
      | some c, _ => .parked c
      | none, .no => .wait 0
      | none, f => f }

/-- Run one operation of the issue under way on its region: it acts, or it raises a cause, or it freezes
the region, or its stream is held. -/
def issueOp (s : State) (f : Cursor → Region → Except Stop Region) : Out :=
  match s.cur with
  | none => .refused .noStream
  | some cu =>
    match s.region? cu.r with
    | none => .refused .noStream
    | some g =>
      let s := { s with fresh := s.fresh + 1 }
      match f cu g with
      | .ok g' => .next (s.setRegion g')
      | .error (.cause c va) => .next (s.setRegion (g.raise cu c va))
      | .error (.event c va) => .next (s.setRegion (g.raiseEvent cu.t cu.b c va none none))
      | .error (.freeze on) => .next (s.setRegion (g.freeze on))
      | .error (.hold g') => .next { s.setRegion g' with cur := some { cu with held := true } }

/-- The stream that issues. -/
def Region.cur (g : Region) (cu : Cursor) : Stream := g.str cu.t cu.b

/-! ### Registers (03 R66, R67) -/

def Bank.getS (k : Bank) : SDst → Val
  | .g n => if n = 0 then {} else k.g[n.toNat]'n.isLt
  | .k n => k.k[n.toNat]'n.isLt

/-- g0 discards writes. -/
def Bank.setS (k : Bank) (d : SDst) (x : Val) : Bank :=
  match d with
  | .g n => if n = 0 then k else { k with g := k.g.set n.toNat x n.isLt }
  | .k n => { k with k := k.k.set n.toNat x n.isLt }

def Bank.getP (k : Bank) (n : BitVec 4) : PredV := if n = 0 then ⟨true, false⟩ else k.p[n.toNat]'n.isLt

def Bank.setP (k : Bank) (n : BitVec 4) (x : PredV) : Bank :=
  if n = 0 then k else { k with p := k.p.set n.toNat x n.isLt }

def Bank.getM (k : Bank) (n : BitVec 3) : MaskV :=
  if n = 0 then ⟨BitVec.allOnes 32, false⟩ else k.m[n.toNat]'n.isLt

def Bank.setM (k : Bank) (n : BitVec 3) (x : MaskV) : Bank :=
  if n = 0 then k else { k with m := k.m.set n.toNat x n.isLt }

def Bank.getMx (k : Bank) (col : Bool) (n : BitVec 2) : Val :=
  if n = 0 then ⟨BitVec.allOnes 64, false⟩
  else if col then k.mc[n.toNat]'n.isLt else k.mr[n.toNat]'n.isLt

def Bank.setMx (k : Bank) (col : Bool) (n : BitVec 2) (x : Val) : Bank :=
  if n = 0 then k
  else if col then { k with mc := k.mc.set n.toNat x n.isLt } else { k with mr := k.mr.set n.toNat x n.isLt }

def Bank.getV (k : Bank) (n : BitVec 5) : VReg := k.v[n.toNat]'n.isLt

def Bank.setV (k : Bank) (n : BitVec 5) (x : VReg) : Bank := { k with v := k.v.set n.toNat x n.isLt }

def Bank.getTb (k : Bank) (n : BitVec 5) : Val := k.tb[n.toNat]'n.isLt

def Bank.setTb (k : Bank) (n : BitVec 5) (x : Val) : Bank := { k with tb := k.tb.set n.toNat x n.isLt }

def Bank.getH (k : Bank) (n : BitVec 4) : Option Handle := k.h[n.toNat]'n.isLt

def Bank.setH (k : Bank) (n : BitVec 4) (x : Option Handle) : Bank := { k with h := k.h.set n.toNat x n.isLt }

def Latches.get (l : Latches) : Latch → Val
  | .la0 => l.la0 | .la1 => l.la1 | .lm => l.lm | .lv => l.lv | .lx => l.lx

def Latches.set (l : Latches) (n : Latch) (x : Val) : Latches :=
  match n with
  | .la0 => { l with la0 := x } | .la1 => { l with la1 := x } | .lm => { l with lm := x }
  | .lv => { l with lv := x } | .lx => { l with lx := x }

def Bank.setLa (k : Bank) (n : Option Latch) (x : Val) : Bank :=
  match n with
  | none => k
  | some n => { k with la := k.la.set n x }

/-- Numbers built bit by bit, bit 0 first. -/
def bvOf (n : Nat) (f : Nat → Bool) : BitVec n :=
  BitVec.ofNat n ((List.range n).foldr (fun i acc => (if f i then 1 else 0) + 2 * acc) 0)

/-- Bits [32l + 31 : 32l]. -/
def laneOf (x : BitVec 1024) (l : Nat) : BitVec 32 := x.extractLsb' (32 * l) 32

/-- Write the bits of `wr`; a lane written with clean data in every bit loses its poison (20 R441). -/
def VReg.write (v : VReg) (bits wr : BitVec 1024) (bad : BitVec 32) : VReg where
  bits := (v.bits &&& ~~~wr) ||| (bits &&& wr)
  bad := bvOf 32 fun l =>
    let m := laneOf wr l
    if m = 0 then v.bad.getLsbD l else if bad.getLsbD l then true
    else if m = BitVec.allOnes 32 then false else v.bad.getLsbD l

/-- A mask register is one item of poison (20 R441). -/
def MaskV.write (m : MaskV) (bits wr : BitVec 32) (bad : Bool) : MaskV where
  bits := (m.bits &&& ~~~wr) ||| (bits &&& wr)
  bad := if wr = 0 then m.bad else if bad then true else if wr = BitVec.allOnes 32 then false else m.bad

/-! ### Results in flight (02 R37; 07 R178, R179) -/

/-- Put an effect in flight that takes effect in a given sc. -/
def Region.flyAt (g : Region) (cu : Cursor) (due : Nat) (w : Flight) : Region :=
  { g with flights := g.flights ++ [⟨due, g.now, orderKey g.now cu.t cu.b cu.slot, cu.t, cu.b, w⟩] }

/-- Put an effect in flight: it lands `lat` sc after the issue. -/
def Region.fly (g : Region) (cu : Cursor) (lat : Nat) (w : Flight) : Region := g.flyAt cu (g.now + lat) w

/-- L of the arrive-after-store rule (05 R118): the latest performing sc of the scratchpad stores the stream issued in an
earlier sc, of those not yet performed. -/
def Region.lastStore (g : Region) (t : Nat) (b : Bool) : Nat :=
  g.flights.foldl (fun m f =>
    match f.what with
    | .store .. => if f.tile = t ∧ f.strB = b ∧ f.iss < g.now then max m f.due else m
    | _ => m) 0

/-- The latch a scalar slot writes (03 R62). -/
def slotLatch (slot : Nat) : Option Latch := if slot = 0 then some .la0 else if slot = 1 then some .la1 else none

/-- An ATOMR before its commit: its result belongs to the stitch that its commit begins, and lands after everything
of its own (09 R236, R237). -/
def Await.uncommitted (a : Await) : Bool := a.kind == .atomr && decide (a.due = 0)

/-- An awaited result lands before the write with this sc and place in the order. -/
def Await.landsBefore (a : Await) (due key : Nat) : Bool :=
  !a.uncommitted && (decide (a.due < due) || (decide (a.due = due) && decide (a.key < key)))

/-- A write to a destination or to lm takes the place of a result still awaited there (03 R62, 07 R179). -/
def Await.superseded (a : Await) (f : Fly) (d : Option SDst) (lm : Bool) : Await :=
  if a.tile = f.tile ∧ a.strB = f.strB ∧ a.landsBefore f.due f.key then
    { a with live := a.live && !(d.isSome && a.dst == d), latch := a.latch && !lm }
  else a

def Fly.dstOf (f : Fly) : Option SDst × Bool :=
  match f.what with
  | .scalar d la _ => (d, la == some .lm)
  | _ => (none, false)

/-- What a register-destined entry does to the bank (09, 10, 11). -/
def Flight.apply (w : Flight) (k : Bank) : Bank :=
  match w with
  | .scalar d la x => (match d with | some d => k.setS d x | none => k).setLa la x
  | .pred d la x => (k.setP d x).setLa (some la) ⟨BitVec.ofNat 64 x.bit.toNat, x.bad⟩
  | .mask d bits wr bad => k.setM d ((k.getM d).write bits wr bad)
  | .vec d bits wr bad => k.setV d ((k.getV d).write bits wr bad)
  | .mxmask c d x => k.setMx c d x
  | .tb d x => k.setTb d x
  | .handle n h => k.setH n (some h)
  | _ => k

def Flight.isReg : Flight → Bool
  | .scalar .. | .pred .. | .mask .. | .vec .. | .mxmask .. | .tb .. | .handle .. => true
  | _ => false

def Cmd.tile (c : Cmd) : Nat := keyTile c.key

/-- The slots stream B executes itself in twin mode: A0, A1 and CT (02 R43). -/
def twinSlot (slot : Nat) : Bool := slot == 0 || slot == 1 || slot == 6

/-- Which results reach stream B's copies in twin mode as stream A received them, 2 sc later: load data, replies, and
what the vector unit returns to a scalar register or a lane mask (02 R43; Assumption 59). -/
def Fly.toTwin (f : Fly) : Bool :=
  match f.what with
  | .scalar .. | .pred .. | .mask .. => !twinSlot (keySlot f.key)
  | _ => false

/-- Land one register result. -/
def Region.landReg (g : Region) (f : Fly) : Region :=
  let (d, lm) := f.dstOf
  let g := g.modStr f.tile f.strB fun x => { x with bank := f.what.apply x.bank }
  { g with
    flights := g.flights.erase f ++
      (if !g.pat.split && !f.strB && f.toTwin then [{ f with due := f.due + 2, strB := true }] else [])
    awaits := g.awaits.map fun a => a.superseded f d lm }

/-! ### Results awaited from wall time (02 R38; 09 R228; 19 R437) -/

/-- An awaited result is due and has not landed. -/
def Await.missing (a : Await) (now : Nat) : Bool := isDue now a.due && !a.landed

/-- What a read meets at an awaited result: the region freezes, or the refusal's cause is raised. -/
def Await.block (a : Await) : Except Stop Unit :=
  match a.st with
  | .waiting => .error (.freeze none)
  | .refused c va => .error (.cause c va)
  | _ => .ok ()

def Region.firstMissing (g : Region) (t : Nat) (b : Bool) (p : Await → Bool) : Except Stop Unit :=
  match g.awaits.find? fun a => a.tile = t && a.strB == b && a.missing g.now && p a with
  | none => .ok ()
  | some a => a.block

def Region.ready (g : Region) (t : Nat) (b : Bool) (d : SDst) : Except Stop Unit :=
  g.firstMissing t b fun a => a.live && a.dst == some d

def Region.readyLm (g : Region) (t : Nat) (b : Bool) : Except Stop Unit := g.firstMissing t b fun a => a.latch

def Region.readyH (g : Region) (t : Nat) (b : Bool) (h : BitVec 4) : Except Stop Unit :=
  g.firstMissing t b fun a => a.live && a.hnd == some h

/-- The value an awaited result delivers: destination and lm, or the handle. -/
def Await.deliver (a : Await) (k : Bank) : Bank :=
  match a.st with
  | .value x =>
    let k := match a.dst with | some d => if a.live then k.setS d x else k | none => k
    if a.latch then k.setLa (some .lm) x else k
  | .handle h =>
    match a.hnd with
    | some n => if a.live then k.setH n (some h) else k
    | none => k
  | _ => k

/-- What an awaited result delivers, as results in flight: so it reaches stream B. -/
def Await.flights (a : Await) : List Flight :=
  match a.st with
  | .value x => [.scalar (if a.live then a.dst else none) (if a.latch then some .lm else none) x]
  | .handle h => match a.hnd with
    | some n => if a.live then [.handle n h] else []
    | none => []
  | _ => []

/-- Land an awaited result that has arrived; in twin mode it reaches stream B 2 sc later (02 R43). An ATOMR's is kept
until the next commit (09 R237). A later XLATE to the same handle register takes the place of an earlier one. -/
def Region.landAwait (g : Region) (a : Await) : Region :=
  let put (k : Bank) := a.deliver k
  let g := g.modStr a.tile a.strB fun x => { x with bank := put x.bank }
  let twin : List Fly := a.flights.map fun w => ⟨g.now + 2, g.now, a.key, a.tile, true, w⟩
  let g := if g.pat.split then g else { g with flights := g.flights ++ twin }
  let older (x : Await) : Await :=
    if x.id ≠ a.id ∧ x.tile = a.tile ∧ x.strB = a.strB ∧ x.landsBefore a.due a.key then
      { x with live := x.live && !((a.dst.isSome && x.dst == a.dst) || (a.hnd.isSome && x.hnd == a.hnd))
               latch := x.latch && !a.latch }
    else x
  let keep := a.kind = .atomr
  let now := g.awaits.map fun x => if x.id = a.id then { x with landed := true } else older x
  { g with awaits := now.filter fun x => decide (x.id ≠ a.id) || decide keep }

/-- Land every awaited result that is due and has arrived, in the order of their due sc. -/
def Region.landArrived (g : Region) : Region :=
  let arrived (a : Await) : Bool := a.missing g.now && (match a.st with | .value _ | .handle _ => true | _ => false)
  (g.awaits.filter arrived).foldl (fun g a =>
    match g.awaits.find? fun x => x.id = a.id with
    | some x => g.landAwait x
    | none => g) g

/-! ### Scratchpad, with its unspecified bytes (03 R74, R75; 05 R138) -/

def Range.has (r : Range) (bstack : Bool) (t a : Nat) : Bool :=
  r.bstack == bstack && decide (r.tile = t) && decide (r.start ≤ a) && decide (a < r.start + r.len)

def Region.unacquired (g : Region) (bstack : Bool) (t a : Nat) : Bool :=
  g.unacq.any fun u => match u.range with | some r => r.has bstack t a | none => false

def Region.spByte (g : Region) (fresh t a : Nat) : PByte :=
  let x := g.tile t
  let (b, bad) := x.sp.pbyte spGran a
  match x.freeAt .sp a with
  | some v => (v, bad)
  | none => if g.unacquired false t a then (Config.freeByte fresh a, bad) else (b, bad)

def Region.spRead (g : Region) (fresh t a n : Nat) : List PByte :=
  (List.range n).map fun i => g.spByte fresh t (a + i)

/-- Whether a read meets poison in a clean-filled segment (20 R445). -/
def Tile.cleanHit (x : Tile) (a n : Nat) : Bool :=
  (List.range n).any fun i => natMem x.sp.bad ((a + i) / spGran) && x.clean.any fun c => c.seg = (a + i) / 4096

/-- The address of the first segment in which it does. -/
def Tile.hitSeg (x : Tile) (a n : Nat) : Nat :=
  (((List.range n).find? fun i => natMem x.sp.bad ((a + i) / spGran) && x.clean.any fun c => c.seg = (a + i) / 4096).map
    fun i => (a + i) / 4096 * 4096).getD 0

/-- Cut the written bytes out of the free ranges. -/
def cutFree (z : Space) (a n : Nat) (fs : List FreeRange) : List FreeRange :=
  fs.flatMap fun f =>
    if f.space ≠ z ∨ f.start + f.len ≤ a ∨ a + n ≤ f.start then [f]
    else (if f.start < a then [{ f with len := a - f.start }] else []) ++
      (if a + n < f.start + f.len then [{ f with start := a + n, len := f.start + f.len - (a + n) }] else [])

/-- Write scratchpad bytes and clear the clean-fill bit of every segment written (03 R79). -/
def Tile.spWrite (x : Tile) (a : Nat) (ps : List PByte) : Tile :=
  if ps.isEmpty then x else
  { x with
    sp := x.sp.write spGran a ps
    free := cutFree .sp a ps.length x.free
    clean := x.clean.filter fun c => !(decide (a / 4096 ≤ c.seg) && decide (c.seg ≤ (a + ps.length - 1) / 4096)) }

/-- An engine command, other than the one given, has written the byte, and what is done now is not ordered after it
(05 R133, R138). -/
def Region.engWrote (g : Region) (bstack : Bool) (me : Option (Nat × Nat)) (t a : Nat) : Bool :=
  g.unacq.any fun u => me != some (u.ctr, u.num) && (match u.range with | some r => r.has bstack t a | none => false) &&
    (match g.cmds.find? fun c => c.tile * 32 + c.ctr = u.ctr && c.num = u.num with
     | some c => c.wrote.any fun r => r.has bstack t a
     | none => true)

/-- A byte that two writes not ordered against each other reach ends holding one of the two values (05 R138). -/
def mixBytes (fresh a : Nat) (both : Nat → Bool) (old new : List PByte) : List PByte :=
  if (List.range new.length).any fun i => both (a + i) then
    (new.zip old).mapIdx fun i (n, o) => if both (a + i) && (Config.freeByte fresh (a + i)).getLsbD 0 then o else n
  else new

/-- A write by the region, remembered by the engine commands that are still to read or write there (05 R138). -/
def Region.spWrite (g : Region) (fresh t a : Nat) (ps : List PByte) : Region :=
  let ps := mixBytes fresh a (g.engWrote false none t) ((g.tile t).sp.read spGran a ps.length) ps
  let g := g.modTile t fun x => x.spWrite a ps
  { g with cmds := g.cmds.map fun c =>
      if c.st = .gated then c else { c with touched := ⟨false, t, a, ps.length⟩ :: c.touched } }

/-! ### Timeline counters (12 R310; 02 R50) -/

/-- Raise the counter past every number counted in turn. -/
def advance : Nat → List (Nat × Nat) → Nat → Word → Word × List (Nat × Nat)
  | 0, l, _, v => (v, l)
  | f + 1, l, ctr, v =>
    if l.contains (ctr, v.toNat + 1) then advance f (l.erase (ctr, v.toNat + 1)) ctr (v + 1) else (v, l)

/-- Count a completion number. -/
def Tile.count (x : Tile) (ctr num : Nat) : Tile :=
  let l := (ctr, num) :: x.counted
  let (v, l) := advance (l.length + 1) l ctr (x.tl[ctr]?.getD 0)
  { x with tl := x.tl.setIfInBounds ctr v, counted := l }

/-- Add to a counter. -/
def Tile.bump (x : Tile) (ctr amt : Nat) : Tile :=
  { x with tl := x.tl.setIfInBounds ctr (x.tl[ctr]?.getD 0 + BitVec.ofNat 64 amt) }

/-- Add to a counter of the region's own clock: it consumes as many numbers (09 R249; 11 R287). -/
def Tile.inc (x : Tile) (ctr amt : Nat) : Tile :=
  { x.bump ctr amt with
    used := x.used.setIfInBounds ctr (x.used[ctr]?.getD 0 + amt) }

/-- The target of a wait and the counter: v := base + delta. -/
def Tile.counter (x : Tile) (n : Nat) : Word := x.tl[n]?.getD 0

/-- Acquire every operation with a number of v or less (05 R133). -/
def Region.acquire (g : Region) (t ctr : Nat) (v : Word) : Region :=
  { g with unacq := g.unacq.filter fun u =>
      !(decide (u.ctr = t * 32 + ctr) && decide (u.num ≤ v.toNat)) }

/-! ### The frog (18 R411; 02 R50; 11 R304; 12 R328) -/

/-- One write of a completing matrix command. -/
def Region.mxWrite (g : Region) (fresh t : Nat) (w : MxWrite) : Region :=
  if w.tm then
    g.modTile t fun x => { x with tm := x.tm.write tmGran w.addr w.data, free := cutFree .tm w.addr w.data.length x.free }
  else g.spWrite fresh t w.addr w.data

/-- The writes of a completing matrix command, which are one operation's (20 R441). -/
def Region.mxWrites (g : Region) (fresh t : Nat) (ws : List MxWrite) : Region :=
  let parts := (ws.filter fun w => !w.tm).map fun w => (w.addr, w.data)
  (ws.foldl (fun g w => g.mxWrite fresh t w) g).modTile t fun x => { x with sp := x.sp.heal spGran parts }

/-- Started matrix commands run to completion and count; the others are cancelled (11 R304). Their scratchpad writes are
writes like any other to the engine commands that are outstanding (12 R318). -/
def Region.frogMx (g : Region) (fresh : Nat) : Region :=
  (List.range g.tiles.length).foldl (fun g t =>
    (((g.tile t).mxq.filter (·.started)).foldl (fun g c =>
      (g.mxWrites fresh t c.out).modTile t fun x => x.inc (if c.sig then 21 else 20) 1) g).modTile t fun x =>
        { x with mxq := [], mxLast := none }) g

/-- What the checkpoint gives a stream back: latches and handles clear, sticky slots inactive, the bases raised by
the numbers consumed since the checkpoint. -/
def restoreStream (used : Vector Nat 32) (ck : Stream) : Stream :=
  { ck with
    bank := { ck.bank with
      la := {}, h := Vector.replicate 16 none
      tb := ck.bank.tb.mapFinIdx fun i v _ => ⟨v.bits + BitVec.ofNat 64 (used[i]?.getD 0), v.bad⟩ }
    ls := none, va := none, mx := none
    presented := none, waitFrom := none, arrived := false, srNext := none }

/-- The shadow parameters' reset value (11 R289). -/
def mpReset : Vector Val 8 := (Vector.replicate 8 {}).set 5 ⟨0x9, false⟩

def dsReset : Vector (Vector Val 8) 16 := Vector.replicate 16 (Vector.replicate 8 {})

def Tile.frog (x : Tile) (stitch : Nat) (ck : TileCk) : Tile :=
  { x with
    accWr := 0, byp := none, bypFmt := none, mp := mpReset, ds := dsReset
    j := ck.j, bars := ck.bars
    a := restoreStream x.used ck.a, b := restoreStream x.used ck.b
    twinBad := false, dataBad := false, mxBad := false
    order := x.order.filter fun o => o.stitch ≠ stitch }

/-- Whether an open-stitch command goes on at a frog, given the earlier outstanding commands of its context, `n` of
which the engine had started. Commands of one context start in number order, so none starts behind one that is still
gated, and table loads run one at a time (12 R310). -/
def Cmd.goesOn (c : Cmd) (before : List Cmd) (n : Nat) : Bool :=
  match c.st with
  | .started => true
  | .sent => !before.any (fun x => x.st == .gated) && decide (before.length < n) && (c.ctr != 22 || before.isEmpty)
  | _ => false

/-- The open stitch's engine commands: gated and parked ones, and those not started, are cancelled and counted;
started ones go on, and are dead to the region (12 R328). `pick` says how many of a context's commands had
started; `seen` are the commands met before. -/
def frogCmds (stitch : Nat) (pick : Nat → Nat) : List Cmd → List Cmd → List Tile → List Cmd × List Tile
  | [], _, ts => ([], ts)
  | c :: cs, seen, ts =>
    if c.stitch ≠ stitch ∨ c.dead then
      let (r, ts) := frogCmds stitch pick cs (c :: seen) ts
      (c :: r, ts)
    else if c.goesOn (seen.filter fun x => x.tile = c.tile && x.ctr = c.ctr) (pick (c.tile * 32 + c.ctr)) then
      let (r, ts) := frogCmds stitch pick cs (c :: seen) ts
      ({ c with st := .started, dead := true } :: r, ts)
    else frogCmds stitch pick cs (c :: seen) (ts.modify c.tile fun x => x.count c.ctr c.num)

/-- Stub mode: each running stream runs the stub first, on its own count of sc (02 R52). -/
def Stream.toStub (x : Stream) (off : Nat) : Stream :=
  if x.running then
    { x with resumeAt := some (x.pc, x.skip, x.done, x.pend), pc := BitVec.ofNat 64 off, skip := false, pend := [], done := 0 }
  else x

def Region.enterStub (g : Region) : Region :=
  match (g.pat.rec? g.recId).bind (·.stub) with
  | none => g
  | some off =>
    { g with
      stub := true, stubSc := stubBase
      tiles := g.tiles.map fun x =>
        { x with a := x.a.toStub off, b := if g.pat.split then x.b.toStub off else x.b } }

/-- An effect of a committed stitch that the frog must keep: register results and arrivals of the checkpoint, and
stores, samples and increments that have not taken effect. -/
def keepFly (cur : List Fly) (f : Fly) : Bool :=
  match f.what with
  | .store .. | .inc .. => cur.contains f
  | _ => true

/-- A commit under way has been applied: what is left of it is the freeze of a MARK.D (09 R241). -/
def Region.applied (g : Region) : Bool :=
  g.committing != .none && !g.tiles.any fun x => x.a.presented.isSome || x.b.presented.isSome

/-- Take a region back to its checkpoint. The freeze of a MARK.D whose commit has been applied goes on (05 R131). -/
def Region.frog (g : Region) (pick : Nat → Nat) (fresh : Nat) : Region :=
  let g := g.frogMx fresh
  let (cmds, tiles) := frogCmds g.stitch pick g.cmds [] g.tiles
  let gone := (g.cmds.filter fun c => !cmds.any fun x => x.id = c.id).map fun c => (c.tile * 32 + c.ctr, c.num)
  { g with
    tiles := tiles.zipWith (fun x ck => x.frog g.stitch ck) g.ckpt.tiles
    cmds := cmds
    unacq := g.unacq.filter fun u => !gone.contains (u.ctr, u.num)
    items := g.items.filter (·.released)
    flights := g.ckpt.flights.filter (keepFly g.flights)
    awaits := g.ckpt.awaits.map fun a =>
      match g.awaits.find? fun x => x.id = a.id with
      | some x => { a with st := x.st }
      | none => a
    sc := g.ckpt.sc, gaugeN := 0, stub := false, stubSc := 0
    raised := [], frozen := .no, committing := if g.applied then g.committing else .none
    finalDone := false, endEffs := [] }

/-- After the frog of a replay or of a release from a park: the stitch's first bundle is next, after the stub where
the region has resumed since its last commit (18 R411). -/
def Region.reenter (g : Region) : Region :=
  let g := { g with status := .running }
  if g.ckpt.resumed then g.enterStub else g

/-! ### Suspect scores (20 R457-R459) -/

def Dev.score (d : Dev) (q : Nat) : Nat := (d.scores.lookup q).getD 0

def Dev.setScore (d : Dev) (q n : Nat) : Dev := { d with scores := (q, n) :: d.scores.filter fun x => x.1 ≠ q }

def bit576 (m : BitVec 576) (q : Nat) : Bool := m.getLsbD q

def Dev.usable (d : Dev) (q : Nat) : Bool := bit576 d.good q && !bit576 d.quar q

/-- Some die has fewer than 136 good, unquarantined quads (20 R459). -/
def Dev.short (d : Dev) : Bool :=
  (List.range 4).any fun die =>
    decide (((List.range 576).filter fun q => dieOf q = die && d.usable q).length < 136)

/-- Set the replacement request where it is due. -/
def State.checkShort (s : State) : State :=
  if !s.dev.replace && s.dev.short then
    ({ s with dev := { s.dev with replace := true } } : State).recordPf 0xFFFF { code := 0x322, kind := 4 }
  else s

/-- The quad of a physical tile. -/
def physQuadOf (n : Nat) : Nat := quadOf (n % 48, n / 48)

/-- A saved region's storage that is to leave is written out, and its record notes it (13 R355). -/
def State.releaseHeld (s : State) (g : Region) (out : HeldTile → HeldTile) : State :=
  match g.saved, s.part? g.launch.part with
  | some v, some p =>
    let keep (h : HeldTile) : HeldTile :=
      let o := out h
      { h with banks := h.banks.filter fun b => !o.banks.contains b, mx := h.mx && !o.mx }
    let s := v.held.foldl (fun s h => s.writeOut p v.pos g (out h)) s
    s.setRegion { g with saved := some { v with held := (v.held.map keep).filter HeldTile.nonempty } }
  | _, _ => s

/-- What saved regions hold in place on a quad is written out (14 R373). -/
def State.emptyQuad (s : State) (q : Nat) : State :=
  s.regions.foldl (fun s g => s.releaseHeld g fun h => if physQuadOf h.phys = q then h else { h with banks := [], mx := false }) s

/-- Take a quad out of placement: its regions are pre-empted at their next commit, lent state is reclaimed, the
notice is written in the owner's ring (20 R458). -/
def State.quarantine (s : State) (q : Nat) : State :=
  let regions : List Region :=
    s.regions.map fun g =>
      if g.onTiles && g.quads.contains q then
        { g with preempt := true, reclaimAt := if s.lent.any (fun l => l.quad = q) then some s.dev.wall else g.reclaimAt }
      else g
  let lent : List Lent := s.lent.map fun l => if l.quad = q then { l with back := true } else l
  let isLent := s.lent.any fun l => l.quad = q
  let s := { s with dev := { s.dev with quar := s.dev.quar ||| (1#576 <<< q) }, regions := regions, lent := lent }
  let s := if isLent then s.emptyQuad q else s
  let owner := s.parts.find? fun p => p.conf.guaranteed.contains q || p.conf.margin.contains q
  let e : Event := { code := 0x321, kind := 4, quad := q }
  let s := match owner with
    | some p => s.notice p.conf.num e
    | none => s.recordPf 0xFFFF e
  s.checkShort

/-- Raise a quad's suspect score, saturating at 255; 16 quarantines it. -/
def State.suspect (s : State) (q n : Nat) : State :=
  let v := min 255 (s.dev.score q + n)
  let s := { s with dev := s.dev.setScore q v }
  if 16 ≤ v ∧ !bit576 s.dev.quar q then s.quarantine q else s

/-! ### Freeing, saving, killing (13 R354; 18 R416) -/

/-- The banks of a region's tiles become idle and wait for the clear engine (03 R72). -/
def bankJobs (g : Region) : List BankJob :=
  (List.range g.tiles.length).flatMap fun t =>
    let (x, y) := g.phys t
    [⟨x, y, false, (g.tile t).a.bankNo⟩, ⟨x, y, true, (g.tile t).b.bankNo⟩]

/-- mb3 (18 R425). -/
def Raise.mb3 (ra : Raise) : Nat := ra.tile + 2 ^ 16 * ra.strB.toNat + 2 ^ 17 * ra.slot + 2 ^ 32 * (ra.offset % 2 ^ 32)

/-- A handler's mailboxes mb0 to mb5 (18 R425). -/
def handlerMail (g : Region) (ra : Raise) (block : Nat) : List Word :=
  [BitVec.ofNat 64 (ra.cause + 2 ^ 16 * (g.reentry % 16) + 2 ^ 32 * g.launch.gen.toNat),
   BitVec.ofNat 64 (g.launch.queue + 2 ^ 8 * g.pat.num + 2 ^ 32 * g.launch.ordinal.toNat),
   BitVec.ofNat 64 ra.va, BitVec.ofNat 64 ra.mb3, BitVec.ofNat 64 (g.stitch % 2 ^ 32), BitVec.ofNat 64 block]

/-- The fault block (18 R426): disposition 0, mb0 to mb5. -/
def faultBlock (mail : List Word) : List Byte :=
  List.replicate 8 0 ++ mail.flatMap (fun w => leBytes 8 w.toNat) ++ List.replicate 8 0

/-- The saves of other regions of the partition: where they lie and how long they are. -/
def State.otherSaves (s : State) (g : Region) : List (Nat × Nat) :=
  (s.regions.filter fun x => x.launch.part = g.launch.part && x.rid ≠ g.rid).filterMap fun x => x.saved.map fun v => (v.pos, v.len)

/-- Write the context out at a place (13 R354; 18 R422, R426): header, tile blocks, stream blocks and live registers,
parked commands and, for an interrupted region, the fault block directly after the header. -/
def State.writeSave (s : State) (p : Part) (g : Region) (ra : Option Raise) (pos : Nat) : State :=
  let ts := List.range g.tiles.length
  let s := s.putLocal p pos (clean (g.saveHeader s.fresh))
  let s := ts.foldl (fun s t => s.putLocal p (pos + blockAt t) (clean (tileBlock g t))) s
  let s := ts.foldl (fun s t => s.putLocal p (pos + g.bodyAt t) (g.bodyHead t)) s
  let s := s.putLocal p (pos + 64 + g.saveBytes) (clean (g.parkedCmds.flatMap Cmd.record))
  match ra with
  | none => s
  | some ra => s.putLocal p (pos + 256) (clean (faultBlock (handlerMail g ra (pos + 256))))

/-- What a saved region would hold in place, and of that what must be written out at once: what lies on a quad that is
on its way back to its owner (14 R373). -/
def State.toHold (s : State) (g : Region) : List HeldTile × List HeldTile :=
  let all := if g.finalDone then [] else
    ((List.range g.tiles.length).map fun t => g.holdsAt ((g.phys t).2 * 48 + (g.phys t).1) t).filter HeldTile.nonempty
  let back (h : HeldTile) : Bool := s.lent.any fun l => l.back && l.quad = physQuadOf h.phys
  (all.filter fun h => !back h, all.filter back)

/-- Mailbox n of every tile. -/
def Region.setMail (g : Region) (n : BitVec 4) (v : Word) : Region :=
  { g with tiles := g.tiles.map fun x => { x with mb := x.mb.set n.toNat v n.isLt } }

/-- Every mailbox write not yet applied. -/
def Region.applyMail (g : Region) : Region :=
  let g' := g.mailPend.foldl (fun g p => g.setMail p.1 p.2) g
  { g' with mailPend := [] }

/-- The value of an ATOMR that a save waits for (09 R237). -/
def Await.outstanding (a : Await) : Bool := a.kind == .atomr && a.st == .waiting

/-- The save of a region at its checkpoint: its place and what it holds; a region saved before keeps both. -/
def State.saveNow (s : State) (p : Part) (g : Region) (ra : Option Raise) : State :=
  let pos := savePlace p (s.otherSaves g) g.saveExtent g.rid
  let (keep, out) := s.toHold g
  let v : Saved := g.saved.getD ⟨pos, g.saveExtent, s.dev.wall, keep, []⟩
  let s := s.writeSave p g ra v.pos
  let s := if g.saved.isSome then s else out.foldl (fun s h => s.writeOut p v.pos g h) s
  let g' := { g with
    status := match ra with | none => .saved | some c => .interrupted c
    preempt := false, reclaimAt := none, frozen := .no
    saved := some v
    handler := match ra, g.handler with
      | some _, some h => some { h with block := v.pos + 256 }
      | _, h => h }
  { s.setRegion g' with jobs := s.jobs ++ (if g.finalDone || g.saved.isSome then [] else bankJobs g), fresh := s.fresh + 1 }

/-- Finish a save: every command is counted or parked (13 R354), every ATOMR's value or refusal is known (09 R237). A
launch past its final commit holds nothing on tiles any more. -/
def State.trySave (s : State) (r : Nat) : State :=
  match s.region? r with
  | none => s
  | some g =>
    match g.status, s.part? g.launch.part with
    | .saving ra, some p =>
      if g.cmds.all (·.parked?) && !g.awaits.any Await.outstanding then s.saveNow p g.applyMail ra else s
    | _, _ => s

/-- Begin a save at the checkpoint the region stands at. -/
def State.startSave (s : State) (r : Nat) (ra : Option Raise) : State :=
  match s.region? r with
  | none => s
  | some g =>
    let park := match g.status, ra with
      | .parked c, none => some c
      | _, none => g.park
      | _, some _ => none
    (s.setRegion { g with status := .saving ra, frozen := .no, park := park }).trySave r

/-- The instances of one launch share queue, node and ordinal (13 R357). -/
def sameLaunch (a b : Region) : Bool :=
  a.launch.part = b.launch.part ∧ a.launch.queue = b.launch.queue ∧ a.launch.node = b.launch.node ∧
    a.launch.ordinal = b.launch.ordinal

/-- Requests to peers that a frog or the end of a launch drops stay outstanding (20 R450; 21 R468); the last one to each
device is remembered. -/
def State.dropReqs (s : State) (g : Region) (as : List Await) : State :=
  let mine := as.filterMap fun a =>
    match a.st, a.page with
    | .waiting, some p =>
      if p.target == .peer then some (⟨p.dev, a.addr, g.launch.ordinal.toNat, a.tile⟩ : Dropped) else none
    | _, _ => none
  if mine.isEmpty then s else
  s.modPart g.launch.part fun p =>
    { p with dropped := mine.foldl (fun l d => d :: l.filter fun x => x.dev ≠ d.dev) p.dropped }

/-- Parked commands of committed stitches are discarded with their items, never performed and never counted. -/
def Region.discardParked (g : Region) : Region :=
  let ids := g.parkedCmds.map (·.id)
  { g with
    cmds := g.cmds.filter fun x => !x.parked?
    items := g.items.filter fun i => !ids.contains i.id
    tiles := g.tiles.map fun x => { x with order := x.order.filter fun e => !ids.contains e.id } }

/-- Put an end to one instance; the context's banks go to the clear engine (18 R416). -/
def State.endRegion (s : State) (g : Region) (c : Cause) : State :=
  let s := s.leaveReqs g.launch.part (Asker.ofRegion g.rid)
  let jobs := if g.onTiles then bankJobs g else []
  { s.setRegion { g.discardParked with
      status := .killed c, failed := some c, frozen := .no, raised := [], preempt := false, saved := none }
    with jobs := s.jobs ++ jobs }

/-- A handler's kill kills the launch it handles, with that launch's own cause (18 R426). -/
def State.killInterrupted (s : State) (g : Region) : State :=
  match (g.handler.bind (·.region)).bind s.region? with
  | some g' =>
    match g'.status with
    | .interrupted ra => s.endRegion g' ra.cause
    | _ => s
  | none => s

/-- One instance of a launch leaves the device. -/
def State.leave (s : State) (x : Region) : State :=
  ({ s with jobs := s.jobs ++ (if x.onTiles then bankJobs x else []) } : State).dropRegion x.rid

/-- Kill a launch: the region's other instances go with the primary, but what a re-run has released goes on; a shadow alone
leaves the primary to finish by itself (18 R414, R416). -/
def State.kill (s : State) (r : Nat) (c : Cause) : State :=
  match s.region? r with
  | none => s
  | some g =>
    match g.role with
    | .shadow =>
      let s := (s.leaveReqs g.launch.part (Asker.ofRegion r)).leave g
      { s with regions := s.regions.map fun x => if sameLaunch x g ∧ x.role = .primary then { x with role := .single } else x }
    | .primary =>
      let others := s.regions.filter fun x => sameLaunch x g && x.rid ≠ r
      let s := others.foldl (fun s x => if x.role = .rerun then s.endRegion x c else s.leave x) s
      (s.endRegion g c).killInterrupted g
    | .third => s.endRegion g c
    | .rerun =>
      let s := s.endRegion g c
      match s.regions.find? fun x => sameLaunch x g && x.role = .primary with
      | some p => (s.setRegion { p with status := .killed c, failed := some c, verdict := .none }).killInterrupted p
      | none => s
    | .single => (s.endRegion g c).killInterrupted g

/-! ### Taking a cause (18 R407-R412, R424) -/

/-- The record of a cause against a region (20 R461). -/
def State.recordCause (s : State) (g : Region) (ra : Raise) (a : Action) (fixed notify : Bool) : State :=
  s.record g.launch.part notify
    { code := ra.cause, kind := if ra.ctr.isSome then 1 else 0, byte5 := a.code + 4 * fixed.toNat, quad := g.physQuad ra.tile
      va := ra.va, ordinal := g.launch.ordinal.toNat, where_ := ra.tile + 2 ^ 16 * ra.strB.toNat + 2 ^ 17 * ra.slot }

/-- What the head of a forward queue offers: a LAUNCH that may start, a LAUNCH that raises a cause of its own, or
nothing (18 R424). -/
inductive Handler
  | ok (k : Packet)
  | refused (c : Cause)
  | none
  deriving DecidableEq, Repr

def State.handlerQueue (s : State) (part q : Nat) : Handler :=
  match s.part? part with
  | Option.none => .none
  | some p =>
    let u := s.queue q
    if !p.hasQueue q || u.enabled || u.stopped || u.head != .idle then .none else
    match s.headPacket q with
    | .pkt k =>
      if k.kind ≠ .launch then .none else
      match launchCause p q k with
      | some c => .refused c
      | Option.none => .ok k
    | .bad c _ =>
      match s.readV part u.addr 8 with
      | .ok hd => if leNat (hd.map (·.1)) % 256 = 1 then .refused c else .none
      | .error _ => .none
    | .none => .none

/-- Whether this page-table page's error is already known to the host (20 R453), and remember it. -/
def State.tellPage (s : State) (part page : Nat) : State × Bool :=
  match s.part? part with
  | none => (s, true)
  | some p => if p.poisonPages.contains page then (s, true) else (s.setPart { p with poisonPages := page :: p.poisonPages }, false)

/-- The table page where the walk of an address meets poison; a walk that got no answer names the top table. -/
def State.poisonPage (s : State) (part va : Nat) : Nat :=
  match s.walk part va, s.part? part with
  | .poisoned a, _ => a
  | _, some p => bitsOf p.ptroot.toNat 56 12 * 4096
  | _, none => 0

/-- A fault of one of the scheduler's own accesses that parks its queue: a missing mapping, with its page request
(13 R366), or a poisoned table entry (18 R421). -/
def State.queuePark (s : State) (part q : Nat) (c : Cause) (va : Nat) : State :=
  match s.part? part with
  | none => s
  | some p =>
    let s := s.modQueue q fun u => { u.stop c with parked := true }
    if c = 0x101 then
      (s.pageRequest part va (p.epoch ++ 0#22) (.queue q) 3 0xFF (s.queue q).ord.toNat 0).record part
        (entryNotify (p.entry c)) { code := c, kind := 2, byte5 := 6, va := va }
    else
      let page := s.poisonPage part va
      let (s, told) := s.tellPage part page
      if told then s else s.record part true { code := c, kind := 2, byte5 := 6, va := page }

/-- The handler of a queue's head LAUNCH becomes a candidate. -/
def Queue.offer (u : Queue) (k : Packet) (f : Option (Cause × Nat)) : Queue :=
  { u with head := .launch, pkt := k.bytes, fwdFor := f }

/-- Whether a forward to a queue finds a handler there. -/
def State.hasHandler (s : State) (part q : Nat) : Bool :=
  match s.handlerQueue part q with
  | .ok _ => true
  | _ => false

/-- A cause against a queue (18 R428): the queue stops, which is its fixed first action (18 R410); its entry may forward. A
forward queue whose packet is refused stops with that packet's own cause. `ord` is the launch the cause is of, where it is
of one that is placed (20 R456). -/
def State.queueCauseN : Nat → State → Nat → Nat → Cause → Nat → Option Nat → State
  | 0, s, _, _, _, _, _ => s
  | f + 1, s, part, q, c, va, ord =>
    match s.part? part with
    | none => s
    | some p =>
      if c = 0x101 ∨ c = 0x103 then s.queuePark part q c va else
      let e := p.entry c
      let a := match entryAction e with
        | .replay => Action.park
        | a => a
      let did := if a = .forward && !s.hasHandler part (entryForward e) then Action.kill else a
      let s := s.modQueue q fun u => { u.stop c with parked := a == .park }
      let s := s.record part (entryNotify e)
        { code := c, kind := 2, byte5 := did.code + 4, va := va, ordinal := ord.getD (s.queue q).ord.toNat }
      if a = .forward then
        match s.handlerQueue part (entryForward e) with
        | .ok k => s.modQueue (entryForward e) fun u => u.offer k (some (c, q))
        | .refused c' => State.queueCauseN f s part (entryForward e) c' 0 none
        | .none => s
      else s

def State.queueCause (s : State) (part q : Nat) (c : Cause) (va : Nat) : State := s.queueCauseN 256 part q c va none

/-- A cause against the queue of a launch that is placed. -/
def State.launchCauseAt (s : State) (g : Region) (c : Cause) (va : Nat) : State :=
  s.queueCauseN 256 g.launch.part g.launch.queue c va (some g.launch.ordinal.toNat)

/-- A forward of the region would start a handler: it is none itself (18 R426), and the queue offers one. -/
def State.canForward (s : State) (g : Region) (q : Nat) : Bool :=
  !(g.handler.bind (·.region)).isSome && !(s.queue g.launch.queue).fwdFor.isSome && s.hasHandler g.launch.part q

/-- The action a record shows: a forward that acts as kill is one (18 R414, R424; 20 R461). -/
def State.applies (s : State) (g : Region) (a : Action) (q : Nat) : Action :=
  if a ≠ .forward then a else
  let ok : Bool := match g.role with
    | .third => false
    | .shadow => match s.regions.find? fun x => sameLaunch x g && x.role = .primary with
      | some p => s.canForward p q
      | none => false
    | _ => s.canForward g q
  if ok then .forward else .kill

/-- Forward a region that stands at its checkpoint to the handler queue, or kill it with the original cause. -/
def State.forward (s : State) (r : Nat) (ra : Raise) (q : Nat) : State :=
  match s.region? r with
  | none => s
  | some g =>
    if (g.handler.bind (·.region)).isSome || (s.queue g.launch.queue).fwdFor.isSome then s.kill r ra.cause else
    let s := s.leaveReqs g.launch.part fun a => a = .region r
    match s.handlerQueue g.launch.part q with
    | .ok k =>
      let s := s.modQueue q fun u => u.offer k none
      (s.setRegion { g with handler := some ⟨Option.none, q, 0⟩ }).startSave r (some ra)
    | .refused c => (s.kill r ra.cause).queueCause g.launch.part q c 0
    | .none => s.kill r ra.cause

/-- The numbers the frog picks: how many of a context's commands had started is open (Assumption 2). -/
def frogPick (seq : Nat) : Nat → Nat := fun c => Config.act (seq + c)

/-- Frog a region and record the cause in sr.reentry (18 R411). -/
def State.frog (s : State) (r : Nat) (c : Option Cause) : State :=
  match s.region? r with
  | none => s
  | some g =>
    let s := s.dropReqs g (g.awaits.filter fun a => !g.ckpt.awaits.any fun x => x.id = a.id)
    let s := (g.cmds.filter fun x => x.stitch = g.stitch ∧ x.parked?).foldl
      (fun s x => s.leaveReqs g.launch.part fun a => a = .cmd r x.id) s
    let g' := g.frog (frogPick s.seq) s.fresh
    { s.setRegion { g' with lastCause := c.getD g.lastCause } with
      seq := s.seq + 1, fresh := s.fresh + 1, twins := s.twins.filter fun k => k.env.rid ≠ r }

/-- A region is frogged for a cause met by another instance of its launch: the count rises as for its own (18 R412,
R414). One that is parked, saved or past its final commit has nothing to take back. -/
def State.frogAct (s : State) (r : Nat) (ra : Raise) : State :=
  match s.region? r with
  | none => s
  | some g =>
    match g.status with
    | .running => (s.frog r (some ra.cause)).modRegion r fun g => { g with reentry := g.reentry + 1 }
    | _ => s.modRegion r fun g => { g with reentry := g.reentry + 1, lastCause := ra.cause }

/-- Apply an action to a region that stands at its checkpoint (18 R409). A forward of a shadow kills it and forwards
the primary (18 R414). -/
def State.act (s : State) (r : Nat) (ra : Raise) (a : Action) (q : Nat) : State :=
  match s.region? r with
  | none => s
  | some g =>
    match a with
    | .kill => s.kill r ra.cause
    | .park =>
      match g.status with
      | .final => s
      | .saving none => (s.setRegion { g with park := some ra }).trySave r
      | .saving (some _) => s.trySave r
      | .saved => s.setRegion { g with park := some ra }
      | _ =>
        let s := s.setRegion { g with status := .parked ra }
        if g.preempt then s.startSave r none else s
    | .replay =>
      let s := s.leaveReqs g.launch.part fun a => a = .region r
      match g.status with
      | .running | .parked _ => s.setRegion g.reenter
      | _ => s.setRegion { g with park := none }
    | .forward =>
      match g.role with
      | .shadow =>
        match s.regions.find? fun x => sameLaunch x g && x.role = .primary with
        | some p =>
          ((s.kill r ra.cause).frogAct p.rid ra).forward p.rid ra q
        | none => s.kill r ra.cause
      | .primary =>
        let others := s.regions.filter fun x => sameLaunch x g && x.rid ≠ r
        let s := others.foldl (fun s x => s.kill x.rid ra.cause) s
        s.forward r ra q
      | .third => s.kill r ra.cause
      | _ => s.forward r ra q

/-- The action of an entry: against a command of a committed stitch replay acts as park (18 R422). -/
def Raise.action (ra : Raise) (e : BitVec 32) : Action :=
  if ra.cmd.isSome && entryAction e == .replay then .park else entryAction e

/-- A parked command is sent again: it performs its whole transfer again (18 R422). -/
def Cmd.retried (c : Cmd) : Cmd := if c.parked? then { c with st := .sent, moved := [] } else c

/-- A command parks under a cause, and keeps its number and its tag (18 R422). -/
def Region.parkCmd (g : Region) (id : Nat) (c : Cause) (va : Nat) : Region :=
  { g with cmds := g.cmds.map fun x => if x.id = id then { x with st := .parked c va } else x }

/-- The command of a committed stitch that a cause names parks, unless the launch is killed. -/
def Raise.parks (ra : Raise) (a : Action) (g : Region) : Region :=
  match ra.cmd with
  | some id => if a = .kill then g else g.parkCmd id ra.cause ra.va
  | none => g

/-- An entry's action is recorded and applied. -/
def State.apply (s : State) (g : Region) (ra : Raise) (a : Action) (e : BitVec 32) : State :=
  ((s.setRegion g).recordCause g ra (s.applies g a (entryForward e)) false (entryNotify e)).act g.rid ra a (entryForward e)

/-- The re-entry count would pass its limit: 0x202, whose entry decides between kill and forward (18 R410, R412). It names
no access (21 R469). -/
def State.pastLimit (s : State) (p : Part) (g : Region) (ra : Raise) : State :=
  let ra := { ra with cause := 0x202, va := 0 }
  let e := p.entry 0x202
  let a := if entryAction e = .forward then Action.forward else .kill
  s.apply { g with lastCause := 0x202, reentry := if a = .forward then g.reentry + 1 else g.reentry } ra a e

/-- The action of the table for a cause, with the re-entry count and its limit (18 R412). -/
def State.byTable (s : State) (r : Nat) (ra : Raise) : State :=
  match s.region? r with
  | none => s
  | some g =>
    match s.part? g.launch.part with
    | none => s
    | some p =>
      let e := p.entry ra.cause
      let a := ra.action e
      let counts := a = .replay ∨ a = .forward
      let g := { ra.parks a g with lastCause := ra.cause }
      if counts ∧ entryLimit e < g.reentry + 1 then s.pastLimit p g ra
      else s.apply (if counts then { g with reentry := g.reentry + 1 } else g) ra a e

/-- A fixed replay: first detections without raising the count (20 R454), refetch and recopy with it. -/
def State.fixedReplay (s : State) (r : Nat) (ra : Raise) (counts : Bool) : State :=
  match s.region? r with
  | none => s
  | some g =>
    match s.part? g.launch.part with
    | none => s
    | some p =>
      let e := p.entry ra.cause
      if counts && decide (entryLimit e < g.reentry + 1) then s.pastLimit p g ra
      else
        let g := { g with reentry := if counts then g.reentry + 1 else g.reentry }
        ((s.setRegion g).recordCause g ra .replay true (entryNotify e)).act r ra .replay 0

/-- A fixed kill (20 R446). -/
def State.fixedKill (s : State) (r : Nat) (ra : Raise) : State :=
  match s.region? r with
  | none => s
  | some g =>
    let notify := match s.part? g.launch.part with | some p => entryNotify (p.entry ra.cause) | none => false
    (s.recordCause g ra .kill true notify).kill r ra.cause

/-- Read a clean-filled segment again (20 R445): the segment's bytes, or nothing where the refetch fails. -/
def State.refetch (s : State) (g : Region) (t seg : Nat) : Option (List PByte) :=
  match (g.tile t).clean.find? fun c => c.seg = seg, s.part? g.launch.part with
  | some c, some p =>
    if c.gen ≠ p.transGen then none else
    match s.readV g.launch.part c.va 4096 with
    | .ok bs => if bs.any (·.2) then none else some bs
    | .error _ => none
  | _, _ => none

/-- The code section of a pattern's object can be read (20 R446); it is as LOAD verified it (Assumption 67). -/
def State.codeReads (s : State) (part : Nat) (x : Pattern) : Bool :=
  match s.readV part x.addr 128 with
  | .ok hd =>
    let off := leNat (((hd.map (·.1)).drop 16).take 4)
    match s.readV part (x.addr + off) x.codeLen with
    | .ok bs => !(hd ++ bs).any (·.2)
    | .error _ => false
  | .error _ => false

/-- A tile's code memory is copied again from the pattern's object. -/
def Tile.cleanCode (x : Tile) : Tile := { x with codeBad := [] }

/-- A clean-filled segment's bytes are copied in again (20 R445). -/
def Tile.recopy (x : Tile) (seg : Nat) (bs : List PByte) : Tile :=
  { x with sp := x.sp.write spGran (seg * 4096) bs }

/-- 0x302: the segment that the read met is read again within the frog (20 R445). -/
def State.takeRefetch (s : State) (g : Region) (ra : Raise) : State :=
  let seg := ra.va / 4096
  let ra := { ra with va := 0 }
  match s.refetch g ra.tile seg with
  | none => s.byTable g.rid { ra with cause := 0x303 }
  | some bs => (s.modRegion g.rid fun g => g.modTile ra.tile fun x => x.recopy seg bs).fixedReplay g.rid ra true

/-- 0x103: the table page is told of once (20 R453). -/
def State.takePoisonWalk (s : State) (g : Region) (ra : Raise) : State :=
  let page := s.poisonPage g.launch.part ra.va
  let (s, told) := s.tellPage g.launch.part page
  let s := if told then s else s.recordCause g { ra with va := page } .park true true
  s.act g.rid ra .park 0

/-- 0x101: a page request (18 R410, R418). -/
def State.takeMiss (s : State) (g : Region) (ra : Raise) : State :=
  let part := g.launch.part
  let notify := match s.part? part with | some p => entryNotify (p.entry 0x101) | none => false
  let s := s.pageRequest part ra.va g.launch.gen (.region g.rid) 0 0xFF g.launch.ordinal.toNat ra.tile
  (s.recordCause g ra .park true notify).act g.rid ra .park 0

/-- 0x380, 0x382, 0x383: the first detection since a commit replays, a second is 0x381 (20 R454). -/
def State.takeDetection (s : State) (g : Region) (ra : Raise) : State :=
  let s := s.suspect (g.physQuad ra.tile) 1
  if g.detected then
    (s.modRegion g.rid fun g => { g with lastCause := 0x381 }).byTable g.rid { ra with cause := 0x381 }
  else (s.modRegion g.rid fun g => { g with detected := true }).fixedReplay g.rid ra false

/-- TAKE A CAUSE raised against a region whose context is on tiles: the fixed first action or the action table,
after the frog. -/
def State.takeCause (s : State) (r : Nat) (ra : Raise) : State :=
  match s.region? r with
  | none => s
  | some g =>
    let s1 := s.frog r (some ra.cause)
    match ra.cause with
    | 0x101 => s1.takeMiss g ra
    | 0x103 => s1.takePoisonWalk g ra
    | 0x380 | 0x382 | 0x383 => s1.takeDetection g ra
    | 0x302 => s1.takeRefetch g ra
    | 0x30C =>
      let s1 := s1.suspect (g.physQuad ra.tile) 2
      if s1.codeReads g.launch.part g.pat then
        (s1.modRegion r fun g => g.modTile ra.tile Tile.cleanCode).fixedReplay r ra true
      else s1.fixedKill r ra
    | 0x30E | 0x30F => (s1.suspect (g.physQuad ra.tile) 2).fixedKill r ra
    | _ => s1.byTable r ra

/-- The order of R407 among the causes of one sc: precise before event; then tile, stream; a context's causes last,
by counter; then the code. -/
def Raise.before (a b : Raise) : Bool :=
  let key (x : Raise) : List Nat :=
    if x.precise then [0, 0, x.tile, x.strB.toNat, 0]
    else match x.ctr with
      | none => [1, 0, x.tile, x.strB.toNat, x.cause]
      | some n => [1, 1, n % 32, x.cause, x.tile]
  decide (key a < key b)

/-- The cause the frog carries; the others are discarded. -/
def pickRaise : List Raise → Option Raise
  | [] => none
  | a :: r =>
    match pickRaise r with
    | none => some a
    | some b => if b.before a then some b else some a

end Sys2Proof.Machine
end

