-- ==== Sys2Proof/Machine/Operands.lean ====
section
/-! DEFINITION. What an operation reads: scalar operands, guards, handles, vector operands, and the sticky
slots' address operands (03 R61, R64, R89; 07 R167, R173, R175; 08 R194, R195; 20 R443). -/

namespace Sys2Proof.Machine

/-! ### Scalar operands (03 R61) -/

/-- An identifier value (03 R64). -/
def Region.ident (g : Region) (devId : BitVec 20) (cu : Cursor) : Ident → Nat
  | .x => g.x cu.t
  | .y => g.y cu.t
  | .w => g.pat.w
  | .h => g.pat.h
  | .stream => cu.b.toNat
  | .quad => g.quad cu.t
  | .qpos => g.qpos cu.t
  | .part => g.launch.part
  | .launch => g.launch.ordinal.toNat
  | .dev => devId.toNat

/-- Read a scalar operand; a GLD's or ATOMR's result that is due and has not arrived freezes (07 R178). -/
def Region.readS (g : Region) (s : State) (cu : Cursor) : SSrc → Except Stop Val
  | .g n => if n = 0 then .ok {} else do
      g.ready cu.t cu.b (.g n)
      return (g.cur cu).bank.getS (.g n)
  | .k n => do
      g.ready cu.t cu.b (.k n)
      return (g.cur cu).bank.getS (.k n)
  | .latch l => do
      if l = .lm then g.readyLm cu.t cu.b else .ok ()
      return (g.cur cu).bank.la.get l
  | .ident i => .ok ⟨BitVec.ofNat 64 (g.ident s.dev.id cu i), false⟩
  | .imm v => .ok ⟨v.signExtend 64, false⟩

/-- The second source: operand B, or the immediate (08 R194). -/
def Region.readB (g : Region) (s : State) (cu : Cursor) : SrcB → Except Stop Val
  | .op a => g.readS s cu a
  | .imm16 v => .ok ⟨v.signExtend 64, false⟩

/-- A predicate source after its inversion (08 R195). -/
def Region.readP (g : Region) (cu : Cursor) (p : PSrc) : PredV :=
  let x := (g.cur cu).bank.getP p.p
  ⟨x.bit ^^ p.inv, x.bad⟩

/-- A value that decides control, an address or an engine's work must not be poisoned (20 R443). -/
def Val.sound (x : Val) : Except Stop Word := if x.bad then .error (.cause 0x301 0) else .ok x.bits

/-- Read an operand in one of the roles of 20 R443. -/
def Region.readSound (g : Region) (s : State) (cu : Cursor) (a : SSrc) : Except Stop Word := do
  let x ← g.readS s cu a
  x.sound

/-! ### Guards (07 R173) -/

/-- Whether a scalar guard reads true. -/
def Region.guard (g : Region) (cu : Cursor) (gd : Guard) : Except Stop Bool :=
  let x := (g.cur cu).bank.getP gd.p
  if x.bad then .error (.cause 0x301 0) else .ok (x.bit ^^ gd.neg)

/-- The lane mask that guards a vector operation. -/
def Region.lanes (g : Region) (cu : Cursor) (gd : VGuard) : Except Stop (BitVec 32) :=
  let x := (g.cur cu).bank.getM gd.m
  if x.bad then .error (.cause 0x301 0) else .ok (if gd.neg then ~~~x.bits else x.bits)

/-- A lane mask named by a memory operation (10 R260). -/
def Region.laneMask (g : Region) (cu : Cursor) (m : BitVec 3) : Except Stop (BitVec 32) := g.lanes cu ⟨m, false⟩

/-- Issue an operation with a scalar guard: nothing happens where it reads false. -/
def guarded (s : State) (gd : Guard) (f : Cursor → Region → Except Stop Region) : Out :=
  issueOp s fun cu g => do
    let on ← g.guard cu gd
    if on then f cu g else return g

/-- Operations a rebuild stub must not issue (02 R52, 08 R208); those that stand in neither of R52's lists run as usual
(Assumption 73). -/
def Region.notStub (g : Region) : Except Stop Unit := need (!g.stub) 0x089

/-- A result of latency `lat` for a scalar destination and the slot's latch (08 R193). -/
def Region.result (g : Region) (cu : Cursor) (lat : Nat) (d : SDst) (x : Val) : Region :=
  g.fly cu lat (.scalar (some d) (slotLatch cu.slot) x)

/-! ### Sticky slots (07 R167) -/

def Stream.sticky (x : Stream) (slot : Nat) : Option Sticky :=
  match slot with
  | 2 => x.ls
  | 3 => x.va
  | 4 => x.mx
  | _ => none

def Stream.setSticky (x : Stream) (slot : Nat) (k : Option Sticky) : Stream :=
  match slot with
  | 2 => { x with ls := k }
  | 3 => { x with va := k }
  | 4 => { x with mx := k }
  | _ => x

/-- An address operand at the present issue: a_0 + n·S. -/
def stepped (n : Nat) (a : Val) (step : Int) : Val := ⟨a.bits + BitVec.ofInt 64 (n * step), a.bad⟩

def steppedAll (n : Nat) : List Val → List Int → List Val
  | [], _ => []
  | a :: as, [] => a :: steppedAll n as []
  | a :: as, k :: ks => stepped n a k :: steppedAll n as ks

/-- Issue an operation of a sticky slot. `on` reads the guard. The initiating issue computes the address operands,
whatever the guard reads, and makes the slot active; a re-issue takes a_0 + n·S. `f` gets the addresses. -/
def stickyOp (s : State) (op : Instr) (steps : List Int) (addrs : Cursor → Region → Except Stop (List Val))
    (on : Cursor → Region → Except Stop Bool) (f : Cursor → Region → List Val → Except Stop Region) : Out :=
  issueOp s fun cu g => do
    let go ← on cu g
    let k ← match cu.again with
      | some k => pure k
      | none => do
        let a ← addrs cu g
        pure (⟨op, 0, a⟩ : Sticky)
    let g := g.modStr cu.t cu.b fun x => x.setSticky cu.slot (some k)
    if go then f cu g (steppedAll k.n k.addrs steps) else return g

/-- The common case: a scalar guard. -/
def stickyGuarded (s : State) (op : Instr) (gd : Guard) (steps : List Int)
    (addrs : Cursor → Region → Except Stop (List Val)) (f : Cursor → Region → List Val → Except Stop Region) : Out :=
  stickyOp s op steps addrs (fun cu g => g.guard cu gd) f

/-- A vector-class operation: its lane mask is no guard (19 R429), and it has no address operand. -/
def stickyVec (s : State) (op : Instr) (f : Cursor → Region → Except Stop Region) : Out :=
  stickyOp s op [] (fun _ _ => .ok []) (fun _ _ => .ok true) fun cu g _ => f cu g

/-- The first address operand, which must not be poisoned. -/
def firstAddr (as : List Val) : Except Stop Word := (as.headD {}).sound

def secondAddr (as : List Val) : Except Stop Word := (as.getD 1 {}).sound

/-- Sums of operands, poisoned where any is. -/
def Val.plus (a b : Val) : Val := ⟨a.bits + b.bits, a.bad || b.bad⟩

/-- src(A) + src(B) + src(C) + SEXT(imm16) (09 R225, R227). -/
def Region.sum3 (g : Region) (s : State) (cu : Cursor) (a b c : SSrc) (imm : BitVec 16) : Except Stop Val := do
  let x ← g.readS s cu a
  let y ← g.readS s cu b
  let z ← g.readS s cu c
  return ((x.plus y).plus z).plus ⟨imm.signExtend 64, false⟩

def Region.sum2 (g : Region) (s : State) (cu : Cursor) (a c : SSrc) (imm : BitVec 16) : Except Stop Val := do
  let x ← g.readS s cu a
  let z ← g.readS s cu c
  return (x.plus z).plus ⟨imm.signExtend 64, false⟩

/-! ### Handles (03 R89, R90) -/

/-- The handle an access uses: freezes while its walk is awaited; 0x104 where it is invalid. -/
def Region.handle (g : Region) (cu : Cursor) (h : BitVec 4) : Except Stop Handle := do
  g.readyH cu.t cu.b h
  match (g.cur cu).bank.getH h with
  | some x => .ok x
  | none => .error (.cause 0x104 0)

/-! ### Vector operands (07 R175; 10 R255) -/

/-- Element i of a register of elements w bits apart. -/
def elemOf (w : Nat) (x : BitVec 1024) (i : Nat) : Nat := (x.extractLsb' (w * i) w).toNat

/-- The integer of a broadcast immediate, converted exactly to the element format. -/
def immElem (f : Fmt) (v : BitVec 6) : Nat := convert f .rne false 0 (.ofInt v.toInt)

/-- A vector-class source as the operation sees it: a register, or one element for all. -/
inductive VVal
  | reg (r : VReg)
  | all (e : Nat) (bad : Bool)
  deriving DecidableEq, Repr

def Region.readV (g : Region) (s : State) (cu : Cursor) (f : Fmt) : VSrc → Except Stop VVal
  | .v n => .ok (.reg ((g.cur cu).bank.getV n))
  | .g n => do
      let x ← g.readS s cu (.g n)
      return .all (x.bits.toNat % 2 ^ f.width) x.bad
  | .k n => do
      let x ← g.readS s cu (.k n)
      return .all (x.bits.toNat % 2 ^ f.width) x.bad
  | .latch l => do
      let x ← g.readS s cu (.latch l)
      return .all (x.bits.toNat % 2 ^ f.width) x.bad
  | .imm v => .ok (.all (immElem f v) false)

/-- A vector-class source read as a 64-bit scalar: an index (10 R268, R269). -/
def Region.readVScalar (g : Region) (s : State) (cu : Cursor) : VSrc → Except Stop Val
  | .v _ => .ok {}
  | .g n => g.readS s cu (.g n)
  | .k n => g.readS s cu (.k n)
  | .latch l => g.readS s cu (.latch l)
  | .imm v => .ok ⟨v.signExtend 64, false⟩

end Sys2Proof.Machine
end

