-- ==== Sys2Proof/Machine/Flags.lean ====
section
/-! DEFINITION. The widths and relations of the scalar families, and the flag computations: predicate results
(08 R196, R197, R198), lane relations (10 R266) and the sticky overflow flag of an accumulator copy (03 R83). -/

namespace Sys2Proof.Machine

/-- n of 08 R196. -/
def opWidth (w : Bool) : Nat := if w then 32 else 64

/-- BITS(v, n − 1, 0) as an unsigned and as a signed value (08 R196). -/
def uval (n : Nat) (v : Word) : Nat := v.toNat % 2 ^ n

def sval (n : Nat) (v : Word) : Int := signedOf n v.toNat

/-- A result modulo 2^n, sign-extended to 64 bits (08 R196). -/
def narrow (n : Nat) (r : Int) : Word := BitVec.ofInt 64 (signedOf n (r % 2 ^ n).toNat)

/-- The relations of 08 R197. -/
inductive Rel | eq | ne | lt | le | ltu | leu
  deriving DecidableEq, Repr

def Rel.holds (r : Rel) (n : Nat) (a b : Word) : Bool :=
  match r with
  | .eq => decide (uval n a = uval n b)
  | .ne => decide (uval n a ≠ uval n b)
  | .lt => decide (sval n a < sval n b)
  | .le => decide (sval n a ≤ sval n b)
  | .ltu => decide (uval n a < uval n b)
  | .leu => decide (uval n a ≤ uval n b)

/-- The functions of 08 R198. -/
inductive PFn | and | or | xor | andn
  deriving DecidableEq, Repr

def PFn.apply : PFn → Bool → Bool → Bool
  | .and, x, y => x && y
  | .or, x, y => x || y
  | .xor, x, y => x ^^ y
  | .andn, x, y => x && !y

/-- The lane relations of 10 R266 on exact values: false with a NaN but for NE. -/
inductive VRel | eq | ne | lt | le
  deriving DecidableEq, Repr

def VRel.holds (r : VRel) (x y : Exact) : Bool :=
  match r with
  | .eq => x.eq y
  | .ne => !x.eq y
  | .lt => x.lt y
  | .le => x.lt y || x.eq y

/-- Bit of a copy's overflow flag: slot s, copy k at 2s + k. -/
def ovfIndex (slot : BitVec 3) (copy : Bool) : Nat := 2 * slot.toNat + copy.toNat

def Tile.ovfBit (x : Tile) (slot : BitVec 3) (copy : Bool) : Bool := x.ovf.getLsbD (ovfIndex slot copy)

def setBit16 (v : BitVec 16) (n : Nat) (b : Bool) : BitVec 16 := if b then v ||| (1#16 <<< n) else v &&& ~~~(1#16 <<< n)

/-- The overflow flag a write to a copy leaves (03 R83): the first write of a stitch takes over the committed
copy's flag, later ones keep the copy's own; an overflow the write causes sets it. -/
def Tile.ovfAfter (x : Tile) (slot : BitVec 3) (rd wr : Bool) (fresh o : Bool) : Tile :=
  { x with ovf := setBit16 x.ovf (ovfIndex slot wr) (o || x.ovfBit slot (if fresh then rd else wr)) }

end Sys2Proof.Machine
end

