-- ==== Sys2Proof/Machine/Scalar.lean ====
section
/-! DEFINITION. The scalar families of slots A0 and A1 (08 R193 to R204). -/

namespace Sys2Proof.Machine

/-! ### Two-source arithmetic (08 R196) -/

/-- The result of a two-source family, before it is taken modulo 2^n: of n, the unsigned values and the signed
values of the two sources. -/
abbrev AluFn := Nat → Nat → Nat → Int → Int → Int

/-- A two-source family: latency and function. -/
def alu2 (lat : Nat) (f : AluFn) (o : Alu2) (s : State) : Out :=
  guarded s o.gd fun cu g => do
    let a ← g.readS s cu o.a
    let b ← g.readB s cu o.b
    let n := opWidth o.w
    return g.result cu lat o.d
      ⟨narrow n (f n (uval n a.bits) (uval n b.bits) (sval n a.bits) (sval n b.bits)), a.bad || b.bad⟩

/-- ADD: x + y. -/
def execAdd (o : Alu2) (s : State) : Out := alu2 1 (fun _ x y _ _ => (x + y : Nat)) o s

/-- SUB: x − y. -/
def execSub (o : Alu2) (s : State) : Out := alu2 1 (fun _ x y _ _ => (x : Int) - y) o s

/-- AND: x AND y. -/
def execAnd (o : Alu2) (s : State) : Out := alu2 1 (fun _ x y _ _ => (x &&& y : Nat)) o s

/-- OR: x OR y. -/
def execOr (o : Alu2) (s : State) : Out := alu2 1 (fun _ x y _ _ => (x ||| y : Nat)) o s

/-- XOR: x XOR y. -/
def execXor (o : Alu2) (s : State) : Out := alu2 1 (fun _ x y _ _ => (x ^^^ y : Nat)) o s

/-- ANDN: x AND NOT y. -/
def execAndn (o : Alu2) (s : State) : Out := alu2 1 (fun n x y _ _ => (x &&& (2 ^ n - 1 - y) : Nat)) o s

/-- SHL: x · 2^(y mod n). -/
def execShl (o : Alu2) (s : State) : Out := alu2 1 (fun n x y _ _ => (x * 2 ^ (y % n) : Nat)) o s

/-- SHR: floor(x / 2^(y mod n)). -/
def execShr (o : Alu2) (s : State) : Out := alu2 1 (fun n x y _ _ => (x / 2 ^ (y % n) : Nat)) o s

/-- SAR: floor(sx / 2^(y mod n)). -/
def execSar (o : Alu2) (s : State) : Out := alu2 1 (fun n _ y sx _ => sx / 2 ^ (y % n)) o s

/-- MIN: the lesser signed value. -/
def execMin (o : Alu2) (s : State) : Out := alu2 1 (fun _ _ _ sx sy => if sx ≤ sy then sx else sy) o s

/-- MAX: the greater signed value. -/
def execMax (o : Alu2) (s : State) : Out := alu2 1 (fun _ _ _ sx sy => if sy ≤ sx then sx else sy) o s

/-- MINU: the lesser unsigned value. -/
def execMinu (o : Alu2) (s : State) : Out := alu2 1 (fun _ x y _ _ => (min x y : Nat)) o s

/-- MAXU: the greater unsigned value. -/
def execMaxu (o : Alu2) (s : State) : Out := alu2 1 (fun _ x y _ _ => (max x y : Nat)) o s

/-- MUL: x · y. -/
def execMul (o : Alu2) (s : State) : Out := alu2 3 (fun _ x y _ _ => (x * y : Nat)) o s

/-- MULH: floor(sx · sy / 2^n). -/
def execMulh (o : Alu2) (s : State) : Out := alu2 3 (fun n _ _ sx sy => sx * sy / 2 ^ n) o s

/-- MULHU: floor(x · y / 2^n). -/
def execMulhu (o : Alu2) (s : State) : Out := alu2 3 (fun n x y _ _ => (x * y / 2 ^ n : Nat)) o s

/-- DIV: −1 for a zero divisor, sx for the least value over −1, else the quotient truncated toward zero. -/
def execDiv (o : Alu2) (s : State) : Out := alu2 18 (fun n _ y sx sy => if y = 0 then -1 else if sx = -(2 ^ (n - 1)) ∧ sy = -1 then sx else sx.tdiv sy) o s

/-- DIVU: 2^n − 1 for a zero divisor, else the quotient. -/
def execDivu (o : Alu2) (s : State) : Out := alu2 18 (fun n x y _ _ => if y = 0 then 2 ^ n - 1 else (x / y : Nat)) o s

/-- REM: sx for a zero divisor, 0 for the least value over −1, else the remainder of the truncated quotient. -/
def execRem (o : Alu2) (s : State) : Out := alu2 18 (fun n _ y sx sy => if y = 0 then sx else if sx = -(2 ^ (n - 1)) ∧ sy = -1 then 0 else sx - sy * sx.tdiv sy) o s

/-- REMU: x for a zero divisor, else x mod y. -/
def execRemu (o : Alu2) (s : State) : Out := alu2 18 (fun _ x y _ _ => if y = 0 then (x : Int) else (x % y : Nat)) o s

/-! ### Compares and predicate logic (08 R197, R198) -/

/-- The latch of a slot that yields a predicate; the scalar slots always have one. -/
def predLatch (slot : Nat) : Latch := if slot = 1 then .la1 else .la0

/-- Put a predicate result in flight, with the slot's latch taking ZEXT(bit, 64) (08 R193). -/
def Region.predResult (g : Region) (cu : Cursor) (d : BitVec 4) (x : PredV) : Region :=
  g.fly cu 1 (.pred d (predLatch cu.slot) x)

/-- A compare family. -/
def cmp2 (r : Rel) (o : Cmp2) (s : State) : Out :=
  guarded s o.gd fun cu g => do
    let a ← g.readS s cu o.a
    let b ← g.readB s cu o.b
    return g.predResult cu o.d ⟨r.holds (opWidth o.w) a.bits b.bits, a.bad || b.bad⟩

/-- CMPEQ: x = y. -/
def execCmpeq (o : Cmp2) (s : State) : Out := cmp2 .eq o s

/-- CMPNE: x ≠ y. -/
def execCmpne (o : Cmp2) (s : State) : Out := cmp2 .ne o s

/-- CMPLT: sx < sy. -/
def execCmplt (o : Cmp2) (s : State) : Out := cmp2 .lt o s

/-- CMPLE: sx ≤ sy. -/
def execCmple (o : Cmp2) (s : State) : Out := cmp2 .le o s

/-- CMPLTU: x < y. -/
def execCmpltu (o : Cmp2) (s : State) : Out := cmp2 .ltu o s

/-- CMPLEU: x ≤ y. -/
def execCmpleu (o : Cmp2) (s : State) : Out := cmp2 .leu o s

/-- A predicate-logic family. -/
def plog (f : PFn) (o : PLog) (s : State) : Out :=
  guarded s o.gd fun cu g => do
    let a := g.readP cu o.a
    let b := g.readP cu o.b
    return g.predResult cu o.d ⟨f.apply a.bit b.bit, a.bad || b.bad⟩

/-- PAND. -/
def execPand (o : PLog) (s : State) : Out := plog .and o s

/-- POR. -/
def execPor (o : PLog) (s : State) : Out := plog .or o s

/-- PXOR. -/
def execPxor (o : PLog) (s : State) : Out := plog .xor o s

/-- PANDN. -/
def execPandn (o : PLog) (s : State) : Out := plog .andn o s

/-- SEL: pc selects src(A) or b (08 R199); poisoned if any of its three sources is (20 R442). -/
def execSel (o : SelA) (s : State) : Out :=
  guarded s o.gd fun cu g => do
    let c := g.readP cu o.c
    let a ← g.readS s cu o.a
    let b ← g.readB s cu o.b
    return g.result cu 1 o.d ⟨if c.bit then a.bits else b.bits, a.bad || b.bad || c.bad⟩

/-! ### Bit fields and counts (08 R200, R201) -/

/-- The position and length of a field and the poison of their sources; a register pair is checked at issue. -/
def Region.field (g : Region) (s : State) (cu : Cursor) : FieldSel → Except Stop (Nat × Nat × Bool)
  | .imm p lm1 => .ok (p.toNat, lm1.toNat + 1, false)
  | .reg p l => do
      let p ← g.readS s cu p
      let l ← g.readS s cu l
      need (decide (p.bits.toNat ≤ 63 ∧ 1 ≤ l.bits.toNat ∧ l.bits.toNat ≤ 64 - p.bits.toNat)) 0x083
      return (p.bits.toNat, l.bits.toNat, p.bad || l.bad)

/-- BITS(v, p + l − 1, p). -/
def fieldOf (v : Word) (p l : Nat) : Nat := v.toNat / 2 ^ p % 2 ^ l

def bitField (signed : Bool) (o : BfxA) (s : State) : Out :=
  guarded s o.gd fun cu g => do
    let a ← g.readS s cu o.a
    let (p, l, bad) ← g.field s cu o.f
    let x := fieldOf a.bits p l
    return g.result cu 1 o.d ⟨if signed then BitVec.ofInt 64 (signedOf l x) else BitVec.ofNat 64 x, a.bad || bad⟩

/-- BFX. -/
def execBfx (o : BfxA) (s : State) : Out := bitField false o s

/-- BFXS. -/
def execBfxs (o : BfxA) (s : State) : Out := bitField true o s

/-- BFI: a with bits [p + l − 1 : p] replaced by the low l bits of b. -/
def execBfi (o : BfiA) (s : State) : Out :=
  guarded s o.gd fun cu g => do
    let a ← g.readS s cu o.a
    let b ← g.readS s cu o.b
    let p := o.p.toNat
    let l := o.lm1.toNat + 1
    let keep := a.bits.toNat - fieldOf a.bits p l * 2 ^ p
    return g.result cu 1 o.d ⟨BitVec.ofNat 64 (keep + fieldOf b.bits 0 l * 2 ^ p), a.bad || b.bad⟩

/-- The count of zeros at the top, at the bottom, and of ones, of an n-bit value. -/
def clzOf (n x : Nat) : Nat := if x = 0 then n else n - 1 - Nat.log2 x

def ctzOf (n x : Nat) : Nat := ((List.range n).find? fun i => x.testBit i).getD n

def popOf (n x : Nat) : Nat := ((List.range n).filter fun i => x.testBit i).length

def count1 (f : Nat → Nat → Nat) (o : CntA) (s : State) : Out :=
  guarded s o.gd fun cu g => do
    let a ← g.readS s cu o.a
    return g.result cu 1 o.d ⟨BitVec.ofNat 64 (f (opWidth o.w) (uval (opWidth o.w) a.bits)), a.bad⟩

/-- CLZ. -/
def execClz (o : CntA) (s : State) : Out := count1 clzOf o s

/-- CTZ. -/
def execCtz (o : CntA) (s : State) : Out := count1 ctzOf o s

/-- POPC. -/
def execPopc (o : CntA) (s : State) : Out := count1 popOf o s

/-! ### AGEN2 and LI (08 R202, R203) -/

/-- AGEN2: src(A) + src(B)·2^s1 + src(C)·2^s2. -/
def execAgen2 (o : AgenA) (s : State) : Out :=
  guarded s o.gd fun cu g => do
    let a ← g.readS s cu o.a
    let b ← g.readS s cu o.b
    let c ← g.readS s cu o.c
    return g.result cu 1 o.d
      ⟨a.bits + (b.bits <<< o.s1.toNat) + (c.bits <<< o.s2.toNat), a.bad || b.bad || c.bad⟩

/-- LI: the 45-bit constant, sign-extended. -/
def execLi (gd : Guard) (d : SDst) (v : BitVec 45) (s : State) : Out :=
  guarded s gd fun cu g => return g.result cu 1 d ⟨v.signExtend 64, false⟩

/-- LI.HI: the low 45 bits of the source under the 19 bits given. -/
def execLiHi (gd : Guard) (d : SDst) (a : SSrc) (v : BitVec 19) (s : State) : Out :=
  guarded s gd fun cu g => do
    let a ← g.readS s cu a
    return g.result cu 1 d ⟨v ++ a.bits.extractLsb' 0 45, a.bad⟩

/-! ### Special registers and mailboxes (03 R69, R70; 08 R204) -/

/-- The copy of a slot that a read reads (03 R82): the other copy once the stitch has written it. -/
def Tile.readCopy (x : Tile) (slot : BitVec 3) : Bool :=
  x.accCom.getLsbD slot.toNat ^^ x.accWr.getLsbD slot.toNat

/-- sr.accst: the committed-copy bits, and the overflow flag of each slot's current copy. -/
def Tile.accst (x : Tile) : Nat :=
  x.accCom.toNat + 256 * (List.range 8).foldr (fun i acc =>
    (x.ovfBit (BitVec.ofNat 3 i) (x.readCopy (BitVec.ofNat 3 i))).toNat + 2 * acc) 0

/-- What RDSR reads. A rebuild stub runs with sr.cyc and the gauge stopped (02 R52). -/
def Region.special (g : Region) (d : Dev) (cu : Cursor) : SReg → Word
  | .cyc => BitVec.ofNat 64 g.sc
  | .wall => BitVec.ofNat 64 d.ns
  | .bank => BitVec.ofNat 64 (g.cur cu).bankNo.toNat
  | .reentry => BitVec.ofNat 64 (g.reentry % 16 + 2 ^ 16 * (g.lastCause % 1024))
  | .stitch => BitVec.ofNat 64 g.stitch
  | .gauge => BitVec.ofNat 64 g.gaugeN
  | .srpos => (g.cur cu).srpos
  | .seed => g.launch.seed
  | .level => g.pat.level.setWidth 64
  | .accst => BitVec.ofNat 64 (g.tile cu.t).accst

/-- RDSR. -/
def execRdsr (gd : Guard) (d : SDst) (n : SReg) (s : State) : Out :=
  guarded s gd fun cu g => return g.result cu 1 d ⟨g.special s.dev cu n, false⟩

/-- WRSR of sr.srpos: in force for every stochastic rounding of a later sc (04 R104). -/
def execWrsr (gd : Guard) (a : SSrc) (s : State) : Out :=
  guarded s gd fun cu g => do
    let v ← g.readSound s cu a
    return g.modStr cu.t cu.b fun x => { x with srNext := some v }

/-- RDMB. -/
def execRdmb (gd : Guard) (d : SDst) (n : BitVec 4) (s : State) : Out :=
  guarded s gd fun cu g => return g.result cu 1 d ⟨(g.tile cu.t).mb[n.toNat]'n.isLt, false⟩

end Sys2Proof.Machine
end

