-- ==== Sys2Proof/Machine/Control.lean ====
section
/-! DEFINITION. Transfers, hardware loops, the second stream, sync bits, traps and the idle bundle
(07 R165, R180; 08 R205 to R219). A transfer taken by a bundle is put in `pend` with 3 bundles left, its own
and its two delay bundles; a change of the next bundle without delay has 1 left. -/

namespace Sys2Proof.Machine

/-! ### The idle bundle and NOP -/

/-- IDLE_BUNDLE: nothing but its halt bits; the sticky slots that stay active re-issue with it (07 R165, R167). -/
def execIdleBundle (_ : BitVec 6) (h : BitVec 3) (s : State) : Out :=
  issueOp s fun cu g => return g.modStr cu.t cu.b fun x =>
    { x with
      ls := if h.getLsbD 0 then none else x.ls
      va := if h.getLsbD 1 then none else x.va
      mx := if h.getLsbD 2 then none else x.mx }

/-- NOP (08 R219). -/
def execNop (gd : Guard) (s : State) : Out := guarded s gd fun _ g => return g

/-! ### Transfers (08 R205 to R208) -/

/-- A taken transfer: the target follows the two delay bundles (07 R180). -/
def Region.jump (g : Region) (cu : Cursor) (target : Word) (after : Bool) : Region :=
  g.modStr cu.t cu.b fun x => { x with pend := x.pend ++ [⟨3, target, after, 0⟩] }

/-- P + 4·disp. -/
def relTarget (cu : Cursor) (disp : BitVec 18) : Word := cu.offset + (disp.signExtend 64 <<< 2)

/-- BR. -/
def execBr (gd : Guard) (disp : BitVec 18) (s : State) : Out :=
  guarded s gd fun cu g => return g.jump cu (relTarget cu disp) false

/-- BRI. -/
def execBri (gd : Guard) (a : SSrc) (imm : BitVec 16) (s : State) : Out :=
  guarded s gd fun cu g => do
    let v ← g.readSound s cu a
    return g.jump cu (v + imm.signExtend 64) false

/-- The offset of the bundle after the one at an offset, in code order. -/
def Region.nextOffset (g : Region) (pc : Nat) : Option Nat :=
  if pc % 4 ≠ 0 ∨ g.pat.codeLen ≤ pc then none
  else some (pc + 4 * headerLen (g.pat.code.getD (pc / 4) 0))

/-- The link of a CALL (08 R206): the bundle after the second bundle after the CALL's. Where the code ends
before that bundle's offset is known, the manual gives no link: a free value (Assumption 5). -/
def Region.link (g : Region) (fresh : Nat) (cu : Cursor) : Word :=
  match (g.nextOffset (cu.offset.toNat + cu.len)).bind g.nextOffset with
  | some p => BitVec.ofNat 64 p
  | none => Config.freeWord fresh 0 ++ Config.freeWord fresh 1

/-- CALL. -/
def execCall (gd : Guard) (d : SDst) (disp : BitVec 18) (s : State) : Out :=
  guarded s gd fun cu g =>
    return (g.fly cu 1 (.scalar (some d) none ⟨g.link s.fresh cu, false⟩)).jump cu (relTarget cu disp) false

/-- End the rebuild stub of a stream: its next bundle is the one from which it resumes, at the issue it had reached, with
the transfers that were pending there (07 R166; 08 R208). -/
def Stream.endStub (x : Stream) : Stream :=
  match x.resumeAt with
  | none => x
  | some (pc, skip, done, pend) =>
    { x with
      pend := ⟨1, pc, skip, done⟩ :: pend.map fun p => { p with left := p.left + 1 }
      resumeAt := none, ls := none, va := none, mx := none }

/-- RET. In a rebuild stub it ends the stub, and its operand is not used. -/
def execRet (gd : Guard) (a : SSrc) (s : State) : Out :=
  guarded s gd fun cu g =>
    if g.stub then return g.modStr cu.t cu.b Stream.endStub
    else do
      let v ← g.readSound s cu a
      return g.jump cu v false

/-! ### Hardware loops (08 R209 to R213) -/

/-- Write a loop counter, whole and clean. -/
def Bank.setLc (k : Bank) (n : BitVec 2) (c : BitVec 32) : Bank :=
  { k with lc := k.lc.set n.toNat c n.isLt, lcBad := k.lcBad &&& ~~~(1#4 <<< n.toNat) }

/-- The effect of 08 R210 for a trip count. -/
def Region.enterLoop (g : Region) (cu : Cursor) (o : LoopA) (c : Nat) : Except Stop Region := do
  let l := (g.cur cu).loops
  need (decide (l.depth = o.n.toNat)) 0x086
  let endpc := cu.offset.toNat + 4 * o.e.toNat
  need (decide (o.e ≠ 0 ∧ endpc < g.pat.codeLen)) 0x088
  if c = 0 then
    return g.modStr cu.t cu.b fun x =>
      { x with bank := x.bank.setLc o.n 0, pend := x.pend ++ [⟨1, BitVec.ofNat 64 endpc, true, 0⟩] }
  else
    return g.modStr cu.t cu.b fun x =>
      { x with
        bank := x.bank.setLc o.n (BitVec.ofNat 32 (c - 1))
        loops := { depth := l.depth + 1
                   starts := l.starts.set o.n.toNat (cu.offset + BitVec.ofNat 64 cu.len) o.n.isLt
                   ends := l.ends.set o.n.toNat (BitVec.ofNat 64 endpc) o.n.isLt } }

/-- LOOP. -/
def execLoop (o : LoopA) (cnt : BitVec 16) (s : State) : Out :=
  guarded s o.gd fun cu g => do
    g.notStub
    g.enterLoop cu o cnt.toNat

/-- LOOPR: the count is SAT_U32 of the source taken as s64. -/
def execLoopr (o : LoopA) (a : SSrc) (s : State) : Out :=
  guarded s o.gd fun cu g => do
    g.notStub
    let v ← g.readSound s cu a
    g.enterLoop cu o (satU 32 v.toInt).toNat

/-- LEXIT. -/
def execLexit (gd : Guard) (s : State) : Out :=
  guarded s gd fun cu g => do
    g.notStub
    let l := (g.cur cu).loops
    need (decide (l.depth ≠ 0)) 0x087
    let i := l.depth - 1
    return (g.modStr cu.t cu.b fun x => { x with loops := { l with depth := i } }).jump cu (l.ends[i]?.getD 0) true

/-! ### The second stream and sync bits (02 R46, R47; 08 R214 to R217) -/

/-- Defer an effect to the end of the sc. -/
def Region.atEnd (g : Region) (cu : Cursor) (e : EndOp) : Region :=
  { g with endEffs := g.endEffs ++ [⟨cu.t, cu.b, e⟩] }

/-- FORK: B takes A's k0 to k7 as read now. In a rebuild stub 0x089 comes before every other issue check (Assumption 63);
so in every operation that a stub may not issue. -/
def execFork (gd : Guard) (disp : BitVec 18) (s : State) : Out :=
  guarded s gd fun cu g => do
    g.notStub
    need (!cu.b && !(g.str cu.t true).running) 0x084
    g.firstMissing cu.t cu.b fun a => a.live && (match a.dst with | some (.k _) => true | _ => false)
    return g.atEnd cu (.fork (relTarget cu disp) (g.cur cu).bank.k)

/-- JOIN: held until the other stream is idle. -/
def execJoin (gd : Guard) (s : State) : Out :=
  guarded s gd fun cu g => do
    g.notStub
    if (g.str cu.t (!cu.b)).running then .error (.hold g) else return g

/-- JSET. -/
def execJset (gd : Guard) (n : BitVec 4) (s : State) : Out :=
  guarded s gd fun cu g => return g.atEnd cu (.jset n)

/-- JCLR. -/
def execJclr (gd : Guard) (n : BitVec 4) (s : State) : Out :=
  guarded s gd fun cu g => return g.atEnd cu (.jclr n)

/-- JWAIT: held until its bit reads 1 at the start of an sc; the bit clears at the end of that sc. -/
def execJwait (gd : Guard) (n : BitVec 4) (s : State) : Out :=
  guarded s gd fun cu g => do
    g.notStub
    if (g.tile cu.t).j.getLsbD n.toNat then return g.atEnd cu (.jclr n) else .error (.hold g)

/-- TRAP raises 0x3C0 + e precisely. -/
def execTrap (gd : Guard) (e : BitVec 6) (s : State) : Out :=
  guarded s gd fun _ g => do
    g.notStub
    .error (.cause (0x3C0 + e.toNat) 0)

/-- EXIT: the stream is idle from the next sc. -/
def execExit (gd : Guard) (s : State) : Out :=
  guarded s gd fun cu g => do
    g.notStub
    return g.atEnd cu .exit

/-! ### Effects at the end of an sc -/

def Stream.stop (x : Stream) : Stream :=
  { x with running := false, loops := {}, ls := none, va := none, mx := none, pend := [], skip := false, done := 0 }

/-- The bank of a forked stream: the clear engine's values but for k (08 R214); B's position is its own. -/
def Stream.forked (x : Stream) (target : Word) (ks : Vector Val 8) (at_ : Nat) : Stream :=
  { x with
    bank := { k := ks }
    running := true, startAt := at_, pc := target, skip := false, done := 0, pend := [], loops := {}
    ls := none, va := none, mx := none, waitFrom := none, arrived := false }

/-- jN ends the sc as (old AND NOT clears) OR sets (02 R47). -/
def syncAfter (old : BitVec 16) (es : List EndOp) : BitVec 16 :=
  let clr := es.foldl (fun m e => match e with | .jclr n => m ||| (1#16 <<< n.toNat) | _ => m) 0
  let set := es.foldl (fun m e => match e with | .jset n => m ||| (1#16 <<< n.toNat) | _ => m) 0
  (old &&& ~~~clr) ||| set

/-- TE.CFG in a resident image: policies and constants (10 R277, 12 R325). -/
def Table.configure (x : Table) (c : TabCfg) : Table where
  bytes := x.bytes.take 6 ++ [0#4 ++ c.highPol ++ c.lowPol, x.bytes.getD 7 0] ++ leBytes 8 c.consts.toNat ++ x.bytes.drop 16
  bad := x.bad.filter fun w => w ≠ 2 ∧ w ≠ 3

def TabSlot.configure (k : TabSlot) (c : TabCfg) : TabSlot :=
  { k with table := k.table.map fun x => x.configure c, cfgs := k.cfgs ++ [c] }

/-- One deferred effect but for the sync bits. A table load's slot keeps the table it held: a load that a frog cancels
has no further effect (12 R328). -/
def Tile.endEff (x : Tile) (now : Nat) (e : EndEff) : Tile :=
  match e.op with
  | .jset _ | .jclr _ => x
  | .exit => x.modStr e.strB Stream.stop
  | .fork target ks => { x with b := x.b.forked target ks (now + 2) }
  | .barInit b sc n =>
    { x with bars := x.bars.set b.toNat { x.bars[b.toNat]'b.isLt with scope := some sc, n := n, a := 0 } b.isLt }
  | .tabLoad t src =>
    { x with tabs := x.tabs.set t.toNat (some ⟨(x.tabs[t.toNat]'t.isLt).bind (·.table), src, []⟩) t.isLt }
  | .tabCfg t c =>
    { x with tabs := x.tabs.set t.toNat ((x.tabs[t.toNat]'t.isLt).map fun k => k.configure c) t.isLt }
  | .mset n v => { x with mp := x.mp.set n.toNat v n.isLt }
  | .descSet d p a b =>
    let ws := x.ds[d.toNat]'d.isLt
    { x with ds := x.ds.set d.toNat ((ws.setIfInBounds (2 * p.toNat) a).setIfInBounds (2 * p.toNat + 1) b) d.isLt }

/-- The end of an sc: deferred effects, sync bits, a written generator position. -/
def Region.endSc (g : Region) : Region :=
  let mine (t : Nat) : List EndEff := g.endEffs.filter fun e => e.tile = t
  let put (x : Stream) : Stream := match x.srNext with
    | some v => { x with srpos := v, srNext := none }
    | none => x
  { g with
    endEffs := []
    tiles := g.tiles.mapIdx fun t x =>
      let es := mine t
      let x := es.foldl (fun x e => x.endEff g.now e) x
      { x with j := syncAfter x.j (es.map (·.op)), a := put x.a, b := put x.b } }

end Sys2Proof.Machine
end

