-- ==== Sys2Proof/Machine/Sync.lean ====
section
/-! DEFINITION. Commits, named barriers and timeline counters in the CT slot (09 R239 to R251; 05 R118, R133). -/

namespace Sys2Proof.Machine

/-! ### Presenting a commit (02 R49; 09 R239) -/

/-- The record a commit names must be one of the pattern's, and not record 0. -/
def Region.recordOk (g : Region) (id : BitVec 16) : Except Stop Unit :=
  need (id != 0 && (g.pat.rec? id).isSome) 0x0B0

/-- No sticky slot may be active (07 R169). -/
def Region.noSticky (g : Region) (cu : Cursor) : Except Stop Unit :=
  let x := g.cur cu
  need (x.ls.isNone && x.va.isNone && x.mx.isNone) 0x0B1

/-- The stream has issued a commit: it is held until the commit takes place. Of two presentations of one bundle, an
ATOMR's and the CT slot's, the CT slot's stands (Assumption 65). -/
def Region.present (g : Region) (cu : Cursor) (k : CommitKind) (id : BitVec 16) : Except Stop Region := do
  g.notStub
  g.recordOk id
  g.noSticky cu
  return g.modStr cu.t cu.b fun x => { x with presented := some ⟨k, id, g.now⟩ }

/-- MARK. -/
def execMark (id : BitVec 16) (s : State) : Out := issueOp s fun cu g => g.present cu .mark id

/-- MARK.D. -/
def execMarkD (id : BitVec 16) (s : State) : Out := issueOp s fun cu g => g.present cu .markD id

/-! ### Named barriers (09 R243 to R247) -/

/-- The expected counts a scope allows (09 R245). -/
def Region.countMax (g : Region) : BarScope → Nat
  | .tile => if g.pat.split then 2 else 1
  | .quad => if g.pat.split then 8 else 4
  | .region => if g.pat.split then 2 * (g.pat.w * g.pat.h) else g.pat.w * g.pat.h

def Tile.bar (x : Tile) (b : BitVec 7) : Barrier := x.bars[b.toNat]'b.isLt

def Tile.modBar (x : Tile) (b : BitVec 7) (f : Barrier → Barrier) : Tile :=
  { x with bars := x.bars.set b.toNat (f (x.bar b)) b.isLt }

/-- BAR.INIT: in the issuing tile's copy, at the end of the sc. -/
def execBarInit (gd : Guard) (b : BitVec 7) (sc : BarScope) (n : SSrc) (s : State) : Out :=
  guarded s gd fun cu g => do
    let v ← g.readSound s cu n
    need (decide (1 ≤ v.toNat ∧ v.toNat ≤ g.countMax sc)) 0x0A1
    need (((g.tile cu.t).bar b).a == 0) 0x0A3
    return g.atEnd cu (.barInit b sc v.toNat)

/-- An arrival made now: it takes effect in sc max(T, L), T the present sc (05 R118). -/
def Region.arrive (g : Region) (cu : Cursor) (b : BitVec 7) : Region :=
  g.flyAt cu (max g.now (g.lastStore cu.t cu.b)) (.arrive b false)

/-- BAR.ARR. -/
def execBarArr (gd : Guard) (b : BitVec 7) (s : State) : Out :=
  guarded s gd fun cu g => return g.arrive cu b

/-- BAR.ARR.REL: commits, and arrives from the sc after the commit on (05 R132). -/
def execBarArrRel (b : BitVec 7) (id : BitVec 16) (s : State) : Out :=
  issueOp s fun cu g => g.present cu (.arrRel b) id

def Barrier.flag (x : Barrier) (b : Bool) : Bool := if b then x.pendB else x.pendA

def Barrier.target (x : Barrier) (b : Bool) : BitVec 32 := if b then x.targetB else x.targetA

def Barrier.setFlag (x : Barrier) (b v : Bool) : Barrier :=
  if b then { x with pendB := v } else { x with pendA := v }

/-- The stream's target phase has completed. -/
def Barrier.reached (x : Barrier) (b : Bool) : Bool := x.flag b && x.phase != x.target b

/-- The wait ends: its flag clears. -/
def Region.waitDone (g : Region) (cu : Cursor) (b : BitVec 7) : Region :=
  g.modTile cu.t fun x => x.modBar b fun k => k.setFlag cu.b false

/-- BAR.WAIT. With the flag clear it waits for the first completion in or after the sc of its presentation; the flag is
read anew in every sc of the hold (Assumption 64). -/
def execBarWait (gd : Guard) (b : BitVec 7) (s : State) : Out :=
  guarded s gd fun cu g =>
    let k := (g.tile cu.t).bar b
    let since := (g.cur cu).waitFrom.getD g.now
    let met := if k.flag cu.b then k.reached cu.b else
      match k.lastDone with
      | some d => decide (since ≤ d)
      | none => false
    if met then return g.waitDone cu b
    else .error (.hold (g.modStr cu.t cu.b fun x => { x with waitFrom := some since }))

/-- An arrival of this stream that has not taken effect. -/
def Region.arriving (g : Region) (cu : Cursor) (b : BitVec 7) : Bool :=
  g.flights.any fun f => f.what == .arrive b false && f.tile == cu.t && f.strB == cu.b

/-- BAR.AW: arrives when it is first presented, then waits for the phase of that arrival. -/
def execBarAw (gd : Guard) (b : BitVec 7) (s : State) : Out :=
  guarded s gd fun cu g =>
    if !(g.cur cu).arrived then
      .error (.hold ((g.arrive cu b).modStr cu.t cu.b fun x => { x with arrived := true }))
    else if !g.arriving cu b && ((g.tile cu.t).bar b).reached cu.b then return g.waitDone cu b
    else .error (.hold g)

/-! ### Timeline counters (09 R248 to R251) -/

/-- The counters that agents outside the region advance, in wall time (09 R248). -/
def isWallCounter (n : Nat) : Bool := decide (n ≤ 19) || n == 22 || n == 23

/-- A command of a counter still gated in the open stitch at or below a number (12 R311). -/
def Region.gatedUpTo (g : Region) (t n : Nat) (v : Word) : Bool :=
  g.cmds.any fun c => c.tile == t && c.ctr == n && decide (c.num ≤ v.toNat) && c.st == .gated

/-- Parked, the cause as the region meets it: a command of a committed stitch is named; one of the open stitch is
cancelled by the frog (18 R422, R423). -/
def Cmd.parkRaise (c : Cmd) (stitch : Nat) : Option Raise :=
  match c.st with
  | .parked cause va =>
    some ⟨cause, false, c.tile, false, 7, 0xFFFF_FFFF, va, some c.ctr, if c.stitch < stitch then some c.id else none⟩
  | _ => none

/-- The next command a wait on a counter waits for, where it is parked (18 R423). -/
def Region.nextParked (g : Region) (t n : Nat) : Option Raise :=
  (g.cmds.find? fun c => c.tile == t && c.ctr == n && decide (c.num = ((g.tile t).counter n).toNat + 1)).bind
    fun c => c.parkRaise g.stitch

/-- TLWAIT: the target is tbN + delta; an unmet wait freezes the region or holds the stream. -/
def execTlwait (gd : Guard) (n : BitVec 5) (delta : BitVec 16) (s : State) : Out :=
  guarded s gd fun cu g => do
    let v := ((g.cur cu).bank.getTb n).bits + delta.setWidth 64
    need (!g.gatedUpTo cu.t n.toNat v) 0x188
    if decide (v ≤ (g.tile cu.t).counter n.toNat) then return g.acquire cu.t n.toNat v
    else if isWallCounter n.toNat then .error (.freeze (g.nextParked cu.t n.toNat))
    else .error (.hold g)

/-- TLINC of one of tl24 to tl31: it lands at issue + 1, or remotely at issue + 6 + 2·d + 8·s, and takes effect
no earlier than the stream's earlier stores (05 R118). -/
def execTlinc (gd : Guard) (n : BitVec 3) (amt : SSrc) (rem : Option (BitVec 8 × BitVec 8)) (s : State) : Out :=
  guarded s gd fun cu g => do
    let v ← g.readSound s cu amt
    let (tile, lat) ← match rem with
      | none => pure (cu.t, 1)
      | some (dx, dy) =>
        match g.remote cu.t dx dy with
        | none => throw (.cause 0x092 0)
        | some (tile, d, k) => pure (tile, 6 + 2 * d + 8 * k)
    return g.flyAt cu (max (g.now + lat) (g.lastStore cu.t cu.b)) (.inc tile (3#2 ++ n) (v.extractLsb' 0 32))

/-- TLRD. -/
def execTlrd (gd : Guard) (d : SDst) (n : BitVec 5) (s : State) : Out :=
  guarded s gd fun cu g => return g.fly cu 1 (.scalar (some d) none ⟨(g.tile cu.t).counter n.toNat, false⟩)

/-- TLBASE and TLBASE.ADD. -/
def execTlbase (gd : Guard) (n : BitVec 5) (add : Bool) (a : SSrc) (s : State) : Out :=
  guarded s gd fun cu g => do
    let v ← g.readSound s cu a
    let old := (g.cur cu).bank.getTb n
    return g.fly cu 1 (.tb n (if add then ⟨old.bits + v, old.bad⟩ else ⟨v, false⟩))

/-! ### What takes effect at its own sc -/

/-- The tiles that are members of a barrier of this scope with a tile (09 R243). -/
def Region.members (g : Region) (t : Nat) : BarScope → List Nat
  | .tile => [t]
  | .quad => (List.range g.tiles.length).filter fun u => g.quad u = g.quad t
  | .region => List.range g.tiles.length

/-- The interval from the last arrival to the completion (09 R246). -/
def Region.interval (g : Region) : BarScope → Nat
  | .tile => 2
  | .quad => 4
  | .region => 8 + 2 * (g.pat.w + g.pat.h)

/-- One arrival in one member copy; the copy whose N-th arrival it is completes after the interval. -/
def Region.arriveAt (g : Region) (f : Fly) (b : BitVec 7) (sc : BarScope) (u : Nat) : Region :=
  let g := g.modTile u fun x => x.modBar b fun k => { k with a := k.a + 1 }
  let k := (g.tile u).bar b
  if k.a = k.n then
    { g with flights := g.flights ++ [⟨g.now + g.interval sc, g.now, f.key, u, f.strB, .phase b⟩] }
  else g

/-- 0x0A2 or 0x0A4 of the first tile whose copy fails the check (21 R469; Assumption 75); the stream is the arriving one where that is
its own tile. -/
def Region.arrivalFails (g : Region) (f : Fly) (c : Cause) (fails : List Nat) : Region :=
  match fails.head? with
  | some u => g.raiseEvent u (decide (u = f.tile) && f.strB) c 0 none none
  | none => g

/-- An arrival takes effect (09 R246): 0x0A2 where a copy does not match, 0x0A4 where the phase is full. -/
def Region.arrival (g : Region) (f : Fly) (b : BitVec 7) : Region :=
  let g := { g with flights := g.flights.erase f }
  let k := (g.tile f.tile).bar b
  match k.scope with
  | none => g.raiseEvent f.tile f.strB 0x0A2 0 none none
  | some sc =>
    let ms := g.members f.tile sc
    let differs := ms.filter fun u => ((g.tile u).bar b).scope != some sc || ((g.tile u).bar b).n != k.n
    let full := ms.filter fun u => decide (((g.tile u).bar b).n ≤ ((g.tile u).bar b).a)
    if !differs.isEmpty then g.arrivalFails f 0x0A2 differs
    else if !full.isEmpty then g.arrivalFails f 0x0A4 full
    else
      let g := ms.foldl (fun g u => g.arriveAt f b sc u) g
      g.modTile f.tile fun x => x.modBar b fun k =>
        if f.strB then { k with targetB := k.phase, pendB := true } else { k with targetA := k.phase, pendA := true }

/-- A phase completes in one copy. -/
def Region.phaseDone (g : Region) (f : Fly) (b : BitVec 7) : Region :=
  ({ g with flights := g.flights.erase f } : Region).modTile f.tile fun x => x.modBar b fun k =>
    { k with phase := k.phase + 1, a := 0, lastDone := some g.now }

/-- An increment takes effect (09 R249). One that the open stitch issued counts among the numbers it consumed; one
issued in a committed stitch does not, for a re-entered attempt does not issue it again (02 R50). -/
def Region.increment (g : Region) (f : Fly) (t : Nat) (n : BitVec 5) (amt : BitVec 32) : Region :=
  ({ g with flights := g.flights.erase f } : Region).modTile t fun x =>
    if g.ckpt.sc ≤ f.iss then x.inc n.toNat amt.toNat else x.bump n.toNat amt.toNat

end Sys2Proof.Machine
end

