-- ==== Sys2Proof/Machine/MemLocal.lean ====
section
/-! DEFINITION. Scratchpad loads and stores, near and remote (09 R223 to R226; 05 R117). -/

namespace Sys2Proof.Machine

/-- The step S of an LS-class operation. -/
def stepOf (k : BitVec 20) : List Int := [k.toInt]

/-- A scratchpad access of z bytes at a is aligned, and lies below 0x8000·Nb (03 R75; 09 R225). -/
def Region.spCheck (g : Region) (a z : Nat) : Except Stop Unit := do
  need (decide (a % z = 0)) 0x091
  need (decide (a + z ≤ g.spLimit)) 0x090

/-- A read by the region's own operation that meets poison in a clean-filled segment raises 0x302 (20 R445). -/
def Region.cleanCheck (g : Region) (t a n : Nat) : Except Stop Unit :=
  if (g.tile t).cleanHit a n then .error (.event 0x302 ((g.tile t).hitSeg a n)) else .ok ()

/-- The value of z loaded bytes. -/
def loadVal (sx : Bool) (ps : List PByte) : Val :=
  let (v, bad) := leVal ps
  ⟨if sx then BitVec.ofInt 64 (signedOf (8 * ps.length) v) else BitVec.ofNat 64 v, bad⟩

/-- The bytes a store of z bytes writes. -/
def storeBytes (z : Nat) (x : Val) : List PByte := taint x.bad (leBytes z x.bits.toNat)

/-! ### Local (09 R225) -/

/-- A local load: z bytes, sampled now, landing at issue + 4 in the destination and lm. -/
def localLoad (s : State) (op : Instr) (z : Nat) (sx : Bool) (o : LdA) : Out :=
  stickyGuarded s op o.gd (stepOf o.step)
    (fun cu g => do
      let a ← g.sum3 s cu o.a o.b o.c o.imm
      return [a])
    fun cu g as => do
      let a ← firstAddr as
      g.spCheck a.toNat z
      g.cleanCheck cu.t a.toNat z
      return g.fly cu 4 (.scalar (some o.d) (some .lm) (loadVal sx (g.spRead s.fresh cu.t a.toNat z)))

/-- A local store: it performs at issue + 2. -/
def localStore (s : State) (op : Instr) (z : Nat) (o : StA) : Out :=
  stickyGuarded s op o.gd (stepOf o.step)
    (fun cu g => do
      let a ← g.sum2 s cu o.a o.c o.imm
      return [a])
    fun cu g as => do
      let v ← g.readS s cu o.b
      let a ← firstAddr as
      g.spCheck a.toNat z
      return g.fly cu 2 (.store cu.t [(a.toNat, storeBytes z v)])

/-- LD.B. -/
def execLdB (o : LdA) (s : State) : Out := localLoad s (.ldB o) 1 false o

/-- LD.H. -/
def execLdH (o : LdA) (s : State) : Out := localLoad s (.ldH o) 2 false o

/-- LD.W. -/
def execLdW (o : LdA) (s : State) : Out := localLoad s (.ldW o) 4 false o

/-- LD.D. -/
def execLdD (o : LdA) (s : State) : Out := localLoad s (.ldD o) 8 false o

/-- LDS.B. -/
def execLdsB (o : LdA) (s : State) : Out := localLoad s (.ldsB o) 1 true o

/-- LDS.H. -/
def execLdsH (o : LdA) (s : State) : Out := localLoad s (.ldsH o) 2 true o

/-- LDS.W. -/
def execLdsW (o : LdA) (s : State) : Out := localLoad s (.ldsW o) 4 true o

/-- ST.B. -/
def execStB (o : StA) (s : State) : Out := localStore s (.stB o) 1 o

/-- ST.H. -/
def execStH (o : StA) (s : State) : Out := localStore s (.stH o) 2 o

/-- ST.W. -/
def execStW (o : StA) (s : State) : Out := localStore s (.stW o) 4 o

/-- ST.D. -/
def execStD (o : StA) (s : State) : Out := localStore s (.stD o) 8 o

/-! ### Remote (09 R226; 02 R34, R35) -/

/-- Bytes of an access width. -/
def widBytes : Wid → Nat
  | .b => 1
  | .h => 2
  | .w => 4
  | .d => 8

/-- The target tile, the distance and the seams of a remote access; 0x092 outside the region. -/
def Region.target (g : Region) (cu : Cursor) (dx dy : BitVec 8) : Except Stop (Nat × Nat × Nat) :=
  match g.remote cu.t dx dy with
  | some r => .ok r
  | none => .error (.cause 0x092 0)

/-- LDX: samples the target at issue + 3 + d + 4·s, landing at issue + 6 + 2·d + 8·s. -/
def execLdx (o : LdxA) (s : State) : Out :=
  stickyGuarded s (.ldx o) o.gd (stepOf o.step)
    (fun cu g => do
      let a ← g.sum2 s cu o.a o.c 0
      return [a])
    fun cu g as => do
      let a ← firstAddr as
      let (u, d, k) ← g.target cu o.dx o.dy
      g.spCheck a.toNat (widBytes o.w)
      return g.fly cu (3 + d + 4 * k)
        (.sample u a.toNat (widBytes o.w) o.s o.d (g.now + (6 + 2 * d + 8 * k)))

/-- STX: performs at issue + 6 + 2·d + 8·s. -/
def execStx (o : StxA) (s : State) : Out :=
  stickyGuarded s (.stx o) o.gd (stepOf o.step)
    (fun cu g => do
      let a ← g.sum2 s cu o.a o.c 0
      return [a])
    fun cu g as => do
      let v ← g.readS s cu o.b
      let a ← firstAddr as
      let (u, d, k) ← g.target cu o.dx o.dy
      g.spCheck a.toNat (widBytes o.w)
      return g.fly cu (6 + 2 * d + 8 * k) (.store u [(a.toNat, storeBytes (widBytes o.w) v)])

/-! ### Performing -/

/-- A store performs: its bytes are written in its tile's scratchpad; what a vector store's parts write whole and clean
together loses its poison (20 R441). -/
def Region.perform (g : Region) (fresh : Nat) (f : Fly) (t : Nat) (parts : List (Nat × List PByte)) : Region :=
  let g : Region := { g with flights := g.flights.erase f }
  (parts.foldl (fun g p => g.spWrite fresh t p.1 p.2) g).modTile t fun x => { x with sp := x.sp.heal spGran parts }

/-- A remote load samples its target; the value lands with the load's own place in the order. -/
def Region.sample (g : Region) (fresh : Nat) (f : Fly) (t a n : Nat) (sx : Bool) (d : SDst) (due : Nat) : Region :=
  let rest := g.flights.erase f
  if (g.tile t).cleanHit a n then ({ g with flights := rest } : Region).raiseEvent t f.strB 0x302 ((g.tile t).hitSeg a n) none none
  else
    { g with flights := rest ++
        [⟨due, f.iss, f.key, f.tile, f.strB, .scalar (some d) (some .lm) (loadVal sx (g.spRead fresh t a n))⟩] }

end Sys2Proof.Machine
end

