-- ==== Sys2Proof/Machine/Global.lean ====
section
/-! DEFINITION. Handles, global loads and stores, atomics, reductions and FENCE.C (09 R227 to R238), and the order
of a tile's global accesses (05 R119, R126 to R130, R135). -/

namespace Sys2Proof.Machine

/-! ### Handles (09 R227, R229) -/

/-- The translation store (03 R88): a page already translated for the region. -/
def Region.translated (g : Region) (va : Nat) : Option Page :=
  g.trans.find? fun p => decide (p.base ≤ va) && decide (va < p.base + p.size)

/-- A result awaited from wall time (02 R38). -/
def Region.await (g : Region) (cu : Cursor) (id lat : Nat) (k : AwaitKind) (st : AwaitSt) (d : Option SDst)
    (h : Option (BitVec 4)) (page : Option Page) (addr : Nat) : Region :=
  { g with awaits := g.awaits ++
      [{ id := id, kind := k, st := st, tile := cu.t, strB := cu.b, due := g.now + lat, iss := g.now
         key := orderKey g.now cu.t cu.b cu.slot
         dst := d, hnd := h, live := true, latch := h.isNone, page := page, addr := addr
         landed := false, lost := false, got := [], sends := 0 }] }

/-- XLATE: the handle lands at issue + 24 (0x100 where V does not fit). -/
def execXlate (o : XlateA) (s : State) : Out :=
  stickyGuarded s (.xlate o) o.gd (stepOf o.step)
    (fun cu g => do
      let a ← g.sum3 s cu o.a o.b o.c o.imm
      return [a])
    fun cu g as => do
      let v ← firstAddr as
      needAt (decide (v.toNat < 2 ^ 57)) 0x100 v.toNat
      let st : AwaitSt := match g.translated v.toNat with
        | some p => .handle ⟨v.toNat, p⟩
        | none => .waiting
      return g.await cu s.fresh 24 (.xlate v.toNat) st none (some o.h) none v.toNat

/-- HREL: the valid bit clears now, and an XLATE to the register still on its way is discarded. Stream B's copy clears as
B issues it (02 R43). -/
def execHrel (gd : Guard) (h : BitVec 4) (s : State) : Out :=
  stickyGuarded s (.hrel gd h) gd [] (fun _ _ => .ok []) fun cu g _ =>
    let g := g.modStr cu.t cu.b fun k => { k with bank := k.bank.setH h none }
    return { g with awaits := g.awaits.filter fun a => !(a.tile == cu.t && a.strB == cu.b && a.hnd == some h) }

/-! ### Access checks (09 R230) -/

/-- What an access needs of its page. -/
inductive Need | load | store | both
  deriving DecidableEq, Repr

def Need.ok (n : Need) (p : Page) : Bool :=
  match n with
  | .load => p.rd
  | .store => p.wr
  | .both => p.rd && p.wr

/-- The checks in their order: 0x104, 0x105, 0x106, 0x107. -/
def Region.access (g : Region) (cu : Cursor) (h : BitVec 4) (off : Word) (z : Nat) (n : Need) (aligned : Bool) :
    Except Stop (Nat × Page) := do
  let x ← g.handle cu h
  let va := (BitVec.ofNat 64 x.va + off).toNat
  needAt (decide (x.page.base ≤ va ∧ va + z ≤ x.page.base + x.page.size)) 0x105 va
  needAt (n.ok x.page) 0x106 va
  needAt (!aligned || decide (va % z = 0)) 0x107 va
  return (va, x.page)

/-- Room for one more gated item (09 R242). -/
def Region.itemRoom (g : Region) : Except Stop Unit :=
  need (decide ((g.items.filter fun i => !i.released).length < 256)) 0x098

/-! ### The order of a tile's accesses -/

/-- The bytes an access touches, where they are. -/
def spanOf (p : Page) (va n : Nat) : Target × BitVec 20 × Nat × Nat :=
  ((p.home va).target, (p.home va).dev, (p.home va).addr, n)

/-- Two spans share a byte; host memory is one, whichever way it is reached. -/
def spansMeet (a b : Target × BitVec 20 × Nat × Nat) : Bool :=
  let host (t : Target) : Bool := t = .cxl || t = .pcie
  (a.1 = b.1 || (host a.1 && host b.1)) && a.2.1 = b.2.1 &&
    decide (a.2.2.1 < b.2.2.1 + b.2.2.2) && decide (b.2.2.1 < a.2.2.1 + a.2.2.2)

/-- Put an entry before the last entries of which `p` holds. -/
def putBefore {α : Type} (p : α → Bool) (x : α) (l : List α) : List α :=
  let late := (l.reverse.takeWhile p).reverse
  l.take (l.length - late.length) ++ x :: late

/-- An access takes its place in its tile's issue order. Within one sc the LS slot's access comes before the EC slot's
command, though the command's stream may issue first (05 R119). -/
def Region.ordered (g : Region) (cu : Cursor) (e : Acc) : Region :=
  g.modTile cu.t fun x => { x with order :=
    if e.engine then x.order ++ [e] else putBefore (fun f => f.engine && f.iss == g.now) e x.order }

/-- A FENCE.C after X and before Y that names both classes; `late` asks that X was released before it. -/
def fenced (between : List Acc) (x y : Acc) (late : Bool) : Bool :=
  between.any fun f =>
    match f.fence with
    | some m => m.getLsbD x.cls.toNat && m.getLsbD y.cls.toNat && (!late || decide (x.stitch < f.stitch))
    | none => false

/-- A home span of global memory. -/
abbrev Span := Target × BitVec 20 × Nat × Nat

/-- The reads of an engine command: ordered before later items only once its completion is acquired (05 R135). -/
def Acc.engineRead (x : Acc) : Bool := x.engine && !x.item

/-- Whether Y is ordered after the earlier X, which is not yet performed (05 R127 to R130, R135); `meet` says that they
touch a byte in common. An ATOMR is a load and an item. A transfer or fill reads and writes no global memory: only an
acquire orders it (05 R129). -/
def orders (between : List Acc) (meet : Bool) (x y : Acc) : Bool :=
  if x.fence.isSome then false
  else if x.acq then true
  else if x.engineRead && y.item then y.load && x.load && (x.cls == y.cls || fenced between x y false)
  else if meet && !(x.item && y.load && !y.item && x.stitch == y.stitch) then true
  else
    (x.load && y.load && (x.cls == y.cls || fenced between x y false)) || (x.load && y.item) ||
    (x.item && y.item && (x.cls == y.cls || fenced between x y false)) || ((x.load || x.item) && y.item && y.rel) ||
    (x.item && y.load && fenced between x y true)

/-- The entry may be performed: nothing before it, not yet performed, is ordered before it. `sp` gives the bytes an
entry touches. -/
def mayPerform (sp : Acc → List Span) (l : List Acc) (id : Nat) : Bool :=
  match l.find? fun e => e.id = id with
  | none => true
  | some y =>
    let pre := l.takeWhile fun e => e.id ≠ id
    let rec go : List Acc → Bool
      | [] => true
      | x :: r => !orders r ((sp x).any fun a => (sp y).any (spansMeet a)) x y && go r
    go pre

/-- Performed entries leave; fences with nothing before them leave too. -/
def Tile.performed (x : Tile) (id : Nat) : Tile :=
  { x with order := (x.order.filter fun e => e.id ≠ id).dropWhile fun e => e.fence.isSome }

/-! ### Loads and gated items (09 R231 to R237) -/

def Flav.acquires : Flav → Bool
  | .acq | .ar => true
  | _ => false

def Flav.releases : Flav → Bool
  | .rel | .ar => true
  | _ => false

/-- The entry of an LS access in its tile's order. -/
def Region.accOf (g : Region) (id : Nat) (load item : Bool) (att : GAtt) (p : Page) (va z : Nat) : Acc where
  id := id
  load := load
  item := item
  engine := false
  fence := none
  cls := att.cls
  acq := load && Flav.acquires att.flav
  rel := item && Flav.releases att.flav
  stitch := g.stitch
  iss := g.now
  spans := [spanOf p va z]

def dstOf (d : SDst) : Option SDst := if d = .g 0 then none else some d

/-- GLD: lands at issue + 384, or freezes what reads it before it arrives. -/
def execGld (o : GldA) (s : State) : Out :=
  stickyGuarded s (.gld o) o.gd (stepOf o.step)
    (fun cu g => do
      let b ← g.readS s cu o.b
      return [b.plus ⟨o.att.d7.signExtend 64, false⟩])
    fun cu g as => do
      let off ← firstAddr as
      let (va, p) ← g.access cu o.h off (widBytes o.w) .load false
      let g := g.await cu s.fresh 384 (.gld (widBytes o.w) o.s) .waiting (dstOf o.d) none (some p) va
      return g.ordered cu (g.accOf s.fresh true false o.att p va (widBytes o.w))

/-- The width code of a gated item (13 R358): log2 of its bytes. -/
def widCode : Nat → BitVec 8
  | 1 => 0
  | 2 => 1
  | 4 => 2
  | _ => 3

/-- Byte 1 of an item's record: the width code of a store, the operation code of an atomic or reduction. -/
def ItemKind.code (k : ItemKind) (z : Nat) : BitVec 8 :=
  match k with
  | .gst => widCode z
  | .atom op .. | .red op .. | .atomr op .. => (AOp.code op).setWidth 8
  | .cmd _ => 0

def Item.ofEngine (i : Item) : Bool :=
  match i.kind with
  | .cmd _ => true
  | _ => false

/-- Add a gated item of the LS slot, in the tile's issue order (05 R119). -/
def Region.gate (g : Region) (cu : Cursor) (id : Nat) (k : ItemKind) (va z : Nat) (p : Page) (bs : List Byte) (bad : Bool)
    (att : GAtt) (load : Bool) : Region :=
  let i : Item :=
    { id := id, kind := k, tile := cu.t, key := orderKey g.now cu.t cu.b cu.slot, stitch := g.stitch
      released := false, va := va, page := some p, bytes := bs, bad := bad, cls := att.cls
      scope := att.scope.code, flav := att.flav.code, wcode := k.code z, tag := none, lost := false, moved := [], sends := 0 }
  let g : Region := { g with items := putBefore (fun j => j.ofEngine && j.tile == cu.t && j.key / 65536 == g.now) i g.items }
  g.ordered cu (g.accOf id load true att p va z)

/-- GST. -/
def execGst (o : GstA) (s : State) : Out :=
  stickyGuarded s (.gst o) o.gd (stepOf o.step)
    (fun cu g => do
      let c ← g.readS s cu o.c
      return [c.plus ⟨o.att.d7.signExtend 64, false⟩])
    fun cu g as => do
      g.notStub
      let v ← g.readS s cu o.b
      let off ← firstAddr as
      let z := widBytes o.w
      let (va, p) ← g.access cu o.h off z .store false
      g.itemRoom
      return g.gate cu s.fresh .gst va z p (leBytes z v.bits.toNat) v.bad o.att false

def atomBytes (dw : Bool) : Nat := if dw then 8 else 4

/-- An item that reads and writes its location: ATOM and RED. -/
def gatedUpdate (s : State) (op : Instr) (k : Word → ItemKind) (o : AtomA) : Out :=
  stickyGuarded s op o.gd (stepOf o.step)
    (fun cu g => do
      let c ← g.readS s cu o.c
      return [c.plus ⟨o.att.d7.signExtend 64, false⟩])
    fun cu g as => do
      g.notStub
      let v ← g.readS s cu o.b
      let off ← firstAddr as
      let z := atomBytes o.dw
      let (va, p) ← g.access cu o.h off z .both true
      g.itemRoom
      return g.gate cu s.fresh (k v.bits) va z p (leBytes z v.bits.toNat) v.bad o.att false

/-- ATOM. -/
def execAtom (o : AtomA) (s : State) : Out := gatedUpdate s (.atom o) (fun v => .atom o.op o.dw v) o

/-- RED. -/
def execRed (o : AtomA) (s : State) : Out := gatedUpdate s (.red o) (fun v => .red o.op o.dw v) o

/-- ATOMR: a committing instruction; its initiating issue leaves the LS slot inactive (07 R169), and no other sticky slot
may be active, an operation of the same bundle counting as active. -/
def execAtomr (o : AtomrA) (s : State) : Out :=
  issueOp s fun cu g => do
    g.notStub
    let v ← g.readS s cu o.b
    let c ← g.readS s cu o.c
    let off := if o.op = .cas then (⟨o.att.d7.signExtend 64, false⟩ : Val) else c.plus ⟨o.att.d7.signExtend 64, false⟩
    let off ← off.sound
    let z := atomBytes o.dw
    let id ← match o.rid with
      | some id => pure id
      | none => throw (.cause 0x0B0 0)
    g.recordOk id
    let (va, p) ← g.access cu o.h off z .both true
    let g := g.modStr cu.t cu.b fun x => { x with ls := none }
    let x := g.cur cu
    need ((x.va.isNone && x.mx.isNone) && !cu.present.getLsbD 3 && !cu.present.getLsbD 4) 0x0B1
    g.itemRoom
    let bad := v.bad || (o.op == .cas && c.bad)
    let g := g.gate cu s.fresh (.atomr o.op o.dw v.bits c.bits s.fresh) va z p (leBytes z v.bits.toNat) bad o.att true
    -- the destination is remembered with the awaited result, made now and due once the commit is known
    let w : Await :=
      { id := s.fresh, kind := .atomr, st := .waiting, tile := cu.t, strB := cu.b, due := 0, iss := g.now
        key := orderKey g.now cu.t cu.b cu.slot, dst := dstOf o.d, hnd := none, live := true, latch := true
        page := some p, addr := va, landed := true, lost := false, got := [], sends := 0 }
    let g : Region := { g with awaits := g.awaits ++ [w] }
    return g.modStr cu.t cu.b fun x => { x with presented := some ⟨.atomr, id, g.now⟩ }

/-- FENCE.C. -/
def execFenceC (gd : Guard) (m : BitVec 16) (s : State) : Out :=
  stickyGuarded s (.fenceC gd m) gd [] (fun _ _ => .ok []) fun cu g _ =>
    return g.ordered cu
      { id := s.fresh, load := false, item := false, engine := false, fence := some m, cls := 0
        acq := false, rel := false, stitch := g.stitch, iss := g.now, spans := [] }

/-! ### At the home (05 R139; 09 R233) -/

/-- The new value of an operation on n bits. -/
def aopNew (op : AOp) (n : Nat) (old v cmp : Word) : Word :=
  let x := uval n old
  let y := uval n v
  let r : Nat := match op with
    | .add => x + y
    | .and => x &&& y
    | .or => x ||| y
    | .xor => x ^^^ y
    | .min => if sval n old ≤ sval n v then x else y
    | .max => if sval n v ≤ sval n old then x else y
    | .minu => Nat.min x y
    | .maxu => Nat.max x y
    | .fadd => rn32 (Exact.sum false [f32Val x, f32Val y])
    | .swap => y
    | .cas => if x = uval n cmp then y else x
  BitVec.ofNat 64 (r % 2 ^ n)

end Sys2Proof.Machine
end

