-- ==== Sys2Proof/Machine/Vector.lean ====
section
/-! DEFINITION. The VA slot: element arithmetic, compares, moves, reductions, conversions, block scaling, lane masks
and VTBL (10 R255 to R279; 04 R95 to R101, R105, R110 to R115). -/

namespace Sys2Proof.Machine

/-! ### Elements and lanes (10 R255) -/

/-- The lane an element belongs to: the one that holds its bit 0. -/
def laneOfElem (w e : Nat) : Nat := w * e / 32

/-- An element of a source and whether a bit of it is poisoned. -/
def VVal.elem (x : VVal) (w e : Nat) : Nat × Bool :=
  match x with
  | .reg r => (elemOf w r.bits e, r.bad.getLsbD (laneOfElem w e) || r.bad.getLsbD ((w * e + w - 1) / 32))
  | .all v bad => (v, bad)

/-- An element to write: its index, its value, its poison. -/
abbrev ElemOut := Nat × Nat × Bool

/-- The write of elements of w bits into a vector register. -/
def elemWrite (d : BitVec 5) (w : Nat) (es : List ElemOut) : Flight :=
  let bits := es.foldl (fun acc e => acc + e.2.1 % 2 ^ w * 2 ^ (w * e.1)) 0
  let wr := es.foldl (fun acc e => acc + (2 ^ w - 1) * 2 ^ (w * e.1)) 0
  .vec d (BitVec.ofNat 1024 bits) (BitVec.ofNat 1024 wr)
    (bvOf 32 fun l => es.any fun e => laneOfElem w e.1 = l && e.2.2)

/-- The random word of element e for the issue (04 R103). -/
def Region.rand (g : Region) (cu : Cursor) (e : Nat) : BitVec 32 :=
  srWord g.launch.seed (g.cur cu).srpos cu.t cu.b e

/-- A stochastic rounding takes one position, whatever its mask (04 R104). -/
def Region.bump (g : Region) (cu : Cursor) (m : Rnd) : Region :=
  if m = .sr then g.modStr cu.t cu.b fun x => { x with srpos := x.srpos + 1 } else g

/-- The admitted elements of a format under a lane mask. -/
def admitted (mask : BitVec 32) (f : Fmt) : List Nat :=
  (List.range f.count).filter fun e => mask.getLsbD (laneOfElem f.width e)

/-- What computes one element: the format, the random word, and the source elements. -/
abbrev ElemFn := VMod → BitVec 32 → Nat → Nat → Nat → Nat

/-- A family that computes each element from the same element of its first n sources. -/
def elementwise (s : State) (op : Instr) (n : Nat) (lat : VMod → Nat) (fn : ElemFn) (o : VopA) : Out :=
  stickyVec s op fun cu g => do
    let mask ← g.lanes cu o.m.gd
    let f := o.m.fmt
    let a ← g.readV s cu f o.a
    let b ← if 1 < n then g.readV s cu f o.b else pure (.all 0 false)
    let c ← if 2 < n then g.readV s cu f o.c else pure (.all 0 false)
    let outs := (admitted mask f).map fun e =>
      let x := a.elem f.width e
      let y := b.elem f.width e
      let z := c.elem f.width e
      (e, fn o.m (g.rand cu e) x.1 y.1 z.1, x.2 || y.2 || z.2)
    return (g.bump cu o.m.rnd).fly cu (lat o.m) (elemWrite o.d f.width outs)

/-- A latency of 4 for floating and 2 for integer elements. -/
def latFI (m : VMod) : Nat := if m.fmt.isInt then 2 else 4

/-! ### Element arithmetic (10 R263 to R265) -/

/-- Round an exact value to the element format under the operation's rounding field (04 R113). -/
def vround (m : VMod) (rand : BitVec 32) (x : Exact) : Nat := convert m.fmt m.rnd m.sat rand x

def vsum (m : VMod) (xs : List Exact) : Exact := Exact.sum (m.rnd == .rdn) xs

def addFn : ElemFn := fun m rand x y _ =>
  if m.fmt.isInt then (x + y) % 2 ^ m.fmt.width
  else vround m rand (vsum m [fmtValue m.fmt x, fmtValue m.fmt y])

def subFn : ElemFn := fun m rand x y _ =>
  if m.fmt.isInt then encInt m.fmt.width ((x : Int) - y)
  else vround m rand (vsum m [fmtValue m.fmt x, (fmtValue m.fmt y).negate])

def mulFn : ElemFn := fun m rand x y _ =>
  if m.fmt.isInt then x * y % 2 ^ m.fmt.width
  else vround m rand ((fmtValue m.fmt x).mul (fmtValue m.fmt y))

/-- An integer element's value: signed, or unsigned with .U. -/
def intOf (u : Bool) (w x : Nat) : Int := if u then (x % 2 ^ w : Nat) else signedOf w x

def pickFn (greater : Bool) : ElemFn := fun m _ x y _ =>
  if m.fmt.isInt then
    let i := intOf m.v4 m.fmt.width x
    let j := intOf m.v4 m.fmt.width y
    if greater then (if j ≤ i then x else y) else (if i ≤ j then x else y)
  else floatPick m.fmt greater x y

def absFn : ElemFn := fun m _ x _ _ =>
  let w := m.fmt.width
  if m.fmt.isInt then encInt w (signedOf w x).natAbs
  else if (fmtValue m.fmt x).isNan then fmtNan m.fmt else x % 2 ^ (w - 1)

def negFn : ElemFn := fun m _ x _ _ =>
  let w := m.fmt.width
  if m.fmt.isInt then encInt w (-(x : Int))
  else if (fmtValue m.fmt x).isNan then fmtNan m.fmt else x ^^^ 2 ^ (w - 1)

def fmaFn : ElemFn := fun m rand x y z =>
  vround m rand (vsum m [(fmtValue m.fmt x).mul (fmtValue m.fmt y), fmtValue m.fmt z])

/-- Saturating sum or difference (10 R265). -/
def satFn (sub : Bool) : ElemFn := fun m _ x y _ =>
  let w := m.fmt.width
  let i := intOf m.v4 w x
  let j := intOf m.v4 w y
  let r := if sub then i - j else i + j
  encInt w (if m.v4 then satU w r else satS w r)

/-- VADD. -/
def execVadd (o : VopA) (s : State) : Out := elementwise s (.vadd o) 2 latFI addFn o

/-- VSUB. -/
def execVsub (o : VopA) (s : State) : Out := elementwise s (.vsub o) 2 latFI subFn o

/-- VMUL. -/
def execVmul (o : VopA) (s : State) : Out := elementwise s (.vmul o) 2 latFI mulFn o

/-- VMIN. -/
def execVmin (o : VopA) (s : State) : Out := elementwise s (.vmin o) 2 (fun _ => 2) (pickFn false) o

/-- VMAX. -/
def execVmax (o : VopA) (s : State) : Out := elementwise s (.vmax o) 2 (fun _ => 2) (pickFn true) o

/-- VABS. -/
def execVabs (o : VopA) (s : State) : Out := elementwise s (.vabs o) 1 (fun _ => 2) absFn o

/-- VNEG. -/
def execVneg (o : VopA) (s : State) : Out := elementwise s (.vneg o) 1 (fun _ => 2) negFn o

/-- VFMA: one rounding of a·b + c. -/
def execVfma (o : VopA) (s : State) : Out := elementwise s (.vfma o) 3 (fun _ => 5) fmaFn o

/-- VAND. -/
def execVand (o : VopA) (s : State) : Out := elementwise s (.vand o) 2 (fun _ => 2) (fun _ _ x y _ => x &&& y) o

/-- VOR. -/
def execVor (o : VopA) (s : State) : Out := elementwise s (.vor o) 2 (fun _ => 2) (fun _ _ x y _ => x ||| y) o

/-- VXOR. -/
def execVxor (o : VopA) (s : State) : Out := elementwise s (.vxor o) 2 (fun _ => 2) (fun _ _ x y _ => x ^^^ y) o

/-- VSHL. -/
def execVshl (o : VopA) (s : State) : Out := elementwise s (.vshl o) 2 (fun _ => 2) (fun m _ x y _ => x * 2 ^ (y % m.fmt.width)) o

/-- VSHR. -/
def execVshr (o : VopA) (s : State) : Out := elementwise s (.vshr o) 2 (fun _ => 2) (fun m _ x y _ => x / 2 ^ (y % m.fmt.width)) o

/-- VSAR. -/
def execVsar (o : VopA) (s : State) : Out := elementwise s (.vsar o) 2 (fun _ => 2) (fun m _ x y _ => encInt m.fmt.width (signedOf m.fmt.width x / 2 ^ (y % m.fmt.width))) o

/-- VADDS. -/
def execVadds (o : VopA) (s : State) : Out := elementwise s (.vadds o) 2 (fun _ => 2) (satFn false) o

/-- VSUBS. -/
def execVsubs (o : VopA) (s : State) : Out := elementwise s (.vsubs o) 2 (fun _ => 2) (satFn true) o

/-! ### Compares (10 R266) -/

/-- The relation of one pair of elements. -/
def relElem (r : VRel) (m : VMod) (x y : Nat) : Bool :=
  if m.fmt.isInt then r.holds (.ofInt (intOf m.v4 m.fmt.width x)) (.ofInt (intOf m.v4 m.fmt.width y))
  else r.holds (fmtValue m.fmt x) (fmtValue m.fmt y)

/-- A compare: bit l is the AND, with .ANY the OR, over the elements of lane l; any poison read poisons the
whole destination (20 R442). -/
def vcompare (s : State) (op : Instr) (r : VRel) (o : VcmpA) : Out :=
  stickyVec s op fun cu g => do
    let mask ← g.lanes cu o.m.gd
    let f := o.m.fmt
    let a ← g.readV s cu f o.a
    let b ← g.readV s cu f o.b
    let per := 32 / f.width
    let bits := bvOf 32 fun l =>
      let rs := (List.range per).map fun i => relElem r o.m (a.elem f.width (per * l + i)).1 (b.elem f.width (per * l + i)).1
      if o.m.v5 then rs.any id else rs.all id
    let bad := (admitted mask f).any fun e => (a.elem f.width e).2 || (b.elem f.width e).2
    return g.fly cu 2 (.mask o.d bits mask bad)

/-- VCMPEQ. -/
def execVcmpeq (o : VcmpA) (s : State) : Out := vcompare s (.vcmpeq o) .eq o

/-- VCMPNE. -/
def execVcmpne (o : VcmpA) (s : State) : Out := vcompare s (.vcmpne o) .ne o

/-- VCMPLT. -/
def execVcmplt (o : VcmpA) (s : State) : Out := vcompare s (.vcmplt o) .lt o

/-- VCMPLE. -/
def execVcmple (o : VcmpA) (s : State) : Out := vcompare s (.vcmple o) .le o

/-! ### Selection and movement (10 R267 to R269) -/

/-- VSEL: the selector is a source, read at issue. -/
def execVsel (o : VopA) (s : State) : Out :=
  stickyVec s (.vsel o) fun cu g => do
    let mask ← g.lanes cu o.m.gd
    let f := o.m.fmt
    let a ← g.readV s cu f o.a
    let b ← g.readV s cu f o.b
    let sel := (g.cur cu).bank.getM (o.m.x.extractLsb' 0 3)
    let outs := (admitted mask f).map fun e =>
      let x := a.elem f.width e
      let y := b.elem f.width e
      let on := sel.bits.getLsbD (laneOfElem f.width e) ^^ o.m.x.getLsbD 3
      (e, if on then x.1 else y.1, x.2 || y.2 || sel.bad)
    return g.fly cu 2 (elemWrite o.d f.width outs)

/-- VMOV. -/
def execVmov (o : VopA) (s : State) : Out := elementwise s (.vmov o) 1 (fun _ => 2) (fun _ _ x _ _ => x) o

/-- The index of VBCAST, VEXT and VINS: (value(B) + imm16 [10:4]) mod k; a poisoned one raises 0x301. -/
def Region.elemIndex (g : Region) (s : State) (cu : Cursor) (m : VMod) (b : VSrc) : Except Stop Nat := do
  let v ← g.readVScalar s cu b
  let v ← v.sound
  return (v + (m.x.extractLsb' 0 7).setWidth 64).toNat % m.fmt.count

/-- VBCAST. -/
def execVbcast (o : VopA) (s : State) : Out :=
  stickyVec s (.vbcast o) fun cu g => do
    let mask ← g.lanes cu o.m.gd
    let f := o.m.fmt
    let a ← g.readV s cu f o.a
    let i ← g.elemIndex s cu o.m o.b
    let x := a.elem f.width i
    return g.fly cu 2 (elemWrite o.d f.width ((admitted mask f).map fun e => (e, x)))

/-- VPERM: each index is an element of the second source; a poisoned index that is used raises 0x301. -/
def execVperm (o : VopA) (s : State) : Out :=
  stickyVec s (.vperm o) fun cu g => do
    let mask ← g.lanes cu o.m.gd
    let f := o.m.fmt
    let a ← g.readV s cu f o.a
    let b ← g.readV s cu f o.b
    need (!(admitted mask f).any fun e => (b.elem f.width e).2) 0x301
    let outs := (admitted mask f).map fun e => (e, a.elem f.width ((b.elem f.width e).1 % f.count))
    return g.fly cu 2 (elemWrite o.d f.width outs)

/-- VEXT: nothing is written where the element's lane is masked out. -/
def execVext (o : VscalA) (s : State) : Out :=
  stickyVec s (.vext o) fun cu g => do
    let mask ← g.lanes cu o.m.gd
    let f := o.m.fmt
    let i ← g.elemIndex s cu o.m o.b
    let x := (VVal.reg ((g.cur cu).bank.getV o.a)).elem f.width i
    let v := if o.m.v4 then BitVec.ofInt 64 (signedOf f.width x.1) else BitVec.ofNat 64 x.1
    if mask.getLsbD (laneOfElem f.width i) then return g.fly cu 3 (.scalar (some o.d) (some .lv) ⟨v, x.2⟩)
    else return g

/-- VINS: one element. -/
def execVins (o : VopA) (s : State) : Out :=
  stickyVec s (.vins o) fun cu g => do
    let mask ← g.lanes cu o.m.gd
    let f := o.m.fmt
    let a ← g.readV s cu f o.a
    let i ← g.elemIndex s cu o.m o.b
    let outs := if mask.getLsbD (laneOfElem f.width i) then [(i, a.elem f.width i)] else []
    return g.fly cu 2 (elemWrite o.d f.width outs)

/-! ### Reductions (10 R270; 04 R114, R115) -/

/-- One level of the tree from the combination numbered `n` on. -/
def treeLevel {α : Type} (f : Nat → α → α → α) : Nat → List α → List α
  | n, x :: y :: r => f n x y :: treeLevel f (n + 1) r
  | _, r => r

/-- The tree: 2^k values in k levels. -/
def tree {α : Type} (f : Nat → α → α → α) : Nat → Nat → List α → List α
  | 0, _, xs => xs
  | k + 1, n, xs => tree f k (n + xs.length / 2) (treeLevel f n xs)

/-- The levels of a tree over the elements of a format. -/
def treeDepth (f : Fmt) : Nat := Nat.log2 f.count

/-- Each element's value, or the identity where its lane is masked out. -/
def reduceIn {α : Type} (mask : BitVec 32) (f : Fmt) (r : VReg) (val : Nat → α) (ident : α) : List α :=
  (List.range f.count).map fun e => if mask.getLsbD (laneOfElem f.width e) then val (elemOf f.width r.bits e) else ident

def reduceBad (mask : BitVec 32) (f : Fmt) (r : VReg) : Bool := (admitted mask f).any fun e => ((VVal.reg r).elem f.width e).2

/-- The binary32 encoding of an element, widened exactly. -/
def widen32 (f : Fmt) (x : Nat) : Nat := convert .f32 .rne false 0 (fmtValue f x)

def sumValue (m : VMod) (mask : BitVec 32) (r : VReg) (rand : Nat → BitVec 32) : Word :=
  if m.fmt.isInt then
    BitVec.ofInt 64 ((tree (fun _ x y => x + y) (treeDepth m.fmt) 0
      (reduceIn mask m.fmt r (signedOf m.fmt.width) (0 : Int))).headD 0)
  else
    BitVec.ofNat 64 ((tree (fun n x y => rnd32 m.rnd (rand n) (vsum m [f32Val x, f32Val y])) (treeDepth m.fmt) 0
      (reduceIn mask m.fmt r (widen32 m.fmt) 0x8000_0000)).headD 0)

def pickValue (greater : Bool) (m : VMod) (mask : BitVec 32) (r : VReg) : Word :=
  let w := m.fmt.width
  if m.fmt.isInt then
    let least : Int := if m.v4 then 0 else -(2 ^ (w - 1))
    let most : Int := if m.v4 then 2 ^ w - 1 else 2 ^ (w - 1) - 1
    BitVec.ofInt 64 ((tree (fun _ x y => if greater then max x y else min x y) (treeDepth m.fmt) 0
      (reduceIn mask m.fmt r (intOf m.v4 w) (if greater then least else most))).headD 0)
  else
    BitVec.ofNat 64 ((tree (fun _ x y => floatPick .f32 greater x y) (treeDepth m.fmt) 0
      (reduceIn mask m.fmt r (widen32 m.fmt) (if greater then 0xFF80_0000 else 0x7F80_0000))).headD 0)

/-- A reduction: the value lands in its destination and lv at issue + 8. -/
def reduction (s : State) (op : Instr) (val : VMod → BitVec 32 → VReg → (Nat → BitVec 32) → Word) (o : VscalA) : Out :=
  stickyVec s op fun cu g => do
    let mask ← g.lanes cu o.m.gd
    let r := (g.cur cu).bank.getV o.a
    let x : Val := ⟨val o.m mask r (g.rand cu), reduceBad mask o.m.fmt r⟩
    return (g.bump cu o.m.rnd).fly cu 8 (.scalar (some o.d) (some .lv) x)

/-- VREDSUM. -/
def execVredsum (o : VscalA) (s : State) : Out := reduction s (.vredsum o) sumValue o

/-- VREDMAX. -/
def execVredmax (o : VscalA) (s : State) : Out := reduction s (.vredmax o) (fun m mask r _ => pickValue true m mask r) o

/-- VREDMIN. -/
def execVredmin (o : VscalA) (s : State) : Out := reduction s (.vredmin o) (fun m mask r _ => pickValue false m mask r) o

/-! ### Conversions and block scaling (10 R271 to R275) -/

/-- The source format of a conversion; the decoder has accepted it. -/
def fsOf (m : VMod) : Fmt := (Fmt.ofCode m.fsCode).getD .f32

/-- The numbers (e, es, ed) of a conversion's elements (10 R272). -/
def convElems (fd fs : Fmt) (q : Nat) : List (Nat × Nat × Nat) :=
  let n := min fs.count fd.count
  (List.range n).map fun e => if fd.count < fs.count then (e, q * n + e, e) else (e, e, q * n + e)

/-- A conversion family: `val` gives the encoding of element ed from e, the random word and the source element, with
its poison. -/
def conversion (s : State) (op : Instr) (lat : Nat) (scaled : Bool) (val : VMod → Val → Nat → BitVec 32 → Nat → Nat) (o : VopA) :
    Out :=
  stickyVec s op fun cu g => do
    let mask ← g.lanes cu o.m.gd
    let fd := o.m.fmt
    let fs := fsOf o.m
    let a ← g.readV s cu fs o.a
    let b ← if scaled then g.readVScalar s cu o.b else pure {}
    let outs := (convElems fd fs o.m.part).filterMap fun (e, es, ed) =>
      if mask.getLsbD (laneOfElem fd.width ed) then
        let x := a.elem fs.width es
        some (ed, val o.m b e (g.rand cu ed) x.1, x.2 || b.bad)
      else none
    return (g.bump cu o.m.rnd).fly cu lat (elemWrite o.d fd.width outs)

/-- VCVT. -/
def execVcvt (o : VopA) (s : State) : Out :=
  conversion s (.vcvt o) 3 false (fun m _ _ rand x => vround m rand (fmtValue (fsOf m) x)) o

/-- The scale word of element e: word e div 32 of the broadcast value. -/
def scaleWord (b : Val) (e : Nat) : Nat := b.bits.toNat / 2 ^ (32 * (e / 32)) % 2 ^ 32

/-- The quotient of 10 R274. -/
def quantOf (x sc : Exact) : Exact :=
  if x.isNan || sc.isNan then .nan
  else if sc.isZero then if x.isZero then .nan else .inf (x.neg? ^^ sc.neg?)
  else if sc.isInf then if x.isInf then .nan else Exact.zero (x.neg? ^^ sc.neg?)
  else if x.isInf then .inf (x.neg? ^^ sc.neg?)
  else if x.isZero then Exact.zero (x.neg? ^^ sc.neg?)
  else x.quot sc

/-- VQUANT. -/
def execVquant (o : VopA) (s : State) : Out :=
  conversion s (.vquant o) 4 true
    (fun m b e rand x => vround m rand (quantOf (fmtValue (fsOf m) x) (f32Val (scaleWord b e)))) o

/-- VDQ. -/
def execVdq (o : VopA) (s : State) : Out :=
  conversion s (.vdq o) 4 true
    (fun m b e rand x => vround m rand ((fmtValue (fsOf m) x).mul (f32Val (scaleWord b e)))) o

/-- L of a narrow format as a rational, and emax (10, the table before R273). -/
def narrowMax : Fmt → Nat × Nat × Int
  | .e4m3 => (448, 1, 8)
  | .e5m2 => (57344, 1, 15)
  | .e2m3 => (15, 2, 2)
  | .e3m2 => (28, 1, 4)
  | .e2m1 => (6, 1, 2)
  | .i8 => (127, 1, 6)
  | _ => (7, 1, 2)

/-- The magnitude of a finite value. -/
def Exact.mag : Exact → Nat × Nat
  | .num _ n d => (n, d)
  | _ => (0, 1)

/-- The scale word of one block's admitted values (10 R273). -/
def qscale (ft : Fmt) (tight : Bool) (xs : List Exact) : Nat :=
  if xs.any fun x => x.isNan || x.isInf then 0x7FC0_0000
  else
    let m := (xs.map Exact.mag).foldl (fun a b => if a.1 * b.2 < b.1 * a.2 then b else a) (0, 1)
    if m.1 = 0 then 0
    else
      let (ln, ld, emax) := narrowMax ft
      if tight then convert .f32 .rup false 0 (.num false (m.1 * ld) (m.2 * ln))
      else convert .f32 .rne false 0 (exactPow false 1 (max (floorLog m.1 m.2 - emax) (-149)))

/-- VQSCALE. -/
def execVqscale (o : VscalA) (s : State) : Out :=
  stickyVec s (.vqscale o) fun cu g => do
    let mask ← g.lanes cu o.m.gd
    let fs := fsOf o.m
    let r := (g.cur cu).bank.getV o.a
    let word (j : Nat) : Nat := qscale o.m.fmt o.m.v4
      (((admitted mask fs).filter fun e => e / 32 = j).map fun e => fmtValue fs (elemOf fs.width r.bits e))
    let hi := if fs.count = 64 then word 1 else 0
    let x : Val := ⟨BitVec.ofNat 64 (word 0 + 2 ^ 32 * hi), reduceBad mask fs r⟩
    return g.fly cu 8 (.scalar (some o.d) (some .lv) x)

/-! ### Lane masks (10 R276) -/

/-- A family of two masks; bits whose guard bit is 0 keep their values. -/
def maskOp (s : State) (op : Instr) (f : BitVec 32 → BitVec 32 → BitVec 32) (o : Lm2A) : Out :=
  stickyVec s op fun cu g => do
    let mask ← g.lanes cu o.gd
    let a := (g.cur cu).bank.getM o.a
    let b := (g.cur cu).bank.getM o.b
    return g.fly cu 2 (.mask o.d (f a.bits b.bits) mask (a.bad || b.bad))

/-- LMAND. -/
def execLmand (o : Lm2A) (s : State) : Out := maskOp s (.lmand o) (· &&& ·) o

/-- LMOR. -/
def execLmor (o : Lm2A) (s : State) : Out := maskOp s (.lmor o) (· ||| ·) o

/-- LMXOR. -/
def execLmxor (o : Lm2A) (s : State) : Out := maskOp s (.lmxor o) (· ^^^ ·) o

/-- LMANDN. -/
def execLmandn (o : Lm2A) (s : State) : Out := maskOp s (.lmandn o) (fun a b => a &&& ~~~b) o

/-- LMSET and LMSET.FIRST. -/
def execLmset (o : LmsetA) (s : State) : Out :=
  stickyVec s (.lmset o) fun cu g => do
    let mask ← g.lanes cu o.gd
    let v ← g.readVScalar s cu o.a
    let c := (max 0 (min 32 v.bits.toInt)).toNat
    let bits : BitVec 32 := if o.first then BitVec.ofNat 32 (2 ^ c - 1) else v.bits.extractLsb' 0 32
    return g.fly cu 2 (.mask o.d bits mask v.bad)

/-- LMPOPC. -/
def execLmpopc (o : LmpopcA) (s : State) : Out :=
  stickyVec s (.lmpopc o) fun cu g => do
    let mask ← g.lanes cu o.gd
    let a := (g.cur cu).bank.getM o.a
    return g.fly cu 2 (.scalar (some o.d) (some .lv) ⟨BitVec.ofNat 64 (popOf 32 (a.bits &&& mask).toNat), a.bad⟩)

/-! ### Table interpolation (04 R110 to R112; 10 R277 to R279) -/

def Table.word (x : Table) (n : Nat) : Nat := leNat ((x.bytes.drop (4 * n)).take 4)

/-- The exponent e, signed 16-bit. -/
def Table.exp (x : Table) : Int := signedOf 16 (leNat ((x.bytes.drop 4).take 2))

def Table.policies (x : Table) : Nat := (x.bytes.getD 6 0).toNat

/-- The difference as a sum of two terms (04 R96). -/
def Exact.diff (x y : Exact) : Exact := Exact.sum false [x, y.negate]

def Exact.div2 (x : Exact) (e : Int) : Exact := Exact.scale x e

/-- c0 + t·(c1 + t·c2) of segment i, exactly. -/
def Table.poly (x : Table) (i : Nat) (t : Exact) : Exact :=
  let c (k : Nat) : Exact := f32Val (x.word (8 + 3 * i + k))
  Exact.sum false [c 0, t.mul (Exact.sum false [c 1, t.mul (c 2)])]

/-- The limit of segment i at an infinite x (04 R112). -/
def Table.limit (x : Table) (i : Nat) (neg : Bool) : Exact :=
  let c (k : Nat) : Exact := f32Val (x.word (8 + 3 * i + k))
  if (c 0).isNan || (c 1).isNan || (c 2).isNan then .nan
  else if !(c 2).isZero then .inf (c 2).neg?
  else if !(c 1).isZero then .inf ((c 1).neg? ^^ neg)
  else c 0

/-- The words of a segment's coefficients. -/
def segWords (i : Nat) : List Nat := [8 + 3 * i, 9 + 3 * i, 10 + 3 * i]

/-- Evaluate the table at a binary32 value: the exact y and the words of the image that were read (04 R111). -/
def Table.eval (t : Table) (x : Nat) : Exact × List Nat :=
  let v := f32Val x
  if v.isNan then (.nan, [])
  else
    let lo := f32Val (t.word 0)
    let hi := Exact.add lo (Exact.scale (.num false 256 1) (-t.exp))
    let u := Exact.div2 (Exact.diff v lo) t.exp
    let base := [0, 1]
    if !(v.lt lo) && v.lt hi then
      let i := u.floor.toNat
      (t.poly i (Exact.diff u (.ofInt i)), base ++ segWords i)
    else
      let low := v.lt lo
      let policy := if low then t.policies % 4 else t.policies / 4 % 4
      match policy with
      | 0 => if low then (f32Val (t.word 2), 2 :: base) else (f32Val (t.word 3), 3 :: base)
      | 1 => (v, base)
      | _ =>
        let i := if low then 0 else 255
        (if v.isInf then t.limit i v.neg? else t.poly i (Exact.diff u (.ofInt i)), base ++ segWords i)

/-- A load to the slot has not been acquired. -/
def Region.tabPending (g : Region) (t : Nat) (n : BitVec 3) : Bool :=
  g.unacq.any fun u => u.ctr = t * 32 + 22 && u.tab == some n

/-- VTBL: unspecified element by element while the slot's load is not acquired (05 R136). -/
def execVtbl (o : VopA) (s : State) : Out :=
  stickyVec s (.vtbl o) fun cu g => do
    let mask ← g.lanes cu o.m.gd
    let fd := o.m.fmt
    let fs := fsOf o.m
    let a ← g.readV s cu fs o.a
    let slot ← match (g.tile cu.t).tabs[o.m.tab.toNat]'o.m.tab.isLt with
      | some k => pure k
      | none => throw (.cause 0x0C3 0)
    let outs := (convElems fd fs o.m.part).filterMap fun (_, es, ed) =>
      if mask.getLsbD (laneOfElem fd.width ed) then
        let x := a.elem fs.width es
        match slot.table with
        | some t =>
          if g.tabPending cu.t o.m.tab then some (ed, (Config.freeWord s.fresh ed).toNat, x.2)
          else
            let (y, ws) := t.eval (widen32 fs x.1)
            some (ed, vround o.m (g.rand cu ed) (f32Val (rn32 y)), x.2 || ws.any fun w => t.bad.contains w)
        | none => some (ed, (Config.freeWord s.fresh ed).toNat, x.2)
      else none
    return (g.bump cu o.m.rnd).fly cu 10 (elemWrite o.d fd.width outs)

end Sys2Proof.Machine
end

