-- ==== Sys2Proof/Machine/VectorMem.lean ====
section
/-! DEFINITION. Vector registers to and from scratchpad: VLD, VST, VGATH, VSCAT (10 R260 to R262). -/

namespace Sys2Proof.Machine

/-- The lanes a mask enables, ascending. -/
def lanesOn (mask : BitVec 32) : List Nat := (List.range 32).filter fun l => mask.getLsbD l

/-- The write of whole lanes. -/
def laneWrite (d : BitVec 5) (ls : List (Nat × Nat × Bool)) : Flight := elemWrite d 32 ls

/-- VLD: enabled lanes, sampled now, land at issue + 5; the check covers all 128 bytes. -/
def execVld (o : VldA) (s : State) : Out :=
  stickyGuarded s (.vld o) o.gd (stepOf o.step)
    (fun cu g => do
      let a ← g.sum3 s cu o.a o.b o.c o.imm
      return [a])
    fun cu g as => do
      let mask ← g.laneMask cu o.lm
      let a ← firstAddr as
      let a := a.toNat
      need (decide (a % 4 = 0)) 0x091
      need (decide (a + 128 ≤ g.spLimit)) 0x090
      match (lanesOn mask).find? fun l => (g.tile cu.t).cleanHit (a + 4 * l) 4 with
      | some l => throw (.event 0x302 ((g.tile cu.t).hitSeg (a + 4 * l) 4))
      | none => pure ()
      let outs := (lanesOn mask).map fun l =>
        let (v, bad) := leVal (g.spRead s.fresh cu.t (a + 4 * l) 4)
        (l, v, bad)
      return g.fly cu 5 (laneWrite o.d outs)

/-- A lane of a register. -/
def VReg.lane (r : VReg) (l : Nat) : Val := ⟨(laneOf r.bits l).setWidth 64, r.bad.getLsbD l⟩

/-- VST: enabled lanes perform at issue + 2. -/
def execVst (o : VstA) (s : State) : Out :=
  stickyGuarded s (.vst o) o.gd (stepOf o.step)
    (fun cu g => do
      let a ← g.sum2 s cu o.a o.c o.imm
      return [a])
    fun cu g as => do
      let mask ← g.laneMask cu o.lm
      let a ← firstAddr as
      let a := a.toNat
      need (decide (a % 4 = 0)) 0x091
      need (decide (a + 128 ≤ g.spLimit)) 0x090
      let r := (g.cur cu).bank.getV o.b
      return g.fly cu 2 (.store cu.t ((lanesOn mask).map fun l => (a + 4 * l, storeBytes 4 (r.lane l))))

def gwidBytes : GWid → Nat
  | .b => 1
  | .h => 2
  | .w => 4

/-- Each enabled lane's address; a poisoned index of an enabled lane raises 0x301, then the lowest lane that fails its
check decides the cause. -/
def Region.laneAddrs (g : Region) (base : Word) (x : VReg) (mask : BitVec 32) (z : Nat) : Except Stop (List (Nat × Nat)) := do
  need (!(lanesOn mask).any fun l => x.bad.getLsbD l) 0x301
  let as := (lanesOn mask).map fun l => (l, (base + (laneOf x.bits l).setWidth 64).toNat)
  match as.find? fun p => !(p.2 % z == 0 && decide (p.2 + z ≤ g.spLimit)) with
  | none => return as
  | some p => throw (.cause (if p.2 % z ≠ 0 then 0x091 else 0x090) 0)

/-- VGATH: enabled lanes, sampled now, land at issue + 8. -/
def execVgath (o : VgathA) (s : State) : Out :=
  stickyGuarded s (.vgath o) o.gd (stepOf o.step)
    (fun cu g => do
      let a ← g.sum2 s cu o.a o.c o.imm
      return [a])
    fun cu g as => do
      let mask ← g.laneMask cu o.lm
      let base ← firstAddr as
      let z := gwidBytes o.z
      let ps ← g.laneAddrs base ((g.cur cu).bank.getV o.x) mask z
      match ps.find? fun p => (g.tile cu.t).cleanHit p.2 z with
      | some p => throw (.event 0x302 ((g.tile cu.t).hitSeg p.2 z))
      | none => pure ()
      let outs := ps.map fun p =>
        let (v, bad) := leVal (g.spRead s.fresh cu.t p.2 z)
        (p.1, if o.s then encInt 32 (signedOf (8 * z) v) else v, bad)
      return g.fly cu 8 (laneWrite o.d outs)

/-- VSCAT: enabled lanes perform at issue + 3, in lane order. -/
def execVscat (o : VscatA) (s : State) : Out :=
  stickyGuarded s (.vscat o) o.gd (stepOf o.step)
    (fun cu g => do
      let c ← g.readS s cu o.c
      return [c.plus ⟨o.imm.signExtend 64, false⟩])
    fun cu g as => do
      let mask ← g.laneMask cu o.lm
      let base ← firstAddr as
      let z := gwidBytes o.z
      let ps ← g.laneAddrs base ((g.cur cu).bank.getV o.x) mask z
      let r := (g.cur cu).bank.getV o.b
      return g.fly cu 3 (.store cu.t (ps.map fun p => (p.2, storeBytes z (r.lane p.1))))

end Sys2Proof.Machine
end

