-- ==== Sys2Proof/Machine/Matrix.lean ====
section
/-! DEFINITION. The MX slot: enqueueing matrix commands, the shadow parameters and mask registers, and what the
engine does at a command's start and completion (11 R282 to R305; 04 R106 to R109; 03 R80 to R86). -/

namespace Sys2Proof.Machine

/-! ### Captured parameters (11 R289) -/

/-- One parameter set. -/
abbrev MxPar := Vector Val 8

def MxPar.get (m : MxPar) (n : Nat) : Word := (m[n]?.getD {}).bits

/-- The signed 20-bit field at a bit. -/
def field20 (w : Word) (lo : Nat) : Int := (w.extractLsb' lo 20).toInt

def MxPar.fmtA (m : MxPar) : Fmt := (Fmt.ofCode ((MxPar.get m 0).extractLsb' 0 4)).getD .e4m3
def MxPar.fmtB (m : MxPar) : Fmt := (Fmt.ofCode ((MxPar.get m 0).extractLsb' 4 4)).getD .e4m3

/-- An INT32 slot. -/
def MxPar.isInt (m : MxPar) : Bool := (MxPar.get m 0).getLsbD 8

def MxPar.k (m : MxPar) : Nat := 32 * ((MxPar.get m 1).extractLsb' 0 11).toNat

/-- N of 11 R289. -/
def MxPar.n (m : MxPar) : Nat := 16 * 2 ^ ((MxPar.get m 1).extractLsb' 11 2).toNat

def MxPar.pitchA (m : MxPar) : Nat := ((MxPar.get m 2).extractLsb' 0 20).toNat
def MxPar.soA (m : MxPar) : Int := field20 (MxPar.get m 3) 0
def MxPar.mo (m : MxPar) : Int := field20 (MxPar.get m 3) 20
def MxPar.soB (m : MxPar) : Int := ((MxPar.get m 4).extractLsb' 0 16).toInt
def MxPar.fd (m : MxPar) : Fmt := (Fmt.ofCode ((MxPar.get m 5).extractLsb' 0 4)).getD .f32
def MxPar.rnd (m : MxPar) : Rnd := (Rnd.ofCode ((MxPar.get m 5).extractLsb' 4 3)).getD .rne
def MxPar.sat (m : MxPar) : Bool := (MxPar.get m 5).getLsbD 7
def MxPar.pitchD (m : MxPar) : Nat := ((MxPar.get m 5).extractLsb' 12 20).toNat
def MxPar.rowMask (m : MxPar) : BitVec 2 := (MxPar.get m 6).extractLsb' 0 2
def MxPar.colMask (m : MxPar) : BitVec 2 := (MxPar.get m 6).extractLsb' 2 2
def MxPar.pitchT (m : MxPar) : Nat := ((MxPar.get m 7).extractLsb' 0 20).toNat

/-- The pairings of 11 R295: whether scale words are read, and T for a depth K. -/
def pairing (a b : Fmt) (int : Bool) (k : Nat) : Option (Bool × Nat) :=
  let nf (f : Fmt) : Bool := f.isN && !f.isInt
  let wide (f : Fmt) : Bool := f == .bf16 || f == .f16
  let ni (f : Fmt) : Bool := f == .i8 || f == .i4
  if nf a && nf b then (if int then none else some (true, if a = .e2m1 ∧ b = .e2m1 then k / 2 else k))
  else if wide a && wide b then (if int then none else some (false, 2 * k))
  else if ni a && ni b then some (!int, if a = .i4 ∧ b = .i4 then k / 2 else k)
  else none

/-! ### The timing of a command (11 R286) -/

/-- The resources: a logical slot, a general block, the bypass, the scratchpad. -/
inductive Res
  | slot (s : BitVec 3)
  | blk (n : BitVec 4)
  | byp
  | sp
  deriving DecidableEq, Repr

def TOp.res : TOp → Res
  | .blk n => .blk n
  | .acc s => .slot s

/-- What a command reads and what it writes. -/
def MxOp.uses : MxOp → List Res × List Res
  | .mma s _ byp => ([.slot s, if byp then .byp else .sp], [.slot s])
  | .mmas s _ => ([.slot s, .sp], [.slot s])
  | .mzero s => ([], [.slot s])
  | .macc s x => ([.slot s, TOp.res x], [.slot s])
  | .mdrain s byp => ([.slot s], [if byp then .byp else .sp])
  | .tmld t => ([.sp], [TOp.res t])
  | .tmst t => ([TOp.res t], [.sp])
  | .tmmv t x => ([TOp.res x], [TOp.res t])

/-- They share a resource that at least one of them writes. -/
def MxOp.conflicts (z y : MxOp) : Bool :=
  (MxOp.uses z).2.any (fun r => (MxOp.uses y).1.contains r || (MxOp.uses y).2.contains r) ||
    (MxOp.uses z).1.any fun r => (MxOp.uses y).2.contains r

/-- The slot a product accumulates into. -/
def MxOp.product : MxOp → Option (BitVec 3)
  | .mma s _ _ => some s
  | .mmas s _ => some s
  | _ => none

def MxOp.readsByp : MxOp → Bool
  | .mma _ _ b => b
  | _ => false

def MxOp.drainsByp : MxOp → Bool
  | .mdrain _ b => b
  | _ => false

/-- E(Z) as Y sees it; `last` says that Z is the command immediately before Y. -/
def ready (z : MxCmd) (y : MxOp) (last : Bool) : Nat :=
  if last && (MxOp.product z.op).isSome && MxOp.product z.op == MxOp.product y then z.start + z.gap
  else if MxOp.drainsByp z.op && MxOp.readsByp y then z.start + z.gap
  else z.fin

/-- The least start sc of a command enqueued in sc q behind the commands not completed; `last` names the command
immediately before it in queue order. A completed command bounds nothing: its completion is no later than q. -/
def startSc (q : Nat) (last : Option Nat) (zs : List MxCmd) (y : MxOp) : Nat :=
  zs.foldl (fun m z =>
    let m := if last == some z.key then max m (z.start + z.gap) else m
    if MxOp.conflicts z.op y then max m (ready z y (last == some z.key)) else m) (q + 1)

/-- O and L. -/
def MxOp.timing (o : MxOp) (m : MxPar) : Nat × Nat :=
  let t := ((pairing (MxPar.fmtA m) (MxPar.fmtB m) (MxPar.isInt m) (MxPar.k m)).map (·.2)).getD 0
  let ts := max (t * MxPar.n m / 128) (t / 4)
  match o with
  | .mma .. => (t, t + 12)
  | .mmas .. => (ts, ts + 12)
  | .mzero _ => (1, 2)
  | .macc .. | .tmmv .. => (16, 20)
  | .tmld _ | .tmst _ => (32, 36)
  | .mdrain .. => (32, 64)

/-! ### Enqueueing (11 R282, R283, R292) -/

/-- Entries taken: one is freed in the sc its command starts, for the next sc. -/
def Tile.mxTaken (x : Tile) (now : Nat) : Nat := (x.mxq.filter fun c => !c.started || c.start == now).length

/-- The copy a slot is read in, and the copy a write goes to (03 R82). -/
def Tile.copies (x : Tile) (s : BitVec 3) : Bool × Bool :=
  let com := x.accCom.getLsbD s.toNat
  (if x.accWr.getLsbD s.toNat then !com else com, !com)

/-- The slot a command writes. -/
def MxOp.target : MxOp → Option (BitVec 3)
  | .mma s _ _ | .mmas s _ | .mzero s | .macc s _ => some s
  | .tmld (.acc s) => some s
  | .tmmv (.acc s) _ => some s
  | _ => none

/-- The slot a command reads beside its target. -/
def MxOp.source : MxOp → Option (BitVec 3)
  | .macc _ (.acc s) => some s
  | .mdrain s _ => some s
  | .tmst (.acc s) => some s
  | .tmmv _ (.acc s) => some s
  | _ => none

/-- A slot must be declared, a general block must belong to none (11 R293). -/
def Region.slotOk (g : Region) (s : BitVec 3) : Except Stop Unit := need (g.pat.acc.getLsbD s.toNat) 0x0D2

def Region.topOk (g : Region) (t : TOp) : Except Stop Unit :=
  match t with
  | .acc s => g.slotOk s
  | .blk n => need (!g.pat.acc.getLsbD (n.toNat / 2)) 0x0D3

def Region.opOk (g : Region) : MxOp → Except Stop Unit
  | .mma s _ _ | .mmas s _ | .mzero s | .mdrain s _ => g.slotOk s
  | .macc s x => do
    g.slotOk s
    g.topOk x
  | .tmld t | .tmst t => g.topOk t
  | .tmmv t x => do
    g.topOk t
    g.topOk x

/-- The captured parameters and masks must not be poisoned (20 R443). -/
def Region.mxCapture (g : Region) (cu : Cursor) : Except Stop (MxPar × BitVec 64 × BitVec 64) := do
  let m : MxPar := (g.tile cu.t).mp
  need (!(m.toList.any (·.bad))) 0x301
  let r ← ((g.cur cu).bank.getMx false (MxPar.rowMask m)).sound
  let c ← ((g.cur cu).bank.getMx true (MxPar.colMask m)).sound
  return (m, r, c)

/-- The wait target: tb + delta, refused while it covers a command still gated (12 R311). -/
def Region.mxWait (g : Region) (cu : Cursor) (o : MxCom) : Except Stop (Option (Nat × Word)) :=
  if o.wait = 0 then .ok none else do
  let n := o.wait.toNat - 1
  let v := ((g.cur cu).bank.getTb (BitVec.ofNat 5 n)).bits + o.delta.setWidth 64
  need (!g.gatedUpTo cu.t n v) 0x188
  return some (n, v)

/-- A full queue holds the stream. -/
def Region.mxRoom (g : Region) (cu : Cursor) : Except Stop Unit :=
  if (g.tile cu.t).mxTaken g.now < 16 then .ok () else .error (.hold g)

/-- Put a checked command into the queue. -/
def Region.enqueue (g : Region) (cu : Cursor) (op : MxOp) (o : MxCom) (m : MxPar) (r c : BitVec 64)
    (w : Option (Nat × Word)) (a b : Word) (pos : Word) : Region :=
  let x := g.tile cu.t
  let s := startSc g.now x.mxLast x.mxq op
  let t := MxOp.timing op m
  let cp := x.copies ((MxOp.target op).getD 0)
  let fresh := match MxOp.target op with
    | some k => !x.accWr.getLsbD k.toNat
    | none => false
  let cmd : MxCmd :=
    { op := op, enq := g.now, start := s, fin := s + t.2, gap := t.1
      key := orderKey g.now cu.t cu.b cu.slot, started := false, sig := o.sig, wait := w
      mp := m, rows := r, cols := c, srpos := pos, strB := cu.b, addrA := a, addrB := b
      rdCopy := cp.1, wrCopy := cp.2, srcCopy := (x.copies ((MxOp.source op).getD 0)).1, fresh := fresh
      out := [], ovf := false, byp := none }
  g.modTile cu.t fun x =>
    { x with
      mxq := x.mxq ++ [cmd], mxLast := some cmd.key
      accWr := match MxOp.target op with
        | some k => x.accWr ||| (1#8 <<< k.toNat)
        | none => x.accWr
      bypFmt := if MxOp.drainsByp op then some (MxPar.fd m) else x.bypFmt }

/-- The steps of the extension word, in units of 16 bytes (11 R284). -/
def mxSteps (o : MxCom) : List Int := [16 * o.sa.toInt, 16 * o.sb.toInt]

/-- Issue a matrix command: its parameters are captured and checked, then its addresses, then it enqueues. -/
def mxCommand (s : State) (i : Instr) (op : MxOp) (o : MxCom) (addrs : Cursor → Region → Except Stop (List Val))
    (check : Region → MxPar → Except Stop Unit) (place : Cursor → Region → MxPar → Word → Word → Except Stop Unit) : Out :=
  stickyOp s i (mxSteps o) addrs
    (fun cu g => do
      let on ← g.guard cu o.gd
      if on then g.mxRoom cu else .ok ()
      return on)
    fun cu g as => do
      g.notStub
      let (m, r, c) ← g.mxCapture cu
      g.opOk op
      check g m
      let a ← firstAddr as
      let b ← secondAddr as
      place cu g m a b
      let w ← g.mxWait cu o
      return g.enqueue cu op o m r c w a b (g.cur cu).srpos

/-! ### MMA and MMAS (11 R294 to R298) -/

/-- The row length in bytes. -/
def rowLen (m : MxPar) (sparse : Bool) : Nat :=
  let n := if sparse then MxPar.k m / 128 * MxPar.n m else MxPar.k m
  (n * (MxPar.fmtA m).width + 7) / 8

/-- The pairing and the depth. -/
def productOk (sparse : Bool) (_ : Region) (m : MxPar) : Except Stop Unit := do
  need (pairing (MxPar.fmtA m) (MxPar.fmtB m) (MxPar.isInt m) (MxPar.k m)).isSome 0x0D5
  need (decide (32 ≤ MxPar.k m ∧ MxPar.k m ≤ 32768)) 0x0D5
  need (!sparse || decide (MxPar.k m % 128 = 0)) 0x0D5

def hasScale (m : MxPar) : Bool :=
  ((pairing (MxPar.fmtA m) (MxPar.fmtB m) (MxPar.isInt m) (MxPar.k m)).map (·.1)).getD false

/-- An address formed modulo 2^64. -/
def offsetBy (a : Word) (d : Int) : Nat := (a + BitVec.ofInt 64 d).toNat

/-- The table of 11 R296 for A, with the metadata area of R297. -/
def Region.placeA (g : Region) (m : MxPar) (sparse : Bool) (a : Word) : Except Stop Unit := do
  need (decide (a.toNat % 16 = 0)) 0x091
  need (decide (MxPar.pitchA m % 16 = 0 ∧ rowLen m sparse ≤ MxPar.pitchA m)) 0x0D5
  need (decide (a.toNat + 63 * MxPar.pitchA m + rowLen m sparse ≤ g.spLimit)) 0x090
  if hasScale m then do
    need (decide (offsetBy a (MxPar.soA m) % 4 = 0)) 0x091
    need (decide (offsetBy a (MxPar.soA m) + 256 * (MxPar.k m / 32) ≤ g.spLimit)) 0x090
  else .ok ()
  if sparse then do
    need (decide (offsetBy a (MxPar.mo m) % 4 = 0)) 0x091
    need (decide (offsetBy a (MxPar.mo m) + 64 * (MxPar.k m / 128 * MxPar.n m) ≤ g.spLimit)) 0x090
  else .ok ()

/-- The table of 11 R296 for B. -/
def placeB (m : MxPar) (b : Word) : Except Stop Unit := do
  need (decide (b.toNat % 16 = 0 ∧ b.toNat + (MxPar.k m * (MxPar.fmtB m).width + 7) / 8 ≤ 32768)) 0x0D4
  if hasScale m then
    let p : Int := b.toNat + MxPar.soB m
    need (decide (0 ≤ p ∧ p % 4 = 0 ∧ p + 4 * (MxPar.k m / 32 : Nat) ≤ 32768)) 0x0D4
  else .ok ()

/-- The bypass must be full, of the captured A format and depth (11 R302). -/
def Region.bypOk (g : Region) (cu : Cursor) (m : MxPar) : Except Stop Unit :=
  need ((g.tile cu.t).bypFmt == some (MxPar.fmtA m) && decide (MxPar.k m = 64) &&
    !(MxPar.fmtA m == .i8 && !MxPar.isInt m)) 0x0D6

/-- src(A) + src(C), and src(B). -/
def Region.mxAddrs (g : Region) (s : State) (cu : Cursor) (a b c : SSrc) : Except Stop (List Val) := do
  let x ← g.sum2 s cu a c 0
  let y ← g.readS s cu b
  return [x, y]

/-- MMA. -/
def execMma (o : MmaA) (s : State) : Out :=
  mxCommand s (.mma o) (.mma o.slot o.set o.byp) o.com (fun cu g => g.mxAddrs s cu o.a o.b o.c) (productOk false)
    fun cu g m a b => do
      if o.byp then .ok () else g.placeA m false a
      placeB m b
      if o.byp then g.bypOk cu m else .ok ()

/-- MMAS. -/
def execMmas (o : MmaA) (s : State) : Out :=
  mxCommand s (.mmas o) (.mmas o.slot o.set) o.com (fun cu g => g.mxAddrs s cu o.a o.b o.c) (productOk true)
    fun _ g m a b => do
      g.placeA m true a
      placeB m b

/-! ### The other commands (11 R299 to R303) -/

def noAddrs : Cursor → Region → Except Stop (List Val) := fun _ _ => .ok []

/-- MZERO. -/
def execMzero (com : MxCom) (slot : BitVec 3) (s : State) : Out :=
  mxCommand s (.mzero com slot) (.mzero slot) com noAddrs (fun _ _ => .ok ()) fun _ _ _ _ _ => .ok ()

/-- MACC. -/
def execMacc (com : MxCom) (slot : BitVec 3) (src : TOp) (s : State) : Out :=
  mxCommand s (.macc com slot src) (.macc slot src) com noAddrs (fun _ _ => .ok ()) fun _ _ _ _ _ => .ok ()

/-- The combinations mp.drain may give (11 R301). -/
def drainOk (byp : Bool) (m : MxPar) : Bool :=
  let f := MxPar.fd m
  if MxPar.isInt m then
    (f == .i8 || (!byp && (f == .i16 || f == .i32))) && MxPar.rnd m == .rne && !MxPar.sat m
  else f == .bf16 || f == .f16 || (!byp && f == .f32)

/-- Rows of `len` bytes at pitch p from d on. -/
def Region.rowsOk (g : Region) (d : Word) (p len : Nat) : Except Stop Unit := do
  need (decide (d.toNat % 16 = 0)) 0x091
  need (decide (p % 16 = 0 ∧ len ≤ p)) 0x0D5
  need (decide (d.toNat + 63 * p + len ≤ g.spLimit)) 0x090

/-- MDRAIN. A stochastic rounding takes its position whatever the guard reads (04 R104). -/
def execMdrain (o : MdrainA) (s : State) : Out :=
  stickyOp s (.mdrain o) (mxSteps o.com) (fun cu g => g.mxAddrs s cu o.a (.g 0) o.c)
    (fun cu g => do
      let on ← g.guard cu o.com.gd
      if on then g.mxRoom cu else .ok ()
      return true)
    fun cu g as => do
      let on ← g.guard cu o.com.gd
      let pos := (g.cur cu).srpos
      let bumped (g : Region) : Region := g.bump cu (MxPar.rnd (g.tile cu.t).mp)
      if !on then return bumped g else
      g.notStub
      let (m, r, c) ← g.mxCapture cu
      let op := MxOp.mdrain o.slot o.byp
      g.opOk op
      need (drainOk o.byp m) 0x0D5
      let a ← firstAddr as
      if o.byp then .ok () else g.rowsOk a (MxPar.pitchD m) (8 * (MxPar.fd m).width)
      let w ← g.mxWait cu o.com
      return bumped (g.enqueue cu op o.com m r c w a 0 pos)

/-- TMLD and TMST: rows of 256 bytes. -/
def tmPlace : Cursor → Region → MxPar → Word → Word → Except Stop Unit :=
  fun _ g m a _ => g.rowsOk a (MxPar.pitchT m) 256

/-- TMLD. -/
def execTmld (o : TmA) (s : State) : Out :=
  mxCommand s (.tmld o) (.tmld o.t) o.com (fun cu g => g.mxAddrs s cu o.a (.g 0) o.c) (fun _ _ => .ok ()) tmPlace

/-- TMST. -/
def execTmst (o : TmA) (s : State) : Out :=
  mxCommand s (.tmst o) (.tmst o.t) o.com (fun cu g => g.mxAddrs s cu o.a (.g 0) o.c) (fun _ _ => .ok ()) tmPlace

/-- TMMV. -/
def execTmmv (com : MxCom) (tgt src : TOp) (s : State) : Out :=
  mxCommand s (.tmmv com tgt src) (.tmmv tgt src) com noAddrs (fun _ _ => .ok ()) fun _ _ _ _ _ => .ok ()

/-! ### MSET, MRSET, MCSET (11 R290, R291) -/

/-- The reserved bits of a parameter. -/
def mpReserved : Nat → Word
  | 0 => ~~~0x1FF
  | 1 => ~~~0x1FFF
  | 2 => ~~~0xF_FFFF
  | 3 => ~~~0xFF_FFFF_FFFF
  | 4 => ~~~0xFFFF
  | 5 => 0xFFFF_FFFF_0000_0F00
  | 6 => ~~~0xF
  | _ => ~~~0xF_FFFF

/-- A value 0x0D1 does not refuse. -/
def mpValueOk (n : Nat) (v : Word) : Bool :=
  v &&& mpReserved n == 0 &&
    (match n with
     | 0 => decide ((v.extractLsb' 0 4).toNat ≤ 0xC) && decide ((v.extractLsb' 4 4).toNat ≤ 0xC)
     | 1 => v.extractLsb' 11 2 != 3
     | 5 => decide ((v.extractLsb' 0 4).toNat ≤ 0xC) && decide ((v.extractLsb' 4 3).toNat ≤ 4)
     | _ => true)

/-- MSET: takes effect at the end of the sc. -/
def execMset (gd : Guard) (n : BitVec 3) (a : SSrc) (imm : BitVec 16) (s : State) : Out :=
  stickyGuarded s (.mset gd n a imm) gd [] noAddrs fun cu g _ => do
    let x ← g.readSound s cu a
    let v := x + imm.setWidth 64
    need (mpValueOk n.toNat v) 0x0D1
    return g.atEnd cu (.mset n ⟨v, false⟩)

/-- Bits lo to lo + c − 1, the bounds clamped. -/
def maskRange (f n : Word) : Word :=
  let clamp (x : Int) (hi : Nat) : Nat := (max 0 (min (hi : Int) x)).toNat
  let lo := clamp f.toInt 64
  let c := clamp n.toInt (64 - lo)
  BitVec.ofNat 64 ((2 ^ c - 1) * 2 ^ lo)

def maskSet (s : State) (i : Instr) (col : Bool) (o : MaskA) : Out :=
  stickyGuarded s i o.gd [] noAddrs fun cu g _ =>
    match o.range with
    | none => do
      let x ← g.readS s cu o.a
      return g.fly cu 1 (.mxmask col o.n x)
    | some b => do
      let f ← g.readSound s cu o.a
      let n ← g.readSound s cu b
      return g.fly cu 1 (.mxmask col o.n ⟨maskRange f n, false⟩)

/-- MRSET. -/
def execMrset (o : MaskA) (s : State) : Out := maskSet s (.mrset o) false o

/-- MCSET. -/
def execMcset (o : MaskA) (s : State) : Out := maskSet s (.mcset o) true o

/-! ### What a started command reads (11 R287) -/

/-- A tensor-memory or scratchpad or B-stack word with its poison. -/
abbrev PWord := Nat × Bool

/-- The byte address of element (i, j) of a block (03 R80). -/
def tmAddr (blk i j : Nat) : Nat := ((64 * (blk / 4) + i) * 256 + 64 * (blk % 4) + j) * 4

/-- The block of a slot's copy. -/
def slotBlk (s : BitVec 3) (copy : Bool) : Nat := 2 * s.toNat + copy.toNat

/-- What a command's read of one word of tensor memory returns; the products not yet completed have already
written what they will write. -/
def Tile.tmWord (x : Tile) (a : Nat) : PWord :=
  let fwd := (x.mxq.filter fun c => c.started && (MxOp.product c.op).isSome).foldl (fun m c =>
    match c.out.find? fun w => w.tm && w.addr == a with
    | some w => some (leVal w.data)
    | none => m) none
  match fwd with
  | some w => w
  | none =>
    leVal ((List.range 4).map fun i =>
      let p := x.tm.pbyte tmGran (a + i)
      match x.freeAt .tm (a + i) with
      | some v => (v, p.2)
      | none => p)

/-- The region as a matrix command reads it: its own wait acquires, for its own reads (05 R133; 11 R285). -/
def Region.mxView (g : Region) (t : Nat) (c : MxCmd) : Region :=
  match c.wait with
  | none => g
  | some (n, v) => g.acquire t n v

def Region.bsByte (g : Region) (fresh t a : Nat) : PByte :=
  let x := g.tile t
  let (b, bad) := x.bs.pbyte bsGran a
  match x.freeAt .bs a with
  | some v => (v, bad)
  | none => if g.unacquired true t a then (Config.freeByte (fresh + 1) a, bad) else (b, bad)

/-- n bytes of slice j from offset b on (03 R85). -/
def Region.bsRead (g : Region) (fresh t j b n : Nat) : List PByte :=
  (List.range n).map fun i => g.bsByte fresh t (32768 * j + b + i)

/-- Element k of densely packed bytes (04 R95). -/
def packed (w : Nat) (bytes : Nat) (k : Nat) : Nat := bytes / 2 ^ (w * k) % 2 ^ w

/-- Elements with the poison of all of them: a product takes the poison of its whole row or column. -/
structure Line where
  elems : List Nat
  scales : List Nat
  bad : Bool

/-- Binary32 words at stride d. -/
def Region.words (g : Region) (fresh t a d n : Nat) : List PWord :=
  (List.range n).map fun i => leVal (g.spRead fresh t (a + d * i) 4)

/-- A dense row of A. -/
def Region.rowA (g : Region) (fresh t : Nat) (m : MxPar) (a : Word) (i : Nat) : Line :=
  let bs := g.spRead fresh t (a.toNat + i * MxPar.pitchA m) (rowLen m false)
  let sc := if hasScale m then g.words fresh t (offsetBy a (MxPar.soA m) + 4 * i) 256 (MxPar.k m / 32) else []
  let (v, bad) := leVal bs
  { elems := (List.range (MxPar.k m)).map (packed (MxPar.fmtA m).width v)
    scales := sc.map (·.1), bad := bad || sc.any (·.2) }

/-- A sparse row of A made dense (11 R297). -/
def Region.rowS (g : Region) (fresh t : Nat) (m : MxPar) (a : Word) (i : Nat) : Line :=
  let n := MxPar.n m
  let groups := MxPar.k m / 128
  let bs := g.spRead fresh t (a.toNat + i * MxPar.pitchA m) (rowLen m true)
  let md := g.spRead fresh t (offsetBy a (MxPar.mo m) + i * (groups * n)) (groups * n)
  let sc := if hasScale m then g.words fresh t (offsetBy a (MxPar.soA m) + 4 * i) 256 (MxPar.k m / 32) else []
  let (v, bad) := leVal bs
  let idx := md.map fun b => b.1.toNat % 128
  let group (q : Nat) : List Nat :=
    let is := (idx.drop (q * n)).take n
    (List.range 128).map fun k =>
      (is.zipIdx).foldl (fun e (x, j) => if x = k then packed (MxPar.fmtA m).width v (q * n + j) else e) 0
  { elems := (List.range groups).flatMap group
    scales := sc.map (·.1), bad := bad || md.any (·.2) || sc.any (·.2) }

/-- A column of B. -/
def Region.colB (g : Region) (fresh t : Nat) (m : MxPar) (b : Word) (j : Nat) : Line :=
  let w := (MxPar.fmtB m).width
  let bs := g.bsRead fresh t j b.toNat ((MxPar.k m * w + 7) / 8)
  let so := (b.toNat + MxPar.soB m).toNat
  let sc := if hasScale m then
      (List.range (MxPar.k m / 32)).map fun n => leVal (g.bsRead fresh t j (so + 4 * n) 4)
    else []
  let (v, bad) := leVal bs
  { elems := (List.range (MxPar.k m)).map (packed w v), scales := sc.map (·.1), bad := bad || sc.any (·.2) }

/-- A row of the bypass; what the drain under way will write is there already. -/
def Tile.bypRow (x : Tile) (i : Nat) : Line :=
  let b := (x.mxq.filter (·.started)).foldl (fun b c => match c.byp with | some y => some y | none => b) x.byp
  let es := match b with
    | some y => (y.elems.drop (64 * i)).take 64
    | none => []
  { elems := es.map fun e => e.1.toNat, scales := [], bad := es.any (·.2) }

/-! ### Products (04 R106 to R108) -/

/-- The runs of a binary32 accumulation. -/
def runsF (fa fb : Fmt) : Nat → Nat → List Nat → List Nat → (Nat → Exact) → Nat → Nat
  | 0, _, _, _, _, acc => acc
  | n + 1, r, as, bs, sc, acc =>
    let s := Exact.sum false (((as.take 16).zip (bs.take 16)).map fun p => Exact.mul (fmtValue fa p.1) (fmtValue fb p.2))
    runsF fa fb n (r + 1) (as.drop 16) (bs.drop 16) sc (rn32 (Exact.sum false [f32Val acc, Exact.mul s (sc (r / 2))]))

/-- The runs of an INT32 accumulation, with the overflow of any. -/
def runsI (wa wb : Nat) : Nat → List Nat → List Nat → Int × Bool → Int × Bool
  | 0, _, _, r => r
  | n + 1, as, bs, (acc, o) =>
    let t := acc + (((as.take 16).zip (bs.take 16)).map fun p => signedOf wa p.1 * signedOf wb p.2).sum
    runsI wa wb n (as.drop 16) (bs.drop 16) (signedOf 32 (encInt 32 t), o || decide (t < -2 ^ 31 ∨ 2 ^ 31 - 1 < t))

/-- The scale of block n: the product of its scale words, or exactly 1. -/
def scaleAt (m : MxPar) (a b : Line) (n : Nat) : Exact :=
  if hasScale m then Exact.mul (f32Val (a.scales.getD n 0)) (f32Val (b.scales.getD n 0)) else .ofInt 1

/-- One accumulator element: its word and whether it overflowed. -/
def product (m : MxPar) (a b : Line) (start : Nat) : Nat × Bool :=
  if MxPar.isInt m then
    let (v, o) := runsI (MxPar.fmtA m).width (MxPar.fmtB m).width (MxPar.k m / 16) a.elems b.elems (signedOf 32 start, false)
    (encInt 32 v, o)
  else (runsF (MxPar.fmtA m) (MxPar.fmtB m) (MxPar.k m / 16) 0 a.elems b.elems (scaleAt m a b) start, false)

/-! ### What a started command will write -/

def MxCmd.admits (c : MxCmd) (i j : Nat) : Bool := c.rows.getLsbD i && c.cols.getLsbD j

/-- A word to a block. -/
def putTm (blk i j : Nat) (w : PWord) : MxWrite := ⟨true, tmAddr blk i j, taint w.2 (leBytes 4 w.1)⟩

/-- All 64 x 64 elements. -/
def elems64 : List (Nat × Nat) := (List.range 64).flatMap fun i => (List.range 64).map fun j => (i, j)

/-- Writes of a slot (11 R292): admitted elements take the value; the others, on a first write, the read copy's. -/
def MxCmd.putSlot (c : MxCmd) (x : Tile) (s : BitVec 3) (val : Nat → Nat → PWord) : List MxWrite :=
  elems64.filterMap fun (i, j) =>
    if c.admits i j then some (putTm (slotBlk s c.wrCopy) i j (val i j))
    else if c.fresh then some (putTm (slotBlk s c.wrCopy) i j (x.tmWord (tmAddr (slotBlk s c.rdCopy) i j)))
    else none

/-- Writes of a tensor operand. -/
def MxCmd.putTop (c : MxCmd) (x : Tile) (t : TOp) (val : Nat → Nat → PWord) : List MxWrite :=
  match t with
  | .acc s => c.putSlot x s val
  | .blk n => elems64.filterMap fun (i, j) => if c.admits i j then some (putTm n.toNat i j (val i j)) else none

/-- Element (i, j) of a tensor operand that is read. -/
def MxCmd.getTop (c : MxCmd) (x : Tile) (t : TOp) (i j : Nat) : PWord :=
  match t with
  | .acc s => x.tmWord (tmAddr (slotBlk s c.srcCopy) i j)
  | .blk n => x.tmWord (tmAddr n.toNat i j)

/-- The start value of an element. -/
def MxCmd.startVal (c : MxCmd) (x : Tile) (s : BitVec 3) (set : Bool) (i j : Nat) : PWord :=
  if set then (0, false) else x.tmWord (tmAddr (slotBlk s c.rdCopy) i j)

/-- A product: what it writes and whether it overflowed. -/
def MxCmd.multiply (c : MxCmd) (x : Tile) (s : BitVec 3) (set : Bool) (rows cols : List Line) : List MxWrite × Bool :=
  let empty : Line := ⟨[], [], false⟩
  let val (i j : Nat) : PWord × Bool :=
    let st := c.startVal x s set i j
    let a := rows.getD i empty
    let b := cols.getD j empty
    let (v, o) := product c.mp a b st.1
    ((v, st.2 || a.bad || b.bad), o)
  (c.putSlot x s fun i j => (val i j).1, elems64.any fun (i, j) => c.admits i j && (val i j).2)

/-- MACC's element, and whether it overflowed. -/
def accumulate (m : MxPar) (y x : PWord) : PWord × Bool :=
  if MxPar.isInt m then
    let t := signedOf 32 y.1 + signedOf 32 x.1
    ((encInt 32 t, y.2 || x.2), decide (t < -2 ^ 31 ∨ 2 ^ 31 - 1 < t))
  else ((rn32 (Exact.sum false [f32Val y.1, f32Val x.1]), y.2 || x.2), false)

/-- A drained element. -/
def drained (m : MxPar) (rand : BitVec 32) (x : Nat) : Nat :=
  if MxPar.isInt m then encInt (MxPar.fd m).width (satS (MxPar.fd m).width (signedOf 32 x))
  else convert (MxPar.fd m) (MxPar.rnd m) (MxPar.sat m && MxPar.fd m != .f32) rand (f32Val x)

/-- The bytes a command reads in scratchpad, for the clean-fill check (20 R445). -/
def MxCmd.spReads (c : MxCmd) : List (Nat × Nat) :=
  let scale (a : Word) : List (Nat × Nat) :=
    if hasScale c.mp then [(offsetBy a (MxPar.soA c.mp), 256 * (MxPar.k c.mp / 32))] else []
  match c.op with
  | .mma _ _ false =>
    ((List.range 64).map fun i => (c.addrA.toNat + i * MxPar.pitchA c.mp, rowLen c.mp false)) ++ scale c.addrA
  | .mmas .. =>
    ((List.range 64).map fun i => (c.addrA.toNat + i * MxPar.pitchA c.mp, rowLen c.mp true)) ++ scale c.addrA ++
      [(offsetBy c.addrA (MxPar.mo c.mp), 64 * (MxPar.k c.mp / 128 * MxPar.n c.mp))]
  | .tmld _ => (List.range 64).map fun i => (c.addrA.toNat + i * MxPar.pitchT c.mp, 256)
  | _ => []

/-- What a command that starts now will write at its completion. -/
def Region.mxRun (g : Region) (fresh t : Nat) (c : MxCmd) : MxCmd :=
  let x := g.tile t
  match c.op with
  | .mma s set byp =>
    let rows := (List.range 64).map fun i => if byp then x.bypRow i else g.rowA fresh t c.mp c.addrA i
    let (w, o) := c.multiply x s set rows ((List.range 64).map (g.colB fresh t c.mp c.addrB))
    { c with out := w, ovf := o }
  | .mmas s set =>
    let (w, o) := c.multiply x s set ((List.range 64).map (g.rowS fresh t c.mp c.addrA))
      ((List.range 64).map (g.colB fresh t c.mp c.addrB))
    { c with out := w, ovf := o }
  | .mzero s => { c with out := c.putSlot x s fun _ _ => (0, false) }
  | .macc s src =>
    let val (i j : Nat) : PWord × Bool := accumulate c.mp (c.startVal x s false i j) (c.getTop x src i j)
    { c with
      out := c.putSlot x s fun i j => (val i j).1
      ovf := elems64.any fun (i, j) => c.admits i j && (val i j).2 }
  | .mdrain s byp =>
    let val (i j : Nat) : PWord :=
      let w := x.tmWord (tmAddr (slotBlk s c.srcCopy) i j)
      (drained c.mp (srWord g.launch.seed c.srpos t c.strB (64 * i + j)) w.1, w.2)
    if byp then
      let es := elems64.map fun (i, j) =>
        if c.admits i j then (BitVec.ofNat 32 (val i j).1, (val i j).2) else (0, false)
      { c with byp := some ⟨MxPar.fd c.mp, es⟩ }
    else
      let z := (MxPar.fd c.mp).width / 8
      let w := elems64.filterMap fun (i, j) =>
        if c.admits i j then
          some (⟨false, c.addrA.toNat + i * MxPar.pitchD c.mp + z * j, taint (val i j).2 (leBytes z (val i j).1)⟩ : MxWrite)
        else none
      { c with out := w }
  | .tmld d =>
    { c with out := c.putTop x d fun i j => leVal (g.spRead fresh t (c.addrA.toNat + i * MxPar.pitchT c.mp + 4 * j) 4) }
  | .tmst src =>
    let w := elems64.filterMap fun (i, j) =>
      if c.admits i j then
        let v := c.getTop x src i j
        some (⟨false, c.addrA.toNat + i * MxPar.pitchT c.mp + 4 * j, taint v.2 (leBytes 4 v.1)⟩ : MxWrite)
      else none
    { c with out := w }
  | .tmmv d src => { c with out := c.putTop x d (c.getTop x src) }

/-! ### Start and completion (11 R285 to R287) -/

/-- The oldest command not yet started. -/
def Tile.mxHead (x : Tile) : Option MxCmd := x.mxq.find? fun c => !c.started

/-- Its wait is met. -/
def Tile.mxWaitMet (x : Tile) (c : MxCmd) : Bool :=
  match c.wait with
  | none => true
  | some (n, v) => decide (v ≤ x.counter n)

/-- A command starts: it reads. -/
def Region.mxStart (g : Region) (fresh t : Nat) (c : MxCmd) : Region :=
  let c' : MxCmd := { (g.mxView t c).mxRun fresh t c with started := true }
  let g' := g.modTile t fun x => { x with mxq := x.mxq.map fun y => if y.key = c.key then c' else y }
  match c.spReads.find? fun r => (g.tile t).cleanHit r.1 r.2 with
  | some r => g'.raiseEvent t c.strB 0x302 ((g.tile t).hitSeg r.1 r.2) none none
  | none => g'

/-- A command completes: it writes, its slot's overflow flag follows, its counter rises. -/
def Region.mxComplete (g : Region) (fresh t : Nat) (c : MxCmd) : Region :=
  (g.mxWrites fresh t c.out).modTile t fun x =>
    let x := match MxOp.target c.op with
      | some s => x.ovfAfter s c.rdCopy c.wrCopy c.fresh c.ovf
      | none => x
    let x := match c.byp with
      | some b => { x with byp := some b }
      | none => x
    ({ x with mxq := x.mxq.filter fun y => y.key ≠ c.key } : Tile).inc (if c.sig then 21 else 20) 1

end Sys2Proof.Machine
end

