-- ==== Sys2Proof/Machine/Engine.lean ====
section
/-! DEFINITION. The EC slot: descriptors, replies, and the issue of engine commands with its checks
(12 R306 to R329). What a command does in wall time is in Async. -/

namespace Sys2Proof.Machine

/-! ### Descriptor fields (12 R314) -/

/-- A captured descriptor. -/
abbrev Desc := Vector Val 8

def Desc.w (d : Desc) (n : Nat) : Word := (d[n]?.getD {}).bits

/-- Bits [hi:lo] of a word. -/
def Desc.f (d : Desc) (n hi lo : Nat) : Nat := bitsOf (Desc.w d n).toNat hi lo

def Desc.cls (d : Desc) : Nat := Desc.f d 1 63 60
def Desc.scope (d : Desc) : Nat := Desc.f d 1 59 57
def Desc.fmt (d : Desc) : Option Fmt := Fmt.ofCode (BitVec.ofNat 4 (Desc.f d 1 55 52))
def Desc.ps (d : Desc) : Nat := Desc.f d 1 43 24
def Desc.n (d : Desc) : Nat := Desc.f d 2 31 16
def Desc.lb (d : Desc) : Nat := Desc.f d 2 15 0
def Desc.pg (d : Desc) : Int := ((Desc.w d 2).extractLsb' 32 32).toInt

/-- The kinds of descriptor. -/
inductive Kind | linear | bstack | indexed | transfer | fill | window | collective
  deriving DecidableEq, Repr

def EngFn.kind : EngFn → Option Kind
  | .ceIn | .ceOut | .ceOutr _ => some .linear
  | .ceB => some .bstack
  | .ceGath | .ceScat => some .indexed
  | .ceXfer => some .transfer
  | .ceFill => some .fill
  | .ceWin => some .window
  | .colRed _ | .colAg | .colBc | .colQ | .colQFree => some .collective
  | .teLoad _ | .schEnq | .schRaise | .schPost => none

/-- Bits lo to hi set. -/
def ones (hi lo : Nat) : Nat := (2 ^ (hi + 1 - lo) - 1) * 2 ^ lo

/-- The bits a kind lists in words 0, 2, 3 and 4. -/
def Kind.listed : Kind → List Nat
  | .linear => [ones 56 0, ones 63 0, 0, 0]
  | .bstack => [ones 56 0, ones 63 0, ones 5 0 + ones 30 16, 0]
  | .indexed => [ones 56 0, ones 63 0, ones 51 0, 0]
  | .transfer => [0, ones 31 0, ones 55 0, 0]
  | .fill => [ones 63 0, ones 31 0, 0, 0]
  | .window => [ones 56 0, ones 63 0, ones 63 0, ones 63 24 + ones 15 0]
  | .collective => [ones 31 0, ones 31 0, ones 51 0, 0]

/-- The bits of word 1. -/
def w1Listed : Nat := ones 63 57 + ones 55 52 + ones 43 24 + ones 19 0

/-- No bit outside a mask. -/
def within (m : Nat) (w : Word) : Bool := w &&& ~~~(BitVec.ofNat 64 m) == 0

def Desc.reservedOk (d : Desc) (k : Kind) : Bool :=
  let m := Kind.listed k
  within (m.getD 0 0) (Desc.w d 0) && within w1Listed (Desc.w d 1) && within (m.getD 1 0) (Desc.w d 2) &&
    within (m.getD 2 0) (Desc.w d 3) && within (m.getD 3 0) (Desc.w d 4) &&
    Desc.w d 5 == 0 && Desc.w d 6 == 0 && Desc.w d 7 == 0

/-! ### Commands (12 R315 to R321) -/

/-- A command's global address G, scratchpad address S and transfer or collective destination D. -/
def Cmd.g (c : Cmd) : Nat := (Desc.w c.desc 0 + c.a).toNat
def Cmd.s (c : Cmd) : Nat := (BitVec.ofNat 64 (Desc.f c.desc 1 19 0) + c.b).toNat
def Cmd.d (c : Cmd) : Nat := (BitVec.ofNat 64 (Desc.f c.desc 3 19 0) + c.a).toNat

/-- The transfer's target offsets. -/
def Cmd.dx (c : Cmd) : BitVec 8 := BitVec.ofNat 8 (Desc.f c.desc 3 47 40)
def Cmd.dy (c : Cmd) : BitVec 8 := BitVec.ofNat 8 (Desc.f c.desc 3 55 48)

/-- A window descriptor's fields (12 R317). -/
structure Win where
  ih : Nat
  iw : Nat
  c : Nat
  kp : Nat
  oy0 : Nat
  ox0 : Nat
  kh : Nat
  kw : Nat
  sh : Nat
  sw : Nat
  dh : Nat
  dw : Nat
  pt : Nat
  pl : Nat
  pb : Nat
  pr : Nat
  np : Nat

def Desc.win (d : Desc) : Win where
  ih := Desc.f d 2 31 16
  iw := Desc.f d 2 15 0
  c := Desc.f d 3 63 48
  kp := Desc.f d 3 47 32
  oy0 := Desc.f d 3 31 16
  ox0 := Desc.f d 3 15 0
  kh := Desc.f d 4 63 60 + 1
  kw := Desc.f d 4 59 56 + 1
  sh := Desc.f d 4 55 52 + 1
  sw := Desc.f d 4 51 48 + 1
  dh := Desc.f d 4 47 44 + 1
  dw := Desc.f d 4 43 40 + 1
  pt := Desc.f d 4 39 36
  pl := Desc.f d 4 35 32
  pb := Desc.f d 4 31 28
  pr := Desc.f d 4 27 24
  np := Desc.f d 4 15 0

/-- OW and OH. -/
def outLen (i p q d k s : Nat) : Int := ((i : Int) + p + q - d * (k - 1 : Nat) - 1) / s + 1

def Win.ow (w : Win) : Int := outLen w.iw w.pl w.pr w.dw w.kw w.sw
def Win.oh (w : Win) : Int := outLen w.ih w.pt w.pb w.dh w.kh w.sh

/-- The formats and operations of COL.RED (12 R320). -/
def colFmt : AOp → Fmt → Bool
  | .add, f | .min, f | .max, f => f == .f32 || f == .bf16 || f == .f16 || f == .i32
  | .and, f | .or, f | .xor, f | .minu, f | .maxu, f => f == .i32
  | _, _ => false

/-- Check 1: reserved bits, the scope code, the format, the shape (0x184). -/
def Cmd.shapeOk (c : Cmd) (k : Kind) : Bool :=
  Desc.reservedOk c.desc k && decide (Desc.scope c.desc < 6) &&
  match Desc.fmt c.desc with
  | none => false
  | some f =>
    match c.fn with
    | .ceOutr op =>
      (if op = .fadd then f == .f32 else f == .i32) && decide (Desc.lb c.desc % 4 = 0) &&
        (decide (Desc.n c.desc = 0) || decide (c.g % 4 = 0)) &&
        (decide (Desc.n c.desc ≤ 1) || decide (Desc.pg c.desc % 4 = 0))
    | .ceWin =>
      let w := Desc.win c.desc
      f != .e8m0 && decide (w.c * f.width % 8 = 0) && decide (w.kp * f.width % 8 = 0) &&
        decide (w.kh * w.kw * w.c ≤ w.kp) && decide (1 ≤ w.ow) && decide (1 ≤ w.oh) &&
        decide (w.ih ≠ 0 ∧ w.iw ≠ 0 ∧ w.c ≠ 0)
    | .colRed op =>
      decide (Desc.scope c.desc = 5) && colFmt op f && decide (8 * Desc.lb c.desc % f.width = 0)
    | .colAg | .colBc | .colQ | .colQFree => decide (Desc.scope c.desc = 5)
    | _ => true

/-- Rows of `len` bytes from `base` on at pitch p, below a bound; rows of no bytes address nothing. -/
def rowsBelow (bound base : Int) (p : Int) (n len : Nat) : Bool :=
  n = 0 || len = 0 || (decide (0 ≤ base + (n - 1 : Nat) * p) && decide (0 ≤ base) &&
    decide (base + len ≤ bound) && decide (base + (n - 1 : Nat) * p + len ≤ bound))

/-- Check 2: every global byte keeps bits [63:57] zero. -/
def Cmd.globalOk (c : Cmd) : Bool :=
  let top : Int := 2 ^ 57
  let rows (n len : Nat) : Bool := rowsBelow top c.g (Desc.pg c.desc) n len
  match c.fn with
  | .ceIn | .ceOut | .ceOutr _ | .ceB => rows (Desc.n c.desc) (Desc.lb c.desc)
  | .ceGath | .ceScat =>
    decide (Desc.n c.desc = 0) || rows (Desc.f c.desc 3 51 20) (Desc.lb c.desc)
  | .ceWin =>
    let w := Desc.win c.desc
    decide (w.np = 0) || rows w.ih ((w.iw * w.c * ((Desc.fmt c.desc).getD .i8).width + 7) / 8)
  | .teLoad _ => decide ((c.a + c.b).toNat + 3104 ≤ 2 ^ 57)
  | _ => true

/-- The packet length a SCH.ENQ's header gives. -/
def packetBytes (header : Nat) : Nat := max 8 (8 * bitsOf header 31 16)

/-- Check 3: scratchpad ranges below the limit. -/
def Cmd.spadOk (c : Cmd) (lim : Nat) (header : Nat) : Bool :=
  let n := Desc.n c.desc
  let lb := Desc.lb c.desc
  let rows (base p n len : Nat) : Bool := rowsBelow lim base p n len
  match c.fn with
  | .ceIn | .ceOut | .ceOutr _ | .ceFill => rows c.s (Desc.ps c.desc) n lb
  | .ceGath | .ceScat => rows c.s (Desc.ps c.desc) n lb && decide (Desc.f c.desc 3 19 0 + 4 * n ≤ lim)
  | .ceXfer => rows c.s (Desc.ps c.desc) n lb && rows c.d (Desc.f c.desc 3 39 20) n lb
  | .ceWin =>
    let w := Desc.win c.desc
    rows c.s (Desc.ps c.desc) w.np (w.kp * ((Desc.fmt c.desc).getD .i8).width / 8)
  | .colRed _ | .colBc =>
    decide (c.s + lb ≤ lim) && decide (c.d + lb ≤ lim) && decide (Desc.f c.desc 3 39 20 + 4 * n ≤ lim)
  | .colAg =>
    decide (c.s + lb ≤ lim) && decide (c.d + n * lb ≤ lim) && decide (Desc.f c.desc 3 39 20 + 4 * n ≤ lim)
  | .colQ | .colQFree => decide (Desc.f c.desc 3 39 20 + 4 * n ≤ lim)
  | .schEnq => decide (c.a.toNat + packetBytes header ≤ lim)
  | _ => true

/-- Check 4: index lists, group tables and packets are aligned. -/
def Cmd.alignOk (c : Cmd) : Bool :=
  match c.fn with
  | .ceGath | .ceScat => decide (Desc.f c.desc 3 19 0 % 4 = 0)
  | .colRed _ | .colBc | .colAg | .colQ | .colQFree => decide (Desc.f c.desc 3 39 20 % 4 = 0)
  | .schEnq => decide (c.a.toNat % 8 = 0)
  | _ => true

/-- Check 5: the B-stack range. -/
def Cmd.stackOk (c : Cmd) : Bool :=
  match c.fn with
  | .ceB => decide (Desc.f c.desc 3 5 0 + Desc.n c.desc ≤ 64) && decide (Desc.f c.desc 3 30 16 + Desc.lb c.desc ≤ 32768)
  | _ => true

/-- The virtual address a record or a cause names. -/
def Cmd.vaddr (c : Cmd) : Nat :=
  match c.fn with
  | .teLoad _ => (c.a + c.b).toNat
  | .schEnq | .schRaise | .schPost => c.a.toNat
  | .colRed _ | .colAg | .colBc | .colQ | .colQFree => c.d
  | _ => c.g

def EngFn.sched : EngFn → Bool
  | .schEnq | .schRaise | .schPost => true
  | _ => false

/-- The gated functions (12 R306). -/
def EngFn.gated : EngFn → Bool
  | .ceOut | .ceOutr _ | .ceScat | .colRed _ | .colAg | .colBc | .colQ | .colQFree => true
  | f => EngFn.sched f

/-- Which commands access global memory (05 R135, R137); a transfer or fill takes a place in the tile's order only to be
ordered after an acquire (05 R129). -/
def EngFn.global : EngFn → Bool
  | .ceXfer | .ceFill => false
  | _ => true

/-- The class an access of the command has. -/
def Cmd.cls (c : Cmd) : Nat :=
  match EngFn.kind c.fn with
  | some _ => Desc.cls c.desc
  | none => 0

/-- The scratchpad, B-stack or table destination of a command, unspecified until it is acquired (05 R136, R138). -/
def Region.dest (g : Region) (c : Cmd) : List (Option Range × Option (BitVec 3)) :=
  let t := c.tile
  let n := Desc.n c.desc
  let lb := Desc.lb c.desc
  let sp (tile base p n len : Nat) : List (Option Range × Option (BitVec 3)) :=
    (List.range n).map fun i => (some ⟨false, tile, base + i * p, len⟩, none)
  match c.fn with
  | .ceIn | .ceGath | .ceFill => sp t c.s (Desc.ps c.desc) n lb
  | .ceWin =>
    let w := Desc.win c.desc
    sp t c.s (Desc.ps c.desc) w.np (w.kp * ((Desc.fmt c.desc).getD .i8).width / 8)
  | .ceXfer =>
    match g.remote t c.dx c.dy with
    | some (u, _, _) => sp u c.d (Desc.f c.desc 3 39 20) n lb
    | none => []
  | .ceB =>
    (List.range n).map fun i =>
      (some ⟨true, t, 32768 * (Desc.f c.desc 3 5 0 + i) + Desc.f c.desc 3 30 16, lb⟩, none)
  | .colRed _ | .colBc => sp t c.d 0 1 lb
  | .colAg => sp t c.d 0 1 (n * lb)
  | .teLoad k => [(none, some k)]
  | _ => []

/-! ### Issue (12 R308 to R311, R314) -/

/-- Entries of a context's pool. -/
def poolSize (ctr : Nat) : Nat :=
  if ctr < 16 then 64 else if ctr < 20 then 16 else if ctr = 22 then 8 else 32

/-- The commands of a context that hold a number and have not been counted. -/
def Region.outstanding (g : Region) (t ctr : Nat) : Nat := (g.cmds.filter fun c => c.tile == t && c.ctr == ctr).length

/-- The checks of 12 R314 and R326, in their order. -/
def Region.cmdChecks (g : Region) (s : State) (fresh : Nat) (cu : Cursor) (c : Cmd) : Except Stop Unit := do
  match EngFn.kind c.fn with
  | some k => need (c.shapeOk k) 0x184
  | none => .ok ()
  if c.fn = .schEnq then
    need (decide (c.b.toNat ≤ 255) && ((s.part? g.launch.part).map fun p => p.hasQueue c.b.toNat).getD false) 0x18C
  else .ok ()
  needAt c.globalOk 0x100 c.vaddr
  need (c.spadOk g.spLimit (leVal (g.spRead fresh cu.t c.a.toNat 8)).1) 0x090
  need c.alignOk 0x091
  need c.stackOk 0x186
  match c.fn with
  | .ceXfer => need (g.remote cu.t c.dx c.dy).isSome 0x092
  | _ => .ok ()

/-- The code byte of a gated command's record (13 R358). -/
def EngFn.opCode : EngFn → BitVec 8
  | .ceOutr op | .colRed op => (AOp.code op).setWidth 8
  | _ => 0

/-- The command as issued: the next number of its counter, in a pool entry, gated or sent. -/
def Region.addCmd (g : Region) (cu : Cursor) (c : Cmd) : Region :=
  let gated := EngFn.gated c.fn
  let unacq : List Unacq := (g.dest c).map fun (r, t) => ⟨cu.t * 32 + c.ctr, c.num, r, t⟩
  let item : Item :=
    { id := c.id, kind := .cmd c.id, tile := cu.t, key := c.key, stitch := g.stitch, released := false
      va := c.vaddr, page := none, bytes := [], bad := false, cls := BitVec.ofNat 4 c.cls
      scope := if EngFn.sched c.fn then 5 else BitVec.ofNat 3 (Desc.scope c.desc)
      flav := 0, wcode := EngFn.opCode c.fn, tag := none, lost := false, moved := [], sends := 0 }
  let e : Acc :=
    { id := c.id, load := EngFn.global c.fn && !gated, item := gated, engine := true, fence := none, cls := BitVec.ofNat 4 c.cls
      acq := false, rel := false, stitch := g.stitch, iss := g.now, spans := [] }
  let g : Region :=
    { g with
      cmds := g.cmds ++ [c]
      unacq := g.unacq ++ unacq
      items := if gated then g.items ++ [item] else g.items }
  (g.ordered cu e).modTile cu.t fun x =>
    { x with
      issued := x.issued.setIfInBounds c.ctr c.num
      used := x.used.setIfInBounds c.ctr (x.used[c.ctr]?.getD 0 + 1) }

/-- A reply lands at issue + 2, in its destination and in lx. -/
def Region.reply (g : Region) (cu : Cursor) (d : Option SDst) (x : Val) : Region :=
  match d with
  | none => g
  | some d => g.fly cu 2 (.scalar (some d) (some .lx) x)

/-- An ECMD that takes a number: descriptor and operands are captured, checked, and the command takes an entry. -/
def engCommand (s : State) (gd : Guard) (fn : EngFn) (ctr : Nat) (rpl : Option SDst) (ds : Option (BitVec 4)) (a b : SSrc)
    (onIssue : Cursor → Region → Cmd → Region) : Out :=
  guarded s gd fun cu g => do
    g.notStub
    let x ← g.readSound s cu a
    let y ← g.readSound s cu b
    let d : Desc := match ds with
      | some n => (g.tile cu.t).ds[n.toNat]'n.isLt
      | none => Vector.replicate 8 {}
    need (!(d.toList.any (·.bad))) 0x301
    let n := (g.tile cu.t).issued[ctr]?.getD 0 + 1
    let c : Cmd :=
      { id := s.fresh, fn := fn, ctr := ctr, num := n, desc := d, a := x, b := y
        key := orderKey g.now cu.t cu.b cu.slot, stitch := g.stitch
        st := if EngFn.gated fn then .gated else .sent
        tag := none, gen := 0, touched := [], dead := false, lost := false
        rank := (g.cmds.filter fun x => x.tile = cu.t && x.ctr = ctr && x.stitch = g.stitch && x.st == .gated).length
        wrote := [], moved := [], sends := 0 }
    g.cmdChecks s s.fresh cu c
    if EngFn.gated fn then g.itemRoom else .ok ()
    if poolSize ctr ≤ g.outstanding cu.t ctr then .error (.freeze (g.nextParked cu.t ctr)) else .ok ()
    let base := ((g.cur cu).bank.tb[ctr]?.getD {}).bits
    return onIssue cu ((g.addCmd cu c).reply cu rpl ⟨BitVec.ofNat 64 n - base, false⟩) c

def noMore : Cursor → Region → Cmd → Region := fun _ g _ => g

/-! ### Functions that take no number -/

/-- DESC.SET: at the end of the sc. -/
def execDescSet (gd : Guard) (ds : BitVec 4) (p : BitVec 2) (a b : SSrc) (s : State) : Out :=
  guarded s gd fun cu g => do
    g.notStub
    let x ← g.readSound s cu a
    let y ← g.readSound s cu b
    return g.atEnd cu (.descSet ds p ⟨x, false⟩ ⟨y, false⟩)

/-- DESC.GET. -/
def execDescGet (gd : Guard) (d : SDst) (ds : BitVec 4) (w : BitVec 3) (s : State) : Out :=
  guarded s gd fun cu g => do
    g.notStub
    return g.reply cu (some d) (((g.tile cu.t).ds[ds.toNat]'ds.isLt)[w.toNat]'w.isLt)

/-- ENG.STAT (12 R327). -/
def execEngStat (gd : Guard) (d : SDst) (n : BitVec 5) (s : State) : Out :=
  guarded s gd fun cu g => do
    g.notStub
    let c : BitVec 32 := ((g.tile cu.t).counter n.toNat).setWidth 32
    return g.reply cu (some d) ⟨c ++ BitVec.ofNat 32 (g.outstanding cu.t n.toNat), false⟩

/-- TE.CFG (12 R325). -/
def execTeCfg (gd : Guard) (tab : BitVec 3) (lo hi : BitVec 2) (a : SSrc) (s : State) : Out :=
  guarded s gd fun cu g => do
    g.notStub
    let x ← g.readSound s cu a
    need ((g.tile cu.t).tabs[tab.toNat]'tab.isLt).isSome 0x18E
    return g.atEnd cu (.tabCfg tab ⟨lo, hi, x⟩)

/-! ### Copies (12 R315 to R317) -/

def copyCmd (s : State) (fn : EngFn) (o : EngA) : Out :=
  engCommand s o.gd fn o.cx.toNat o.rpl (some o.ds) o.a o.b noMore

/-- CE.IN. -/
def execCeIn (o : EngA) (s : State) : Out := copyCmd s .ceIn o

/-- CE.OUT. -/
def execCeOut (o : EngA) (s : State) : Out := copyCmd s .ceOut o

/-- CE.OUTR. -/
def execCeOutr (o : EngA) (op : AOp) (s : State) : Out := copyCmd s (.ceOutr op) o

/-- CE.B. -/
def execCeB (o : EngA) (s : State) : Out := copyCmd s .ceB o

/-- CE.WIN. -/
def execCeWin (o : EngA) (s : State) : Out := copyCmd s .ceWin o

/-- CE.GATH. -/
def execCeGath (o : EngA) (s : State) : Out := copyCmd s .ceGath o

/-- CE.SCAT. -/
def execCeScat (o : EngA) (s : State) : Out := copyCmd s .ceScat o

/-- CE.XFER. -/
def execCeXfer (o : EngA) (s : State) : Out := copyCmd s .ceXfer o

/-- CE.FILL. -/
def execCeFill (o : EngA) (s : State) : Out := copyCmd s .ceFill o

/-! ### Collectives (12 R319 to R322) -/

def colCmd (s : State) (fn : EngFn) (o : EngA) : Out :=
  engCommand s o.gd fn (16 + o.cx.toNat % 4) o.rpl (some o.ds) o.a o.b noMore

/-- COL.RED. -/
def execColRed (o : EngA) (op : AOp) (s : State) : Out := colCmd s (.colRed op) o

/-- COL.AG. -/
def execColAg (o : EngA) (s : State) : Out := colCmd s .colAg o

/-- COL.BC. -/
def execColBc (o : EngA) (s : State) : Out := colCmd s .colBc o

/-- COL.Q. -/
def execColQ (o : ColqA) (s : State) : Out :=
  engCommand s o.gd .colQ (16 + o.cx.toNat) o.rpl (some o.ds) (.g 0) (.g 0) noMore

/-- COL.Q.FREE. -/
def execColQFree (o : ColqA) (s : State) : Out :=
  engCommand s o.gd .colQFree (16 + o.cx.toNat) o.rpl (some o.ds) (.g 0) (.g 0) noMore

/-! ### Table loads and scheduler functions (12 R324, R326) -/

/-- TE.LOAD: the slot is loaded from its issue; what it held is read no more until the load is acquired, and stands again
where a frog cancels the load. -/
def execTeLoad (gd : Guard) (rpl : Option SDst) (tab : BitVec 3) (a b : SSrc) (s : State) : Out :=
  engCommand s gd (.teLoad tab) 22 rpl none a b fun cu g c => g.atEnd cu (.tabLoad tab c.vaddr)

/-- SCH.ENQ. -/
def execSchEnq (o : SchA) (s : State) : Out := engCommand s o.gd .schEnq 23 o.rpl none o.a o.b noMore

/-- SCH.RAISE. -/
def execSchRaise (o : SchA) (s : State) : Out := engCommand s o.gd .schRaise 23 o.rpl none o.a o.b noMore

/-- SCH.POST. -/
def execSchPost (o : SchA) (s : State) : Out := engCommand s o.gd .schPost 23 o.rpl none o.a o.b noMore

end Sys2Proof.Machine
end

