-- ==== Sys2Proof/Machine/Landing.lean ====
section
/-! DEFINITION. What takes effect on the region clock at its own sc: results, stores, samples, arrivals, phases,
increments, mailbox writes, matrix starts and completions (02 R37; 03 R69; 05 R117, R118; 07 R178, R179;
09 R246, R249; 11 R286, R287). -/

namespace Sys2Proof.Machine

/-! ### Finding what is due -/

/-- The entry that comes first: by its sc, then its place in the order. -/
def firstFly : List Fly → Option Fly
  | [] => none
  | a :: r =>
    match firstFly r with
    | none => some a
    | some b => if b.due < a.due ∨ (b.due = a.due ∧ b.key < a.key) then some b else some a

/-- Sorted by sc and place in the order. -/
def insertFly (f : Fly) : List Fly → List Fly
  | [] => [f]
  | x :: r => if f.due < x.due ∨ (f.due = x.due ∧ f.key < x.key) then f :: x :: r else x :: insertFly f r

/-- The first due entry of a kind. -/
def Region.dueFly (g : Region) (p : Flight → Bool) : Option Fly :=
  firstFly (g.flights.filter fun f => isDue g.now f.due && p f.what)

def Flight.isStore : Flight → Bool
  | .store .. => true
  | _ => false

def Flight.isSample : Flight → Bool
  | .sample .. => true
  | _ => false

def Flight.isArrive : Flight → Bool
  | .arrive .. => true
  | _ => false

def Flight.isPhase : Flight → Bool
  | .phase _ => true
  | _ => false

def Flight.isInc : Flight → Bool
  | .inc .. => true
  | _ => false

/-- An awaited result that is due and has arrived. -/
def Region.dueAwait (g : Region) : Option Await :=
  g.awaits.find? fun a => a.missing g.now && (match a.st with | .value _ | .handle _ => true | _ => false)

/-- A machine event of one region: refused where it is not due. -/
def regionEvent (name : String) (r : Nat) (s : State) (f : Region → Option State) : Out :=
  match s.region? r with
  | none => .refused (.notDue name)
  | some g =>
    match f g with
    | some s' => .next s'
    | none => .refused (.notDue name)

/-! ### Register results (07 R178, R179) -/

/-- A result of the VA slot: a vector, a lane mask, or what a reduction, VQSCALE, VEXT or LMPOPC sends to a scalar
register. -/
def Fly.ofVector (f : Fly) : Bool :=
  match f.what with
  | .vec .. | .mask .. => true
  | .scalar .. => keySlot f.key == 3 && !f.strB
  | _ => false

/-- A vector or table result whose residue check fails raises 0x382 as it lands (20 R439). -/
def Region.checkLanding (g : Region) (f : Fly) : Region :=
  if f.ofVector && (g.tile f.tile).dataBad then
    (g.modTile f.tile fun x => { x with dataBad := false }).raiseEvent f.tile f.strB 0x382 0 none none
  else g

/-- RESULT_LANDING: the first due result lands; a result from wall time that is due and has arrived lands too. -/
def execResultLanding (r : Nat) (s : State) : Out :=
  regionEvent "RESULT_LANDING" r s fun g =>
    match g.dueFly Flight.isReg, g.dueAwait with
    | some f, some a =>
      if a.due < f.due ∨ (a.due = f.due ∧ a.key < f.key) then some (s.setRegion (g.landAwait a))
      else some (s.setRegion ((g.landReg f).checkLanding f))
    | some f, none => some (s.setRegion ((g.landReg f).checkLanding f))
    | none, some a => some (s.setRegion (g.landAwait a))
    | none, none => none

/-! ### Scratchpad (05 R117) -/

/-- STORE_PERFORM. -/
def execStorePerform (r : Nat) (s : State) : Out :=
  regionEvent "STORE_PERFORM" r s fun g =>
    (g.dueFly Flight.isStore).bind fun f =>
      match f.what with
      | .store t ps => some ({ s with fresh := s.fresh + 1 }.setRegion (g.perform s.fresh f t ps))
      | _ => none

/-- REMOTE_LOAD_SAMPLE. -/
def execRemoteLoadSample (r : Nat) (s : State) : Out :=
  regionEvent "REMOTE_LOAD_SAMPLE" r s fun g =>
    (g.dueFly Flight.isSample).bind fun f =>
      match f.what with
      | .sample t a n sx d due =>
        some ({ s with fresh := s.fresh + 1 }.setRegion (g.sample s.fresh f t a n sx d due))
      | _ => none

/-! ### Barriers and counters (09 R246, R247, R249) -/

/-- BAR_ARRIVAL_EFFECT. -/
def execBarArrivalEffect (r : Nat) (s : State) : Out :=
  regionEvent "BAR_ARRIVAL_EFFECT" r s fun g =>
    (g.dueFly Flight.isArrive).bind fun f =>
      match f.what with
      | .arrive b _ => some (s.setRegion (g.arrival f b))
      | _ => none

/-- BARRIER_PHASE_COMPLETE. -/
def execBarrierPhaseComplete (r : Nat) (s : State) : Out :=
  regionEvent "BARRIER_PHASE_COMPLETE" r s fun g =>
    (g.dueFly Flight.isPhase).bind fun f =>
      match f.what with
      | .phase b => some (s.setRegion (g.phaseDone f b))
      | _ => none

/-- TLINC_EFFECT. -/
def execTlincEffect (r : Nat) (s : State) : Out :=
  regionEvent "TLINC_EFFECT" r s fun g =>
    (g.dueFly Flight.isInc).bind fun f =>
      match f.what with
      | .inc t n amt => some (s.setRegion (g.increment f t n amt))
      | _ => none

/-! ### Mailboxes (03 R69) -/

/-- MAILBOX_APPLY: every write not yet applied, in one sc of a region that is not frozen. -/
def execMailboxApply (r : Nat) (s : State) : Out :=
  regionEvent "MAILBOX_APPLY" r s fun g =>
    if g.mailPend.isEmpty || g.frozen != .no then none
    else some (s.setRegion g.applyMail)

/-! ### The matrix engine (11 R283, R285 to R287) -/

/-- The head of a tile's queue, where it starts in this sc. -/
def Region.mxDue (g : Region) (t : Nat) : Option MxCmd :=
  match (g.tile t).mxHead with
  | some c => if c.start ≤ g.now && (g.tile t).mxWaitMet c then some c else none
  | none => none

/-- MATRIX_COMMAND_START. -/
def execMatrixCommandStart (r t : Nat) (s : State) : Out :=
  regionEvent "MATRIX_COMMAND_START" r s fun g =>
    (g.mxDue t).map fun c => { s with fresh := s.fresh + 2 }.setRegion (g.mxStart s.fresh t c)

/-- The command of a tile that completes in this sc. -/
def Region.mxDone (g : Region) (t : Nat) : Option MxCmd :=
  (g.tile t).mxq.find? fun c => c.started && decide (c.fin ≤ g.now)

/-- A command whose run sums fail their checksums raises 0x383 as it completes (20 R439). -/
def Region.checkSums (g : Region) (t : Nat) (b : Bool) : Region :=
  if (g.tile t).mxBad then
    (g.modTile t fun x => { x with mxBad := false }).raiseEvent t b 0x383 0 none none
  else g

/-- MATRIX_COMMAND_COMPLETE. -/
def execMatrixCommandComplete (r t : Nat) (s : State) : Out :=
  regionEvent "MATRIX_COMMAND_COMPLETE" r s fun g =>
    (g.mxDone t).map fun c => { s with fresh := s.fresh + 1 }.setRegion ((g.mxComplete s.fresh t c).checkSums t c.strB)

end Sys2Proof.Machine
end

