-- ==== Sys2Proof/Machine/Commit.lean ====
section
/-! DEFINITION. Commits: when one is due, its error checks, the release of gated items, the checkpoint, the final
commit (02 R46, R48 to R50; 05 R124, R131, R132; 09 R236, R240 to R242; 13 R357, R358; 20 R444, R445, R449). -/

namespace Sys2Proof.Machine

/-! ### When a commit is due (02 R49; 09 R240) -/

/-- The streams of a tile that can take part: stream B only in split mode. -/
def Region.streams (g : Region) : List (Nat × Bool) :=
  (List.range g.tiles.length).flatMap fun t => if g.pat.split then [(t, false), (t, true)] else [(t, false)]

/-- The participants: every running stream; a stream forked in this sc takes part from the next sc on (08 R214). -/
def Region.participants (g : Region) : List (Nat × Bool) :=
  g.streams.filter fun p => (g.str p.1 p.2).running && decide ((g.str p.1 p.2).startAt ≤ g.now + 1)

/-- A register-destined result that the commit waits for is still in flight: one of a participant, and at the final
commit, which every stream has led up to, one of any stream (02 R46, R49). -/
def Region.inFlight (g : Region) : Bool :=
  let ps := g.participants
  let mine (t : Nat) (b : Bool) : Bool := if ps.isEmpty then g.pat.split || !b else ps.contains (t, b)
  g.flights.any (fun f => (f.what.isReg || f.what.isSample) && mine f.tile f.strB) ||
    g.awaits.any fun a => !a.landed && decide (g.sc < a.due) && mine a.tile a.strB

/-- Every participant has presented its commit and every result has landed or is due: the commit takes place in
this sc. -/
def Region.commitDue (g : Region) : Bool :=
  !g.stub && g.committing == .none && !g.participants.isEmpty &&
    g.participants.all (fun p => (g.str p.1 p.2).presented.isSome) && !g.inFlight

/-- The region has finished: every stream is idle, and what they issued has landed (02 R46; 08 R215). -/
def Region.finished (g : Region) : Bool :=
  !g.stub && !g.finalDone && g.committing == .none && g.participants.isEmpty && !g.inFlight

/-- Results of the stitch that are due and have not come back from outside: the region freezes for them (02 R38). -/
def Region.commitAwaits (g : Region) : Bool := g.awaits.any fun a => a.missing g.now && a.st == .waiting

/-- The refusals that a commit meets once nothing is awaited any more (09 R228; 19 R437; Assumption 74): each raises its cause, and
R407 chooses among them. -/
def Region.commitRefusals (g : Region) : List Raise :=
  g.awaits.filterMap fun a =>
    match a.missing g.now, a.st with
    | true, .refused c va => some ⟨c, false, a.tile, a.strB, 7, 0xFFFF_FFFF, va, none, none⟩
    | _, _ => none

/-! ### What a gated item writes (13 R358) -/

/-- The scratchpad rows a gated command reads: address and length. -/
def Cmd.sources (c : Cmd) : List (Nat × Nat) :=
  match c.fn with
  | .ceOut | .ceOutr _ | .ceScat => (List.range (Desc.n c.desc)).map fun i => (c.s + i * Desc.ps c.desc, Desc.lb c.desc)
  | .colRed _ | .colAg | .colBc => [(c.s, Desc.lb c.desc)]
  | _ => []

/-- Row i's index of an indexed command, from its list in scratchpad (12 R316). -/
def Region.index (g : Region) (fresh t : Nat) (c : Cmd) (i : Nat) : Nat :=
  (leVal (g.spRead fresh t (Desc.f c.desc 3 19 0 + 4 * i) 4)).1

/-- The bytes a gated command's record carries, in destination order. -/
def Region.cmdBytes (g : Region) (fresh : Nat) (c : Cmd) : List Byte :=
  let row (r : Nat × Nat) : List Byte := (g.spRead fresh c.tile r.1 r.2).map (·.1)
  match c.fn with
  | .ceScat =>
    (c.sources.zipIdx).flatMap fun (r, i) => if g.index fresh c.tile c i < Desc.f c.desc 3 51 20 then row r else []
  | .schEnq | .schRaise | .schPost => leBytes 8 c.b.toNat
  | _ => c.sources.flatMap row

def EngFn.itemCode : EngFn → Nat
  | .ceOut | .ceOutr _ | .ceScat => 4
  | .schEnq | .schRaise | .schPost => 6
  | _ => 5

def Region.cmd? (g : Region) (id : Nat) : Option Cmd := g.cmds.find? fun c => c.id = id

/-- The signature record of an item. -/
def Region.itemRecord (g : Region) (fresh : Nat) (i : Item) : List Byte :=
  let (code, data) : Nat × List Byte := match i.kind with
    | .gst => (0, i.bytes)
    | .atom .. => (1, i.bytes)
    | .red .. => (2, i.bytes)
    | .atomr .. => (3, i.bytes)
    | .cmd id =>
      match g.cmd? id with
      | some c => (EngFn.itemCode c.fn, g.cmdBytes fresh c)
      | none => (4, [])
  leBytes 1 code ++ leBytes 1 i.wcode.toNat ++ leBytes 1 (i.cls.toNat + 16 * i.scope.toNat) ++ leBytes 1 i.flav.toNat ++
    leBytes 4 i.tile ++ leBytes 8 i.va ++ data

/-! ### Error checks (20 R444, R445) -/

/-- A poisoned item: where, and the clean-filled segment its poison lies in, if it lies in one. -/
structure Found where
  tile : Nat
  strB : Bool
  clean : Option Nat
  deriving DecidableEq, Repr

/-- The stream a place in the order names. -/
def keyStrB (k : Nat) : Bool := decide (k / 8 % 2 = 1)

/-- Poison that the engine would read, whatever its bytes. -/
def Tile.spBad (x : Tile) (a n : Nat) : Bool := x.sp.bad.any fun k => decide (8 * k < a + n ∧ a < 8 * k + 8)

/-- The clean-filled segment that poison in a range lies in, if any. -/
def Tile.cleanSeg (x : Tile) (a n : Nat) : Option Nat := if x.cleanHit a n then some (x.hitSeg a n) else none

/-- Poison of the stitch's gated items, host stores excepted while forwarding is enabled (20 R449). -/
def Region.poisonItems (g : Region) (fwd : Bool) : List Found :=
  (g.items.filter fun i => !i.released).flatMap fun i =>
    let toHost : Bool := i.kind == .gst &&
      (match i.page with | some p => p.target == .cxl || p.target == .pcie | none => false)
    let own : List Found := if i.bad && !(toHost && fwd) then [⟨i.tile, keyStrB i.key, none⟩] else []
    let src : List Found := match i.kind with
      | .cmd id =>
        match g.cmd? id with
        | some c =>
          c.sources.flatMap fun r =>
            if (g.tile i.tile).spBad r.1 r.2 then [⟨i.tile, keyStrB i.key, (g.tile i.tile).cleanSeg r.1 r.2⟩] else []
        | none => []
      | _ => []
    own ++ src

/-- A register of a bank that is marked live holds poison. -/
def Bank.liveBad (k : Bank) (r : SafePt) : Bool :=
  (List.range 64).any (fun n => r.g.getLsbD n && decide (n ≠ 0) && (k.g[n]?.getD {}).bad) ||
  (List.range 8).any (fun n => r.k.getLsbD n && (k.k[n]?.getD {}).bad) ||
  (List.range 16).any (fun n => r.p.getLsbD n && decide (n ≠ 0) && (k.p[n]?.getD {}).bad) ||
  (List.range 8).any (fun n => r.m.getLsbD n && decide (n ≠ 0) && (k.m[n]?.getD {}).bad) ||
  (List.range 4).any (fun n => r.mr.getLsbD n && decide (n ≠ 0) && (k.mr[n]?.getD {}).bad) ||
  (List.range 4).any (fun n => r.mc.getLsbD n && decide (n ≠ 0) && (k.mc[n]?.getD {}).bad) ||
  (r.lc &&& k.lcBad != 0) ||
  (List.range 32).any (fun n => r.tb.getLsbD n && (k.tb[n]?.getD {}).bad) ||
  (List.range 32).any (fun n => r.v.getLsbD n && (k.v[n]?.getD {}).bad != 0)

/-- The block a tensor-memory word lies in. -/
def blkOfWord (k : Nat) : Nat := 4 * (k / 256 / 64) + k % 256 / 64

/-- Storage of a tile that is marked live holds poison: none, or the clean-filled segment it lies in. -/
def Tile.liveBad (x : Tile) (acc : BitVec 8) (r : SafePt) : List (Option Nat) :=
  let accs := (List.range 8).any fun s =>
    r.acc.getLsbD s && x.tm.bad.any fun k => decide (blkOfWord k = slotBlk (BitVec.ofNat 3 s) (x.copies (BitVec.ofNat 3 s)).1)
  let rows := r.tmRows.any fun w =>
    x.tm.bad.any fun k => decide (w.1 ≤ k / 256 ∧ k / 256 < w.1 + w.2) && !acc.getLsbD (blkOfWord k / 2)
  let slices := (List.range 64).any fun j => r.bs.getLsbD j && x.bs.bad.any fun k => decide (8 * k / 32768 = j)
  let sps := r.sp.filterMap fun w => if x.spBad w.1 w.2 then some (x.cleanSeg w.1 w.2) else none
  (if accs || rows || slices then [none] else []) ++ sps

def Region.poisonLive (g : Region) (r : SafePt) : List Found :=
  (g.streams.filterMap fun p =>
    if (g.str p.1 p.2).bank.liveBad r then some ⟨p.1, p.2, none⟩ else none) ++
  (List.range g.tiles.length).flatMap fun t => ((g.tile t).liveBad g.pat.acc r).map fun c => ⟨t, false, c⟩

/-- The first found: least tile, then stream A. -/
def firstFound : List Found → Option Found
  | [] => none
  | a :: r =>
    match firstFound r with
    | none => some a
    | some b => if b.tile < a.tile ∨ (b.tile = a.tile ∧ a.strB ∧ !b.strB) then some b else some a

def eventRaise (c : Cause) (t : Nat) (b : Bool) : Raise := ⟨c, false, t, b, 7, 0xFFFF_FFFF, 0, none, none⟩

/-- 0x380 of the first tile whose signatures disagree. -/
def Region.twinRaise (g : Region) : Option Raise :=
  ((List.range g.tiles.length).find? fun t => !g.pat.split && (g.tile t).twinBad).map fun t => eventRaise 0x380 t false

/-- The stream that owns the MX slot (02 R45). -/
def Region.mxOwner (g : Region) : Bool := g.pat.split && g.pat.own.getLsbD 2

/-- 0x0D7 of the first tile with a command that has not completed (11 R288). -/
def Region.mxRaise (g : Region) : Option Raise :=
  ((List.range g.tiles.length).find? fun t => !(g.tile t).mxq.isEmpty).map fun t => eventRaise 0x0D7 t g.mxOwner

def poisonRaise (fs : List Found) : Option Raise :=
  match firstFound (fs.filter (·.clean.isSome)) with
  | some f => some { eventRaise 0x302 f.tile f.strB with va := f.clean.getD 0 }
  | none => (firstFound fs).map fun f => eventRaise 0x300 f.tile f.strB

/-- The record the participants name: 0x0B2 where they differ. -/
def Region.recordRaise (g : Region) : Option Raise :=
  let ids := g.participants.filterMap fun p => (g.str p.1 p.2).presented.map fun x => (p, x.record)
  match ids with
  | [] => none
  | (_, id) :: rest => (rest.find? fun q => q.2 ≠ id).map fun q => eventRaise 0x0B2 q.1.1 q.1.2

/-- The record of the commit. -/
def Region.commitRec (g : Region) : Option SafePt :=
  (g.participants.findSome? fun p => (g.str p.1 p.2).presented).bind fun x => g.pat.rec? x.record

/-- The checks of a commit, in their order. -/
def Region.commitRaise (g : Region) (fwd final : Bool) : Option Raise :=
  (if final then none else g.recordRaise) <|> g.twinRaise <|> g.mxRaise <|>
    poisonRaise (g.poisonItems fwd ++ (match final, g.commitRec with | false, some r => g.poisonLive r | _, _ => []))

/-! ### Release (05 R124, R140; 09 R236, R240; 13 R357) -/

/-- Signature-only instances send nothing (13 R357; 20 R455). -/
def Region.silent (g : Region) : Bool := g.role = .shadow || g.role = .third

/-- Items that carry a tag of their source: reductions, copy-outs with reduce, ATOMR. -/
def Region.tagged (g : Region) (i : Item) : Bool :=
  match i.kind with
  | .red .. | .atomr .. => true
  | .cmd id => match g.cmd? id with | some c => (match c.fn with | .ceOutr _ => true | _ => false) | none => false
  | _ => false

def Item.isAtomr (i : Item) : Bool :=
  match i.kind with
  | .atomr .. => true
  | _ => false

/-- The next tag of a tile's source. -/
def nextTag (l : List (Nat × Nat)) (t : Nat) : Nat := (l.lookup t).getD 0

/-- Give an item its tag. -/
def Region.tagItem (g : Region) (i : Item) : Region × Item :=
  if g.tagged i then
    let n := nextTag g.seqTag i.tile
    ({ g with seqTag := (i.tile, (n + 1) % 65536) :: g.seqTag.filter fun x => x.1 ≠ i.tile },
     { i with tag := some (BitVec.ofNat 16 n) })
  else (g, i)

def Region.tagItems : Region → List Item → Region × List Item
  | g, [] => (g, [])
  | g, i :: r =>
    let (g, i) := g.tagItem i
    let (g, r) := Region.tagItems g r
    (g, i :: r)

/-- An ATOMR is released after every other item of its tile (09 R236). -/
def Tile.atomrLast (x : Tile) (ids : List Nat) : Tile :=
  { x with order := (x.order.filter fun e => !ids.contains e.id) ++ x.order.filter fun e => ids.contains e.id }

/-- A command whose item is discarded is counted at once. -/
def Region.countCmd (g : Region) (c : Cmd) : Region :=
  { g with
    cmds := g.cmds.filter fun x => x.id ≠ c.id
    tiles := g.tiles.modify c.tile fun x => (x.count c.ctr c.num).performed c.id }

/-- What a signature-only instance does with its released items: nothing is sent; copies and scheduler functions are
counted, collectives and ATOMRs wait for what the primary's return. -/
def Region.discard (g : Region) (is : List Item) : Region :=
  is.foldl (fun g i =>
    let drop (g : Region) : Region :=
      { g with items := g.items.filter fun x => x.id ≠ i.id, tiles := g.tiles.modify i.tile fun x => x.performed i.id }
    match i.kind with
    | .cmd id =>
      match g.cmd? id with
      | some c => if EngFn.itemCode c.fn = 5 then drop g else (drop g).countCmd c
      | none => drop g
    | _ => drop g) g

/-- An item that overwrites its destination, and so can be written again (20 R456). -/
def Region.rewritable (g : Region) (i : Item) : Bool :=
  match i.kind with
  | .gst => true
  | .cmd id => match g.cmd? id with | some c => c.fn == .ceOut || c.fn == .ceScat | none => true
  | _ => false

/-- Release the stitch's items: their records join the signature, tags are assigned, gated commands are sent. -/
def Region.release (g : Region) (fresh : Nat) : Region :=
  let mine := g.items.filter fun i => !i.released
  let recs := mine.map fun i => (g.quad i.tile, g.itemRecord fresh i)
  let atomrs := (mine.filter Item.isAtomr).map (·.id)
  let inOrder := (mine.filter fun i => !Item.isAtomr i) ++ mine.filter Item.isAtomr
  let g : Region := { g with records := g.records ++ recs, firm := g.firm || mine.any fun i => !g.rewritable i, tiles := g.tiles.map fun x => x.atomrLast atomrs }
  let (g, tagged) := g.tagItems inOrder
  let tagOf (id : Nat) : Option (BitVec 16) := (tagged.find? fun i => i.id = id).bind (·.tag)
  let items : List Item := (g.items.filter (·.released)) ++ tagged.map fun i => { i with released := true }
  let g : Region :=
    { g with
      items := items
      cmds := g.cmds.map fun c => if c.st = .gated then { c with st := .sent, tag := tagOf c.id } else c }
  if g.silent then g.discard tagged else g

/-- The notice of each poisoned store that goes to the host (20 R449); a signature-only instance sends none. -/
def State.forwardNotices (s : State) (g : Region) : State :=
  if g.silent then s else
  (g.items.filter fun i => !i.released && i.bad && i.kind == .gst).foldl (fun s i =>
    s.notice g.launch.part { code := 0x307, kind := 4, quad := g.physQuad i.tile, va := i.va
                             ordinal := g.launch.ordinal.toNat, where_ := i.tile }) s

/-! ### Applying a commit (02 R50; 09 R240) -/

/-- A stream after a commit: handles and latches clear, its commit is over. -/
def Stream.committed (x : Stream) : Stream :=
  { x with
    bank := { x.bank with la := {}, h := Vector.replicate 16 none }
    presented := none, waitFrom := none, arrived := false }

def Tile.committed (x : Tile) : Tile :=
  { x with
    accCom := x.accCom ^^^ x.accWr, accWr := 0, byp := none, bypFmt := none, mp := mpReset, ds := dsReset
    used := Vector.replicate 32 0
    a := x.a.committed, b := x.b.committed }

/-- The release arrivals of a commit in sc c: each takes effect in sc max(c + 1, L), L taken at the issue (05 R118). -/
def Region.relArrivals (g : Region) : List Fly :=
  g.participants.filterMap fun p =>
    match (g.str p.1 p.2).presented with
    | some ⟨.arrRel b, _, iss⟩ =>
      let l := g.flights.foldl (fun m f =>
        match f.what with
        | .store .. => if f.tile = p.1 ∧ f.strB = p.2 ∧ f.iss < iss then max m f.due else m
        | _ => m) 0
      some ⟨max (g.sc + 1) l, g.sc, orderKey g.sc p.1 p.2 6, p.1, p.2, .arrive b true⟩
    | _ => none

/-- Flip, checkpoint, clear: the commit in the present sc, with its record. A result that a stream which has become idle
is still to receive lands at its scheduled sc (08 R215). -/
def Region.commitNow (g : Region) (r : SafePt) : Region :=
  let twin := !g.pat.split
  let arr := g.relArrivals
  let tiles := g.tiles.map Tile.committed
  let flights := (g.flights.filter fun f => !(twin && f.strB && f.what.isReg)) ++ arr
  let awaits := g.awaits.filterMap fun a =>
    if a.uncommitted then some { a with due := g.sc + 385, iss := g.sc + 1, landed := false }
    else if !a.landed && decide (g.sc < a.due) then some a else none
  { g with
    tiles := tiles
    flights := flights
    awaits := awaits
    ckpt :=
      { sc := g.sc + 1
        tiles := tiles.map fun x => ⟨x.a, x.b, x.j, x.bars⟩
        flights := flights
        awaits := awaits
        resumed := false }
    stitch := g.stitch + 1, reentry := 0, lastCause := 0, detected := false
    recId := r.id, gaugeLim := r.gauge, gaugeN := 0 }

/-- A participant's commit of this kind. -/
def Region.presents (g : Region) (p : CommitKind → Bool) : Bool :=
  g.streams.any fun q => ((g.str q.1 q.2).presented.map fun x => p x.kind).getD false

def CommitKind.isRel : CommitKind → Bool
  | .arrRel _ => true
  | _ => false

/-- A pending pre-emption takes place at a commit (02 R59). -/
def State.afterCommit (s : State) (r : Nat) : State :=
  match s.region? r with
  | some g => if g.preempt && g.committing == .none then s.startSave r none else s
  | none => s

/-- Whether poison is forwarded to the host: pc.ctl [7]. -/
def State.forwards (s : State) (part : Nat) : Bool :=
  match s.part? part with
  | some p => p.ctl.getLsbD 7
  | none => false

/-- Record a cause that prevents a commit; a twin mismatch takes the place of the datapath causes of the sc. -/
def Region.refuse (g : Region) (ra : Raise) : Region :=
  { g with raised := (if ra.cause = 0x380 then g.raised.filter fun x => x.cause ≠ 0x382 && x.cause ≠ 0x383 else g.raised) ++ [ra] }

/-- What a release arrival or a MARK.D waited for is performed: the commit is applied, or the freeze ends. -/
def Region.durableDone (g : Region) : Bool :=
  match g.committing with
  | .durable ids => !g.items.any fun i => ids.contains i.id
  | .none => false

def State.finishDurable (s : State) (r : Nat) : State :=
  match s.region? r with
  | none => s
  | some g =>
    if !g.durableDone then s else
    if !g.applied then
      match g.commitRec with
      | none => s
      | some rc =>
        let dur := g.presents fun k => k = .markD
        let all := (g.items.filter (·.released)).map (·.id)
        let g := g.commitNow rc
        (s.setRegion { g with committing := if dur && !all.isEmpty then .durable all else .none }).afterCommit r
    else (s.setRegion { g with committing := .none }).afterCommit r

/-- The commit of a stitch whose checks have passed: items are released; without a release arrival the rest is done
now, and a MARK.D freezes; with one the rest waits until what it released is performed. Where nothing is outstanding
both end at once (05 R131, R132). -/
def State.doCommit (s : State) (g : Region) (r : SafePt) : State :=
  let s := s.forwardNotices g
  let g := g.release s.fresh
  let s := { s with fresh := s.fresh + 1 }
  let ids := (g.items.filter (·.released)).map (·.id)
  let rel := g.presents CommitKind.isRel
  let dur := g.presents fun k => k = .markD
  if rel then
    let mine := (g.items.filter fun i => i.released && i.stitch == g.stitch).map (·.id)
    (s.setRegion { g with committing := .durable mine }).finishDurable g.rid
  else if dur then
    let g := g.commitNow r
    (s.setRegion { g with committing := .durable ids }).finishDurable g.rid
  else (s.setRegion (g.commitNow r)).afterCommit g.rid

/-- COMMIT: in the sc in which it is due, the commit takes place, or the cause of the first failing check is raised and
nothing commits. -/
def execCommit (r : Nat) (s : State) : Out :=
  regionEvent "COMMIT" r s fun g =>
    if !g.commitDue || g.commitAwaits then none
    else if !g.commitRefusals.isEmpty then some (s.setRegion { g with raised := g.raised ++ g.commitRefusals })
    else
      match g.commitRaise (s.forwards g.launch.part) false with
      | some ra => some (s.setRegion (g.refuse ra))
      | none =>
        if !g.raised.isEmpty then none else
        g.commitRec.map fun rc => s.doCommit g rc

/-! ### The final commit (02 R46; 13 R359) -/

/-- The stores still in flight perform, in their order. -/
def Region.flushStores (g : Region) (fresh : Nat) : Region :=
  let stores := (g.flights.filter fun f => f.what.isStore).foldr insertFly []
  stores.foldl (fun g f => match f.what with | .store t ps => g.perform fresh f t ps | _ => g) g

/-- FINAL_COMMIT: every stream is idle. -/
def execFinalCommit (r : Nat) (s : State) : Out :=
  regionEvent "FINAL_COMMIT" r s fun g =>
    if !g.finished || g.commitAwaits then none
    else if !g.commitRefusals.isEmpty then some (s.setRegion { g with raised := g.raised ++ g.commitRefusals })
    else
      match g.commitRaise (s.forwards g.launch.part) true with
      | some ra => some (s.setRegion (g.refuse ra))
      | none =>
        if !g.raised.isEmpty then none else
        let s := s.forwardNotices g
        let g := (g.release s.fresh).flushStores (s.fresh + 1)
        let g : Region := { g with
          tiles := g.tiles.map fun x => { x with accCom := x.accCom ^^^ x.accWr, accWr := 0 }
          stitch := g.stitch + 1, reentry := 0, finalDone := true, status := .final
          flights := [], awaits := [], frozen := .no, preempt := false }
        some { s.setRegion g with fresh := s.fresh + 2, jobs := s.jobs ++ bankJobs g }

end Sys2Proof.Machine
end

