-- ==== Sys2Proof/Machine/Async.lean ====
section
/-! DEFINITION. What agents outside a region do in wall time: global loads and walks, gated items at their homes,
engine commands, replies that are lost or made up (02 R37, R38; 05 R121 to R141; 09 R228, R231, R236; 12 R310 to R326;
18 R422; 19 R437; 20 R447, R450 to R452). -/

namespace Sys2Proof.Machine

/-- After an effect from wall time, a commit or a save that waited for it may go on. -/
def State.settle (s : State) (r : Nat) : State := (s.finishDurable r).trySave r

/-- A wall-time event of one region, refused where it is not due. -/
def asyncEvent (name : String) (r : Nat) (s : State) (f : Region → Option State) : Out :=
  match s.region? r with
  | none => .refused (.notDue name)
  | some g =>
    match f g with
    | some s' => .next (s'.settle r)
    | none => .refused (.notDue name)

/-! ### The order of a tile's accesses (05 R127) -/

/-- The tile's order without the commands that are parked: a command that is retried is performed as of its retry. -/
def Region.liveOrder (g : Region) (t : Nat) : List Acc :=
  (g.tile t).order.filter fun e => !g.cmds.any fun c => c.id = e.id && c.parked?

/-- Cut a run of bytes where the pages of the translation do. -/
def State.vspans : Nat → State → Nat → Nat → Nat → List Span
  | 0, _, _, _, _ => []
  | f + 1, s, part, va, n =>
    if n = 0 then [] else
    match s.walk part va with
    | .mapped p =>
      let k := min n (p.base + p.size - va)
      spanOf p va k :: State.vspans f s part (va + k) (n - k)
    | _ => []

/-! ### What an engine reads of its tile, and what a command moves (05 R138; 12 R315 to R317) -/

/-- The byte an engine reads: open where a write of the region since its issue, or another engine's command that is not
ordered before it, touches the byte. -/
def Region.engByte (g : Region) (fresh : Nat) (c : Cmd) (a : Nat) : PByte :=
  let x := g.tile c.tile
  let (b, bad) := x.sp.pbyte spGran a
  let other := g.unacq.any fun u =>
    !(u.ctr = c.tile * 32 + c.ctr && u.num = c.num) && (match u.range with | some r => r.has false c.tile a | none => false)
  match x.freeAt .sp a with
  | some v => (v, bad)
  | none => if other || c.touched.any fun r => r.has false c.tile a then (Config.freeByte fresh a, bad) else (b, bad)

def Region.engRead (g : Region) (fresh : Nat) (c : Cmd) (a n : Nat) : List PByte :=
  (List.range n).map fun i => g.engByte fresh c (a + i)

/-- One run of bytes in a command's destination order: bytes of the destination, the destination's address, the
source's address; no source gives zeros. -/
structure Move where
  len : Nat
  dst : Nat
  src : Option Nat
  deriving DecidableEq, Repr

/-- Address of row i at a signed pitch. -/
def rowAt (base : Nat) (pitch : Int) (i : Nat) : Nat := ((base : Int) + i * pitch).toNat

/-- CE.WIN's runs: the channels of one kernel position of one output pixel lie side by side in the image row and in the
result row; every other byte of the result row is zero. -/
def winMoves (c : Cmd) : List Move :=
  let w := Desc.win c.desc
  let width := ((Desc.fmt c.desc).getD .i8).width
  let run := w.c * width / 8
  let rowLen := w.kp * width / 8
  let rows : List (List Move) := (List.range w.np).map fun p =>
    let base := c.s + p * Desc.ps c.desc
    let q := w.ox0 + p
    let oy : Int := w.oy0 + (q / w.ow.toNat : Nat)
    let ox : Int := (q % w.ow.toNat : Nat)
    let cells : List Move := (List.range (w.kh * w.kw)).map fun k =>
      let iy : Int := oy * w.sh + (k / w.kw * w.dh : Nat) - w.pt
      let ix : Int := ox * w.sw + (k % w.kw * w.dw : Nat) - w.pl
      let inside := decide (oy < w.oh) && decide (0 ≤ iy ∧ iy < w.ih) && decide (0 ≤ ix ∧ ix < w.iw)
      let src := if inside then some (rowAt c.g (Desc.pg c.desc) iy.toNat + ix.toNat * run) else none
      (⟨run, base + k * run, src⟩ : Move)
    cells ++ [⟨rowLen - w.kh * w.kw * run, base + w.kh * w.kw * run, none⟩]
  rows.flatten

/-- The runs a command reads from global memory into scratchpad or the B-stack. -/
def Region.fetches (g : Region) (fresh : Nat) (c : Cmd) : List Move :=
  let d := c.desc
  let rows : List Nat := List.range (Desc.n d)
  match c.fn with
  | .ceIn => rows.map fun i => ⟨Desc.lb d, c.s + i * Desc.ps d, some (rowAt c.g (Desc.pg d) i)⟩
  | .ceB => rows.map fun i =>
      ⟨Desc.lb d, 32768 * (Desc.f d 3 5 0 + i) + Desc.f d 3 30 16, some (rowAt c.g (Desc.pg d) i)⟩
  | .ceGath => rows.map fun i =>
      let idx := (leVal (g.engRead fresh c (Desc.f d 3 19 0 + 4 * i) 4)).1
      ⟨Desc.lb d, c.s + i * Desc.ps d, if idx < Desc.f d 3 51 20 then some (rowAt c.g (Desc.pg d) idx) else none⟩
  | .ceWin => winMoves c
  | _ => []

/-- The runs a command writes to global memory: `dst` there, `src` in scratchpad. -/
def Region.puts (g : Region) (fresh : Nat) (c : Cmd) : List Move :=
  let d := c.desc
  let rows : List Nat := List.range (Desc.n d)
  match c.fn with
  | .ceOut | .ceOutr _ => rows.map fun i => ⟨Desc.lb d, rowAt c.g (Desc.pg d) i, some (c.s + i * Desc.ps d)⟩
  | .ceScat => rows.filterMap fun i =>
      let idx := (leVal (g.engRead fresh c (Desc.f d 3 19 0 + 4 * i) 4)).1
      if idx < Desc.f d 3 51 20 then some ⟨Desc.lb d, rowAt c.g (Desc.pg d) idx, some (c.s + i * Desc.ps d)⟩ else none
  | _ => []

/-- The global ranges a command reads or writes. -/
def Region.ranges (g : Region) (fresh : Nat) (c : Cmd) : List (Nat × Nat) :=
  match c.fn with
  | .teLoad _ => [(c.vaddr, 3104)]
  | _ => ((g.fetches fresh c).filterMap fun m => m.src.map fun a => (a, m.len)) ++
      (g.puts fresh c).map fun m => (m.dst, m.len)

/-! ### What may be performed now (05 R127 to R135) -/

/-- A span at a peer that is this device itself is one of local HBM4. -/
def State.localSpan (s : State) (x : Span) : Span :=
  if s.ownPeer ⟨x.1, x.2.1, x.2.2.1⟩ then (.hbm, 0, x.2.2) else x

/-- The bytes an entry of a tile's order touches at their homes. -/
def State.accSpans (s : State) (g : Region) (e : Acc) : List Span :=
  (if e.engine then
    match g.cmd? e.id with
    | some c => (g.ranges s.fresh c).flatMap fun r => State.vspans (pagesOf r.2) s g.launch.part r.1 r.2
    | none => []
  else e.spans).map s.localSpan

def State.mayGo (s : State) (g : Region) (t id : Nat) : Bool := mayPerform (s.accSpans g) (g.liveOrder t) id

/-- The access is performed and leaves its tile's order. -/
def Region.performed (g : Region) (t id : Nat) : Region := g.modTile t fun x => x.performed id

/-- Engine work and items go on only while the region's context stands on its quads or the launch ends. -/
def Region.active (g : Region) : Bool :=
  match g.status with
  | .running | .saving _ | .parked _ | .final | .killed _ => true
  | _ => false

/-- The home of an access. -/
def homeOf (p : Page) (va : Nat) : Home := p.home va

/-- What the agent at a home says: nothing, its refusal, or its answer. -/
inductive Answer
  | silent
  | refused (c : Cause)
  | ok
  deriving DecidableEq, Repr

def State.answer (s : State) (part : Nat) (p : Page) (va n : Nat) : Answer :=
  if s.silent (p.home va) then .silent
  else match s.peerRefuses part (p.home va) n with
    | some c => .refused c
    | none => .ok

/-! ### Results of loads and walks (02 R37, R38; 03 R88; 09 R228, R231) -/

/-- Set what is known of an awaited result. -/
def Region.told (g : Region) (id : Nat) (st : AwaitSt) : Region :=
  { g with awaits := g.awaits.map fun a => if a.id = id then { a with st := st } else a }

/-- A GLD not yet answered. -/
def Region.gldOf (g : Region) (id : Nat) : Option (Await × Page × Nat × Bool) :=
  (g.awaits.find? fun a => a.id = id && a.st == .waiting).bind fun a =>
    match a.kind, a.page with
    | .gld n sx, some p => some (a, p, n, sx)
    | _, _ => none

/-- The bytes of a load: those read before the others stand (05 R122). -/
def Await.withGot (a : Await) (ps : List PByte) : List PByte :=
  if a.got.isEmpty then ps else ps.mapIdx fun i p => (a.got.lookup i).getD p

/-- Deliver a GLD's value. -/
def Region.gldValue (g : Region) (a : Await) (x : Val) : Region := (g.told a.id (.value x)).performed a.tile a.id

/-- GLD_DATA_ARRIVAL: the bytes are read at the home, and the value is held until its landing sc. -/
def execGldDataArrival (r id : Nat) (s : State) : Out :=
  asyncEvent "GLD_DATA_ARRIVAL" r s fun g =>
    (g.gldOf id).bind fun (a, p, n, sx) =>
      if a.lost || !s.mayGo g a.tile id || s.answer g.launch.part p a.addr n != .ok then none
      else some (s.setRegion (g.gldValue a (loadVal sx (a.withGot (s.homeRead g.launch.part (p.home a.addr) n)))))

/-- The translation store of a region holds up to 2,048 translations (03 R88). -/
def Region.keep (g : Region) (p : Page) : Region := { g with trans := (p :: g.trans).take 2048 }

/-- XLATE_WALK_COMPLETE: the handle is ready, or the cause is (0x101, 0x103). -/
def execXlateWalkComplete (r id : Nat) (s : State) : Out :=
  asyncEvent "XLATE_WALK_COMPLETE" r s fun g =>
    (g.awaits.find? fun a => a.id = id && a.st == .waiting).bind fun a =>
      match a.kind with
      | .xlate va =>
        match s.walk g.launch.part va with
        | .mapped p => some (s.setRegion ((g.keep p).told id (.handle ⟨va, p⟩)))
        | .unmapped => some (s.setRegion (g.told id (.refused 0x101 va)))
        | .poisoned _ => some (s.setRegion (g.told id (.refused 0x103 va)))
      | _ => none

/-- The stitch whose ATOMR an awaited result belongs to: a commit has moved on by one once its sc is known. -/
def Region.atomrStitch (g : Region) (a : Await) : Nat := if a.due = 0 then g.stitch else g.stitch - 1

/-- A stream of a region, as a number. -/
def streamNo (t : Nat) (b : Bool) : Nat := 2 * t + b.toNat

def Region.retOf (g : Region) (t stitch : Nat) : Option (Option Val) :=
  (g.rets.find? fun x => x.1 = t && x.2.1 = stitch).map (·.2.2)

/-- The instance that performs a launch's effects (13 R357). -/
def State.committing (s : State) (g : Region) : Option Region :=
  if g.silent then s.regions.find? fun x => sameLaunch x g && x.role = .primary else some g

/-- ATOMR_RESULT_ARRIVAL: the old value comes back; another instance of a dual run takes the primary's. -/
def execAtomrResultArrival (r id : Nat) (s : State) : Out :=
  asyncEvent "ATOMR_RESULT_ARRIVAL" r s fun g =>
    (g.awaits.find? fun a => a.id = id && a.st == .waiting && a.kind == .atomr).bind fun a =>
      (s.committing g).bind fun p =>
        match p.retOf (streamNo a.tile a.strB) (g.atomrStitch a) with
        | some (some x) => some (s.setRegion (g.told id (.value x)))
        | _ => none

/-! ### Items at their homes (05 R131, R139, R140; 09 R233 to R236) -/

/-- A released item that is still to be performed. -/
def Region.itemOf (g : Region) (id : Nat) : Option (Item × Page) :=
  (g.items.find? fun i => i.id = id && i.released).bind fun i => i.page.map fun p => (i, p)

/-- The item is gone: performed, refused, or its outcome unknown. -/
def Region.dropItem (g : Region) (i : Item) : Region :=
  { g with items := g.items.filter fun x => x.id ≠ i.id }.performed i.tile i.id

/-- The size of the location of an item. -/
def Item.size (i : Item) : Nat := i.bytes.length

def Item.isStore (i : Item) : Bool := i.kind == .gst

/-- The aligned 8-byte words of an access, as offset and length: each is atomic, the access is not (05 R122). -/
def wordsOf (va n : Nat) : List (Nat × Nat) :=
  let cut := 8 - va % 8
  if n ≤ cut then [(0, n)] else (0, cut) :: (List.range ((n - cut + 7) / 8)).map fun k => (cut + 8 * k, min 8 (n - cut - 8 * k))

/-- Write what of a store is still to be written. -/
def State.storeRest (s : State) (part : Nat) (p : Page) (i : Item) : State :=
  if i.moved.isEmpty then s.homeWrite part (p.home i.va) (taint i.bad i.bytes) else
  (wordsOf i.va i.size).foldl (fun s w =>
    if i.moved.contains w.1 then s
    else s.homeWrite part (p.home (i.va + w.1)) (taint i.bad ((i.bytes.drop w.1).take w.2))) s

/-- GLOBAL_STORE_PERFORMED. -/
def execGlobalStorePerformed (r id : Nat) (s : State) : Out :=
  asyncEvent "GLOBAL_STORE_PERFORMED" r s fun g =>
    (g.itemOf id).bind fun (i, p) =>
      if !i.isStore || i.lost || !s.mayGo g i.tile id || s.answer g.launch.part p i.va i.size != .ok then none
      else some ((s.storeRest g.launch.part p i).setRegion (g.dropItem i))

/-- The source of a request for the home's filter (05 R140). -/
def State.source (s : State) (g : Region) (t : Nat) : BitVec 16 × BitVec 20 × BitVec 32 × Nat :=
  (g.launch.epoch ++ BitVec.ofNat 6 g.launch.part, s.dev.id, g.launch.ordinal, t)

/-- What the home remembers of a request. -/
def findApplied (l : List Applied) (src : BitVec 16 × BitVec 20 × BitVec 32 × Nat) (tag : BitVec 16) (elem : Nat) : Option Val :=
  (l.find? fun a => a.source = src && a.tag = tag && decide (a.elem = elem)).map (·.old)

/-- Of a source, what belongs to the last 32,768 requests it had applied, newest first; `seen` are their tags. -/
def keepApplied (src : BitVec 16 × BitVec 20 × BitVec 32 × Nat) : List (BitVec 16) → List Applied → List Applied
  | _, [] => []
  | seen, x :: r =>
    if x.source ≠ src || seen.contains x.tag then x :: keepApplied src seen r
    else if seen.length < 32768 then x :: keepApplied src (x.tag :: seen) r
    else keepApplied src seen r

/-- Remember a request. -/
def addApplied (l : List Applied) (a : Applied) : List Applied := keepApplied a.source [] (a :: l)

/-- One indivisible read-modify-write at a home, filtered by its tag: the state after it, and the value found. -/
def State.atomic (s : State) (part : Nat) (h : Home) (op : AOp) (n : Nat) (v cmp : Word) (bad : Bool)
    (src : Option ((BitVec 16 × BitVec 20 × BitVec 32 × Nat) × BitVec 16 × Nat)) : State × Val :=
  match src.bind fun (so, tag, e) => findApplied s.applied so tag e with
  | some old => (s, old)
  | none =>
    let (o, ob) := leVal (s.homeRead part h n)
    let old : Val := ⟨BitVec.ofNat 64 o, ob⟩
    let new := aopNew op (8 * n) old.bits v cmp
    let s := s.homeWrite part h (taint (ob || bad) (leBytes n new.toNat))
    match src with
    | some (so, tag, e) => ({ s with applied := addApplied s.applied ⟨so, tag, e, old⟩ }, old)
    | none => (s, old)

/-- What an atomic item asks for: operation, width, operands. -/
def ItemKind.update : ItemKind → Option (AOp × Bool × Word × Word)
  | .atom op dw v => some (op, dw, v, 0)
  | .red op dw v => some (op, dw, v, 0)
  | .atomr op dw v cmp _ => some (op, dw, v, cmp)
  | _ => none

/-- What an ATOMR returned is kept for the launch's other instances and for its own arrival. -/
def Region.returned (g : Region) (i : Item) (x : Option Val) : Region :=
  if i.isAtomr then { g with rets := (streamNo i.tile (keyStrB i.key), i.stitch, x) :: g.rets } else g

/-- HOME_ATOMIC_APPLY. -/
def execHomeAtomicApply (r id : Nat) (s : State) : Out :=
  asyncEvent "HOME_ATOMIC_APPLY" r s fun g =>
    (g.itemOf id).bind fun (i, p) =>
      i.kind.update.bind fun (op, dw, v, cmp) =>
        if i.lost || !s.mayGo g i.tile id || s.answer g.launch.part p i.va i.size != .ok then none
        else
          let src := i.tag.map fun t => (s.source g i.tile, t, 0)
          let (s, old) := s.atomic g.launch.part (p.home i.va) op (atomBytes dw) v cmp i.bad src
          some (s.setRegion ((g.dropItem i).returned i (some old)))

/-! ### Causes of items (19 R437) -/

/-- A cause against a launch past its final commit: kill, or a handler and then the posting as failed. -/
def State.finalCause (s : State) (r : Nat) (ra : Raise) : State :=
  match s.region? r with
  | none => s
  | some g =>
    match s.part? g.launch.part with
    | none => s
    | some p =>
      let e := p.entry ra.cause
      s.apply { g with failed := some ra.cause } ra (if entryAction e = .forward then .forward else .kill) e

/-- Raise the cause of an item against its region: an event cause of the open stitch, or of a launch without one. -/
def State.itemCause (s : State) (g : Region) (t : Nat) (b : Bool) (c : Cause) (va : Nat) : State :=
  let s := s.setRegion g
  match g.status with
  | .final => s.finalCause g.rid ⟨c, false, t, b, 7, 0xFFFF_FFFF, va, none, none⟩
  | .killed _ => s
  | _ => s.setRegion (g.raiseEvent t b c va none none)

/-- The refusal of an awaited GLD or ATOMR. -/
def Region.refuseAwait (g : Region) (id : Nat) (c : Cause) (va : Nat) : Region := g.told id (.refused c va)

def homeRefuses : HomeRefusal → Cause
  | .bounds => 0x105
  | .permission => 0x106

/-- The refusal of an access: a home's own (0x105, 0x106), which the manual gives no condition for (Assumption 66), or a
peer's (0x108, 0x109). -/
def State.refusal (s : State) (part : Nat) (p : Page) (va n : Nat) (home : Option HomeRefusal) : Option Cause :=
  match s.answer part p va n, home with
  | .silent, _ => none
  | .refused c, none => some c
  | .ok, some h => some (homeRefuses h)
  | _, _ => none

/-- ITEM_REFUSAL: a home or peer refuses a load or a released item. -/
def execItemRefusal (r : Nat) (o : Refused) (s : State) : Out :=
  asyncEvent "ITEM_REFUSAL" r s fun g =>
    match g.gldOf o.id, g.itemOf o.id with
    | some (a, p, n, _), _ =>
      if a.lost || !s.mayGo g a.tile o.id then none else
      match s.refusal g.launch.part p a.addr n o.home with
      | some c => some (s.setRegion ((g.refuseAwait o.id c a.addr).performed a.tile o.id))
      | _ => none
    | none, some (i, p) =>
      if i.lost || !s.mayGo g i.tile o.id then none else
      match s.refusal g.launch.part p i.va i.size o.home with
      | some c =>
        let g := (g.dropItem i).returned i none
        if i.isAtomr then some (s.setRegion (g.refuseAwait o.id c i.va))
        else some (s.itemCause g i.tile (keyStrB i.key) c i.va)
      | _ => none
    | none, none => none

/-! ### Engine commands: reading and writing the tile (05 R135, R138; 12 R315) -/

/-- Whether the byte is written too by the region, since the command's issue, or by an engine command that is not ordered
against this one (05 R138). -/
def Region.contested (g : Region) (c : Cmd) (bstack : Bool) (t a : Nat) : Bool :=
  c.touched.any (fun r => r.has bstack t a) || g.engWrote bstack (some (c.tile * 32 + c.ctr, c.num)) t a

/-- The command and the others remember its write. -/
def Region.touch (g : Region) (id : Nat) (w : Range) : Region :=
  { g with cmds := g.cmds.map fun c =>
      if c.id = id then { c with wrote := w :: c.wrote }
      else if c.st = .gated then c else { c with touched := w :: c.touched } }

/-- An engine's write to scratchpad: it clears the clean-fill bit of every segment it writes. -/
def Region.engWrite (g : Region) (fresh : Nat) (c : Cmd) (t a : Nat) (ps : List PByte) : Region :=
  if ps.isEmpty then g else
  let old := (g.tile t).sp.read spGran a ps.length
  let g := g.modTile t fun x => x.spWrite a (mixBytes fresh a (g.contested c false t) old ps)
  g.touch c.id ⟨false, t, a, ps.length⟩

/-- An engine's write to the B-stack. -/
def Region.engStack (g : Region) (fresh : Nat) (c : Cmd) (a : Nat) (ps : List PByte) : Region :=
  if ps.isEmpty then g else
  let t := c.tile
  let old := (g.tile t).bs.read bsGran a ps.length
  let ps := mixBytes fresh a (g.contested c true t) old ps
  let g := g.modTile t fun x => { x with bs := x.bs.write bsGran a ps, free := cutFree .bs a ps.length x.free }
  g.touch c.id ⟨true, t, a, ps.length⟩

/-! ### Engine commands: global memory -/

/-- Read a virtual range up to the first byte that cannot be read; homes that do not answer give poison. -/
def State.vfetch (mute : Home → Bool) : Nat → State → Nat → Nat → Nat → List PByte × Option (Cause × Nat)
  | 0, _, _, _, _ => ([], none)
  | f + 1, s, part, va, n =>
    if n = 0 then ([], none) else
    match s.page part va false with
    | .error c => ([], some c)
    | .ok p =>
      let k := min n (p.base + p.size - va)
      match s.peerRefuses part (p.home va) k with
      | some c => ([], some (c, va))
      | none =>
        let here := if mute (p.home va) then List.replicate k (0, true) else s.homeRead part (p.home va) k
        let (rest, c) := State.vfetch mute f s part (va + k) (n - k)
        (here ++ rest, c)

/-- Write a virtual range up to the first byte that cannot be written. What reaches a home that does not answer may be
written or not; the outcome is then unknown (0x305). -/
def State.vput (mute : Home → Bool) : Nat → State → Nat → Nat → List PByte → State × Option (Cause × Nat)
  | 0, s, _, _, _ => (s, none)
  | f + 1, s, part, va, ps =>
    if ps.isEmpty then (s, none) else
    match s.page part va true with
    | .error c => (s, some c)
    | .ok p =>
      let k := min ps.length (p.base + p.size - va)
      match s.peerRefuses part (p.home va) k with
      | some c => (s, some (c, va))
      | none =>
        let quiet := mute (p.home va)
        let lost := quiet && Config.act (s.seq + va) % 2 == 1
        let s := if lost then s else s.homeWrite part (p.home va) (ps.take k)
        let (s, c) := State.vput mute f s part (va + k) (ps.drop k)
        (s, if quiet then c <|> some (0x305, va) else c)

/-- Whether a virtual range touches such a home. -/
def State.vtouches (mute : Home → Bool) : Nat → State → Nat → Nat → Nat → Bool
  | 0, _, _, _, _ => false
  | f + 1, s, part, va, n =>
    if n = 0 then false else
    match s.walk part va with
    | .mapped p =>
      let k := min n (p.base + p.size - va)
      mute (p.home va) || State.vtouches mute f s part (va + k) (n - k)
    | _ => false

/-- A command's run: the state it leaves, and the cause that stopped it. -/
abbrev Run := State × Option (Cause × Nat)

/-- Bring in one run of bytes. -/
def State.bringIn (s : State) (mute : Home → Bool) (g : Region) (c : Cmd) (m : Move) : Region × Option (Cause × Nat) :=
  let (ps, stop) := match m.src with
    | none => (List.replicate m.len (0, false), none)
    | some va => State.vfetch mute (pagesOf m.len) s g.launch.part va m.len
  let g := match c.fn with
    | .ceB => g.engStack s.fresh c m.dst ps
    | _ => g.engWrite s.fresh c c.tile m.dst ps
  (g, stop)

def State.bringAll (s : State) (mute : Home → Bool) (c : Cmd) : List Move → Region → Region × Option (Cause × Nat)
  | [], g => (g, none)
  | m :: ms, g =>
    match s.bringIn mute g c m with
    | (g, none) => s.bringAll mute c ms g
    | (g, some e) => (g, some e)

/-- Send out one run of bytes. -/
def State.sendAll (mute : Home → Bool) (g : Region) (c : Cmd) (fresh : Nat) : List Move → State → Run
  | [], s => (s, none)
  | m :: ms, s =>
    let ps := clean ((g.engRead fresh c (m.src.getD 0) m.len).map (·.1))
    match State.vput mute (pagesOf m.len) s g.launch.part m.dst ps with
    | (s, none) => State.sendAll mute g c fresh ms s
    | (s, some (0x305, va)) =>
      let (s, e) := State.sendAll mute g c fresh ms s
      (s, e <|> some (0x305, va))
    | (s, some e) => (s, some e)

/-- One element of CE.OUTR, reduced at its home once (05 R140; 12 R315). A home that does not answer has applied it at
most once, and it is never sent again (20 R452). -/
def State.reduceElem (s : State) (mute : Home → Bool) (g : Region) (c : Cmd) (op : AOp) (va e : Nat) (v : Word) : Run :=
  match s.page g.launch.part va true with
  | .error x => (s, some x)
  | .ok p =>
    if !p.rd then (s, some (0x106, va)) else
    match s.peerRefuses g.launch.part (p.home va) 4 with
    | some x => (s, some (x, va))
    | none =>
      let src := c.tag.map fun t => (s.source g c.tile, t, e)
      let lost := mute (p.home va) && Config.act (s.seq + va) % 2 == 1
      let go : State :=
        if lost then
          match src with
          | some (so, t, e) => { s with applied := addApplied s.applied ⟨so, t, e, {}⟩ }
          | none => s
        else (s.atomic g.launch.part (p.home va) op 4 v 0 false src).1
      (go, if mute (p.home va) then some (0x305, va) else none)

def State.reduceAll (mute : Home → Bool) (g : Region) (c : Cmd) (op : AOp) : List (Nat × Nat × Word) → State → Run
  | [], s => (s, none)
  | (va, e, v) :: es, s =>
    match s.reduceElem mute g c op va e v with
    | (s, none) => State.reduceAll mute g c op es s
    | (s, some (0x305, a)) =>
      let (s, x) := State.reduceAll mute g c op es s
      (s, x <|> some (0x305, a))
    | (s, some x) => (s, some x)

/-- The elements of CE.OUTR in order: address, offset in the command, value. -/
def Region.elements (g : Region) (fresh : Nat) (c : Cmd) : List (Nat × Nat × Word) :=
  ((g.puts fresh c).zipIdx).flatMap fun (m, i) =>
    (List.range (m.len / 4)).map fun e =>
      (m.dst + 4 * e, i * (m.len / 4) + e, BitVec.ofNat 64 (leVal (g.engRead fresh c (m.src.getD 0 + 4 * e) 4)).1)

/-- CE.XFER: every row is read before any is written; a destination byte whose source byte the command writes too is
open. -/
def Region.transfer (g : Region) (fresh : Nat) (c : Cmd) : Region :=
  match g.remote c.tile c.dx c.dy with
  | none => g
  | some (u, _, _) =>
    let d := c.desc
    let lb := Desc.lb d
    let dst (i : Nat) : Nat := c.d + i * Desc.f d 3 39 20
    let hit (a : Nat) : Bool := u = c.tile && (List.range (Desc.n d)).any fun i => decide (dst i ≤ a) && decide (a < dst i + lb)
    let rows := (List.range (Desc.n d)).map fun i =>
      (dst i, (g.engRead fresh c (c.s + i * Desc.ps d) lb).mapIdx fun k p =>
        if hit (c.s + i * Desc.ps d + k) then (Config.freeByte fresh (dst i + k), p.2) else p)
    rows.foldl (fun g r => g.engWrite fresh c u r.1 r.2) g

/-- CE.FILL: byte k of a row receives byte k mod 8 of w0. -/
def Region.fill (g : Region) (fresh : Nat) (c : Cmd) : Region :=
  let d := c.desc
  let row : List PByte := (List.range (Desc.lb d)).map fun k => (BitVec.ofNat 8 ((Desc.w d 0).toNat / 256 ^ (k % 8)), false)
  (List.range (Desc.n d)).foldl (fun g i => g.engWrite fresh c c.tile (c.s + i * Desc.ps d) row) g

/-! ### Clean-fill records (12 R318; 20 R447) -/

/-- The segments a CE.IN wrote whole from one contiguous global range. -/
def cleanSegs (c : Cmd) : List Nat :=
  let d := c.desc
  let n := Desc.n d
  let lb := Desc.lb d
  if n ≠ 0 ∧ lb ≠ 0 ∧ (n = 1 ∨ (Desc.ps d = lb ∧ Desc.pg d = lb)) then
    let lo := c.s
    let hi := c.s + n * lb
    (List.range (hi / 4096 - (lo + 4095) / 4096)).map fun i => (lo + 4095) / 4096 + i
  else []

/-- Set the clean-fill bits of a CE.IN: no other write to the segment since its issue, and no poison. -/
def Region.setClean (g : Region) (c : Cmd) (gen : BitVec 32) : Region :=
  let d := c.desc
  let touched (sg : Nat) : Bool := c.touched.any fun r =>
    !r.bstack && decide (r.tile = c.tile) && decide (r.start < sg * 4096 + 4096) && decide (sg * 4096 < r.start + r.len)
  let ok (sg : Nat) : Bool := !touched sg && !(g.tile c.tile).spBad (sg * 4096) 4096
  let recs : List Clean := (cleanSegs c).filterMap fun sg =>
    if ok sg then
      some ⟨sg, c.g + (sg * 4096 - c.s), BitVec.ofNat 4 (Desc.cls d), BitVec.ofNat 3 (Desc.scope d), gen⟩
    else none
  g.modTile c.tile fun x => { x with clean := recs ++ x.clean.filter fun k => !recs.any fun q => q.seg = k.seg }

/-! ### Running a copy command -/

/-- A word of the scratchpad source is poisoned (20 R447). -/
def Region.sourceBad (g : Region) (c : Cmd) : Bool := c.sources.any fun r => (g.tile c.tile).spBad r.1 r.2

/-- Cut a run into the aligned 8-byte words of its global side: each is atomic, and their order is open (05 R122, R135). -/
def Move.words (out : Bool) (m : Move) : List Move :=
  match out, m.src with
  | true, some a => (wordsOf m.dst m.len).map fun w => ⟨w.2, m.dst + w.1, some (a + w.1)⟩
  | false, some a => (wordsOf a m.len).map fun w => ⟨w.2, m.dst + w.1, some (a + w.1)⟩
  | _, none => [m]

/-- The words of a command's runs, numbered by run and place. -/
def numbered (out : Bool) (ms : List Move) : List (Nat × Move) :=
  (ms.zipIdx).flatMap fun (m, i) => ((m.words out).zipIdx).map fun (w, k) => (i * 65536 + k, w)

/-- What is left of a command's runs. -/
def Cmd.left (c : Cmd) (out : Bool) (ms : List Move) : List Move :=
  if c.moved.isEmpty then ms else ((numbered out ms).filter fun w => !c.moved.contains w.1).map (·.2)

/-- The whole run of a copy command, or what is left of it. -/
def State.copyRun (s : State) (mute : Home → Bool) (g : Region) (c : Cmd) : Run :=
  match c.fn with
  | .ceIn | .ceB | .ceWin | .ceGath =>
    let (g, e) := s.bringAll mute c (c.left false (g.fetches s.fresh c)) g
    let gen := match s.part? g.launch.part with | some p => p.transGen | none => 0
    let g := if c.fn = .ceIn ∧ e.isNone then g.setClean c gen else g
    (s.setRegion g, e)
  | .ceXfer => (s.setRegion (g.transfer s.fresh c), none)
  | .ceFill => (s.setRegion (g.fill s.fresh c), none)
  | .ceOut | .ceScat =>
    if g.sourceBad c then (s, some (0x304, 0)) else State.sendAll mute g c s.fresh (c.left true (g.puts s.fresh c)) s
  | .ceOutr op =>
    if g.sourceBad c then (s, some (0x304, 0)) else State.reduceAll mute g c op (g.elements s.fresh c) s
  | _ => (s, none)

def EngFn.isCopy : EngFn → Bool
  | .ceIn | .ceOut | .ceOutr _ | .ceB | .ceWin | .ceGath | .ceScat | .ceXfer | .ceFill => true
  | _ => false

/-- A command has to do with such a home. -/
def State.cmdTouches (s : State) (mute : Home → Bool) (g : Region) (c : Cmd) : Bool :=
  (g.ranges s.fresh c).any fun r => State.vtouches mute (pagesOf r.2) s g.launch.part r.1 r.2

/-- The command may run: it is sent, its place in the tile's order has come, and no earlier command of its context is
still to be released (12 R310, R311). -/
def State.cmdReady (s : State) (g : Region) (c : Cmd) : Bool :=
  g.active && (c.st == .sent || c.st == .started) && !c.lost && s.mayGo g c.tile c.id &&
  !g.cmds.any fun x => x.tile == c.tile && x.ctr == c.ctr && decide (x.num < c.num) &&
    (x.st == .gated || c.ctr == 22)

def State.readyCmd (s : State) (g : Region) (id : Nat) : Option Cmd :=
  (g.cmd? id).bind fun c => if s.cmdReady g c then some c else none

/-- The command is counted; its item, if it has one, is performed. -/
def State.count (s : State) (r : Nat) (c : Cmd) : State :=
  { s.modRegion r fun g => { (g.countCmd c) with items := g.items.filter fun i => i.id ≠ c.id } with
    fresh := s.fresh + 1, seq := s.seq + 1 }

def noMute : Home → Bool := fun _ => false

/-- COPY_COMMAND_COUNTED. -/
def execCopyCommandCounted (r id : Nat) (s : State) : Out :=
  asyncEvent "COPY_COMMAND_COUNTED" r s fun g =>
    (s.readyCmd g id).bind fun c =>
      if !EngFn.isCopy c.fn || s.cmdTouches s.silent g c then none
      else
        match s.copyRun noMute g c with
        | (s, none) => some (s.count r c)
        | _ => none

/-! ### Collectives (12 R319 to R323) -/

/-- The group table of a command. -/
def Region.group (g : Region) (fresh : Nat) (c : Cmd) : List Nat :=
  (List.range (Desc.n c.desc)).map fun i => (leVal (g.engRead fresh c (Desc.f c.desc 3 39 20 + 4 * i) 4)).1

def ascending : List Nat → Bool
  | a :: b :: r => decide (a < b) && ascending (b :: r)
  | _ => true

/-- The table and the root are as R319 and R321 ask. -/
def Region.groupOk (g : Region) (fresh : Nat) (me : BitVec 20) (c : Cmd) : Bool :=
  let l := g.group fresh c
  decide (1 ≤ Desc.n c.desc ∧ Desc.n c.desc ≤ 4096) && l.all (fun x => decide (x < 2 ^ 20)) && ascending l &&
    l.contains me.toNat && (c.fn != .colBc || decide (Desc.f c.desc 3 51 40 < Desc.n c.desc))

/-- The combine step of 12 R320. -/
def colCombine (op : AOp) (f : Fmt) (x y : Nat) : Nat :=
  match op with
  | .and => x &&& y
  | .or => x ||| y
  | .xor => x ^^^ y
  | .minu => min x y
  | .maxu => max x y
  | .min => if f = .i32 then (if signedOf 32 x ≤ signedOf 32 y then x else y) else floatPick f false x y
  | .max => if f = .i32 then (if signedOf 32 y ≤ signedOf 32 x then x else y) else floatPick f true x y
  | _ => if f = .i32 then (x + y) % 2 ^ 32 else rn32 (Exact.sum false [f32Val x, f32Val y])

/-- One level of the tree. -/
def pairUp (f : Nat → Nat → Nat) : List Nat → List Nat
  | a :: b :: r => f a b :: pairUp f r
  | l => l

def treeReduce (f : Nat → Nat → Nat) : Nat → List Nat → Nat
  | _, [a] => a
  | 0, l => l.headD 0
  | n + 1, l => treeReduce f n (pairUp f l)

/-- One element of COL.RED. -/
def colElem (op : AOp) (f : Fmt) (vals : List Nat) : Nat :=
  if op = .add ∧ (f = .bf16 ∨ f = .f16) then
    convert f .rne false 0 (f32Val (treeReduce (colCombine op f) vals.length (vals.map (widen32 f))))
  else treeReduce (colCombine op f) vals.length vals

/-- COL.RED over the members' bytes. -/
def colReduce (op : AOp) (f : Fmt) (lb : Nat) (parts : List (List Byte)) : List Byte :=
  let z := f.width / 8
  (List.range (lb / z)).flatMap fun e =>
    leBytes z (colElem op f (parts.map fun p => leNat ((p.drop (z * e)).take z)))

/-- The members' contributions by device index. -/
def colParts (me : BitVec 20) (mine : List Byte) (others : List Contrib) (l : List Nat) : List (List Byte) :=
  l.map fun k => if k = me.toNat then mine else ((others.find? fun o => o.dev.toNat = k).map (·.bytes)).getD []

/-- What a collective writes at D. -/
def colResult (c : Cmd) (parts : List (List Byte)) : List Byte :=
  let fit (b : List Byte) : List Byte := (b ++ List.replicate (Desc.lb c.desc) 0).take (Desc.lb c.desc)
  match c.fn with
  | .colRed op => colReduce op ((Desc.fmt c.desc).getD .i32) (Desc.lb c.desc) parts
  | .colAg => parts.flatMap fit
  | .colBc => fit (parts.getD (Desc.f c.desc 3 51 40) [])
  | _ => []

/-- The number a group is remembered by. -/
def groupKey (l : List Nat) : Nat := l.foldl (fun a d => a * 2 ^ 20 + d) 1

/-- The path of an instance (12 R322, 14 R380): bit 0 endpoint, bit 1 in-fabric. -/
def State.colPath (s : State) (g : Region) (l : List Nat) : BitVec 2 :=
  let qf := match s.part? g.launch.part with | some p => p.conf.qf | none => 0
  if s.reserved.any fun x => x.1 = g.launch.part && x.2.2.1 = groupKey l then 2
  else if qf = 0 then 1
  else if Config.act s.seq % 2 = 0 then 1 else 2

/-- A command reached the collective engine of its quad before another: at an earlier commit, or issued earlier, or by a
tile that comes earlier in the quad (01 R23). -/
def Cmd.reachedBefore (x c : Cmd) : Bool := decide (x.stitch < c.stitch) || (decide (x.stitch = c.stitch) && decide (x.key < c.key))

/-- The engine of a quad serves its tiles' commands in the order they reached it: a command that is served has every
earlier one started. -/
def Region.serveCol (g : Region) (c : Cmd) : Region :=
  { g with cmds := g.cmds.map fun x =>
      if x.st == .sent && decide (16 ≤ x.ctr ∧ x.ctr < 20) && g.quad x.tile == g.quad c.tile && x.reachedBefore c then
        { x with st := .started }
      else x }

/-- The result of a collective is written at D and the command is counted; other instances of a dual run receive the
same bytes. -/
def State.colDone (s : State) (g : Region) (c : Cmd) (ps : List PByte) (path : BitVec 2) : State :=
  let g := (g.serveCol c).engWrite s.fresh c c.tile c.d ps
  let g : Region := { g with cols := ⟨c.tile, c.ctr, c.stitch, c.rank, ps⟩ :: g.cols, paths := g.paths ||| path }
  (s.setRegion g).count g.rid c

/-- The length of a collective's result. -/
def Cmd.colLen (c : Cmd) : Nat :=
  match c.fn with
  | .colAg => Desc.n c.desc * Desc.lb c.desc
  | .colRed _ | .colBc => Desc.lb c.desc
  | _ => 0

def EngFn.isCol : EngFn → Bool
  | .colRed _ | .colAg | .colBc => true
  | _ => false

/-- What the primary's command has received (13 R357): the one of the same tile, counter, stitch and place among the
stitch's commands of that counter, which no re-entry of either instance shifts. -/
def State.colOf (s : State) (g : Region) (c : Cmd) : Option (List PByte) :=
  ((s.committing g).bind fun p => p.cols.find? fun x =>
    x.tile = c.tile && x.ctr = c.ctr && x.stitch = c.stitch && x.rank = c.rank).map (·.bytes)

/-- COLLECTIVE_COUNTED: the other members' contributions come from outside. Members that disagree raise 0x18A; one
that does not answer, or whose contribution is poisoned, poisons the whole result. -/
def collective (s : State) (g : Region) (c : Cmd) (others : List Contrib) : Option (Except Cause State) :=
  let l := g.group s.fresh c
  if !g.groupOk s.fresh s.dev.id c || g.sourceBad c then none
  else if others.map (fun o => o.dev.toNat) ≠ l.filter (fun d => decide (d ≠ s.dev.id.toNat)) then none
  else if others.any fun o => !o.agrees then some (.error 0x18A)
  else
    let mine := (g.engRead s.fresh c c.s (Desc.lb c.desc)).map (·.1)
    let bad := others.any fun o => !o.answered || o.bad
    let res := if bad then List.replicate c.colLen 0 else colResult c (colParts s.dev.id mine others l)
    some (.ok (s.colDone g c (taint bad res) (s.colPath g l)))

/-! ### Causes against an engine context (18 R422) -/

/-- The cause of a command, as its region meets it: a command of a committed stitch is named. -/
def Region.ctxRaise (g : Region) (c : Cmd) (cause va : Nat) : Raise :=
  ⟨cause, false, c.tile, keyStrB c.key, 7, 0xFFFF_FFFF, va, some c.ctr, if c.stitch < g.stitch then some c.id else none⟩

/-- The requester of a page-request record, and its context (18 R418). -/
def EngFn.asker : EngFn → Nat
  | .teLoad _ | .schEnq | .schRaise | .schPost => 3
  | .ceOut | .ceOutr _ | .ceScat => 2
  | _ => 1

/-- 0x101 and 0x103: the command parks; the region runs on until it would wait for it (18 R410, R423). -/
def State.parkCmd (s : State) (g : Region) (c : Cmd) (cause va : Nat) : State :=
  let part := g.launch.part
  let ra := g.ctxRaise c cause va
  let notify := match s.part? part with | some p => entryNotify (p.entry cause) | none => false
  let s := s.setRegion (g.parkCmd c.id cause va)
  if cause = 0x101 then
    (s.pageRequest part va g.launch.gen (.cmd g.rid c.id) (EngFn.asker c.fn) (if c.ctr < 20 then c.ctr else 0xFF)
      g.launch.ordinal.toNat c.tile).recordCause g ra .park true notify
  else
    let page := s.poisonPage part va
    let (s, told) := s.tellPage part page
    if told then s else s.recordCause g { ra with va := page } .park true true

/-- A cause of a command whose region has no open stitch: the action of the table, with no frog. -/
def State.ctxAtRest (s : State) (g : Region) (ra : Raise) : State :=
  let s := s.setRegion g
  match g.status with
  | .final =>
    match s.part? g.launch.part with
    | none => s
    | some p =>
      let e := p.entry ra.cause
      let a := ra.action e
      s.apply (ra.parks a g) ra a e
  | .parked old =>
    match s.part? g.launch.part with
    | none => s
    | some p =>
      let a := ra.action (p.entry ra.cause)
      if a = .park then
        (s.setRegion (ra.parks a { g with status := .parked old })).recordCause g ra a false (entryNotify (p.entry ra.cause))
      else s.byTable g.rid ra
  | _ => s.byTable g.rid ra

/-- A command of a discarded attempt, or of a killed launch, meets a fault: it is cancelled (18 R416; 12 R328). -/
def Region.cancelCmd (g : Region) (c : Cmd) : Region :=
  let g : Region := { g with items := g.items.filter fun i => i.id ≠ c.id }
  if c.dead then g.countCmd c else ({ g with cmds := g.cmds.filter fun x => x.id ≠ c.id }).performed c.tile c.id

def Region.isKilled (g : Region) : Bool :=
  match g.status with
  | .killed _ => true
  | _ => false

/-- A cause is raised against a command's context. -/
def State.ctxCause (s : State) (g : Region) (c : Cmd) (cause va : Nat) : State :=
  let s := { s with fresh := s.fresh + 1, seq := s.seq + 1 }
  if c.dead || g.isKilled then s.setRegion (g.cancelCmd c)
  else if cause = 0x101 ∨ cause = 0x103 then s.parkCmd g c cause va
  else
    let g : Region := { g with cmds := g.cmds.map fun x => if x.id = c.id then { x with st := .started } else x }
    let ra := g.ctxRaise c cause va
    if g.status = .running then s.setRegion { g with raised := g.raised ++ [ra] }
    else s.ctxAtRest g ra

/-! ### Table loads (12 R324; 10 R277) -/

/-- The image keeps the layout of R277 and the limits of R110. -/
def imageOk (bs : List Byte) : Bool :=
  let t : Table := ⟨bs, []⟩
  let b (i : Nat) : Nat := (bs.getD i 0).toNat
  decide (t.word 0 / 2 ^ 23 % 256 ≠ 255) && decide (-149 ≤ t.exp ∧ t.exp ≤ 119) &&
    decide (b 6 / 16 = 0) && decide (b 6 % 4 ≠ 3) && decide (b 6 / 4 % 4 ≠ 3) && decide (b 7 = 0) &&
    (List.range 16).all fun i => decide (b (16 + i) = 0)

/-- A load is complete: a valid image takes the slot over, a refused one empties it. -/
def Region.loadTable (g : Region) (c : Cmd) (k : BitVec 3) (img : Option (List Byte)) : Region :=
  let more := g.cmds.any fun x => x.tile = c.tile && x.id ≠ c.id && x.fn = .teLoad k
  g.modTile c.tile fun x =>
    let old := x.tabs[k.toNat]'k.isLt
    let new : Option TabSlot := match img, old with
      | some bs, some o => some { o with table := some ⟨bs, []⟩ }
      | some bs, none => some ⟨some ⟨bs, []⟩, c.vaddr, []⟩
      | none, some o => if more then some { o with table := none } else none
      | none, none => none
    { x with tabs := x.tabs.set k.toNat new k.isLt }

/-- The read of a table load. -/
def State.tableRead (s : State) (mute : Home → Bool) (g : Region) (c : Cmd) : List PByte × Option (Cause × Nat) :=
  State.vfetch mute (pagesOf 3104) s g.launch.part c.vaddr 3104

/-- The end of a table load: it is counted, and a refused image raises 0x18B. -/
def State.tableDone (s : State) (g : Region) (c : Cmd) (k : BitVec 3) (ps : List PByte) : State :=
  let ok := !ps.any (·.2) && imageOk (ps.map (·.1))
  let s := (s.setRegion (g.loadTable c k (if ok then some (ps.map (·.1)) else none))).count g.rid c
  if ok || c.dead || g.isKilled then s
  else match s.region? g.rid with
    | none => s
    | some g' =>
      let ra := { g.ctxRaise c 0x18B 0 with cmd := if c.stitch < g.stitch then some c.id else none }
      if g'.status = .running then s.setRegion { g' with raised := g'.raised ++ [ra] } else s.ctxAtRest g' ra

/-- TABLE_LOAD_COUNTED. -/
def execTableLoadCounted (r id : Nat) (s : State) : Out :=
  asyncEvent "TABLE_LOAD_COUNTED" r s fun g =>
    (s.readyCmd g id).bind fun c =>
      match c.fn with
      | .teLoad k =>
        if s.cmdTouches s.silent g c then none else
        match s.tableRead noMute g c with
        | (ps, none) => some (s.tableDone g c k ps)
        | _ => none
      | _ => none

/-- COLLECTIVE_COUNTED. -/
def execCollectiveCounted (r id : Nat) (others : List Contrib) (s : State) : Out :=
  asyncEvent "COLLECTIVE_COUNTED" r s fun g =>
    (s.readyCmd g id).bind fun c =>
      if !EngFn.isCol c.fn then none
      else if g.silent then (s.colOf g c).map fun ps => s.colDone g c ps 0
      else match collective s g c others with
        | some (.ok s') => some s'
        | some (.error x) => some (s.ctxCause g c x 0)
        | none => none

/-- The contexts held in a switch: by a partition, by all. -/
def State.heldIn (s : State) (part : Option Nat) (w : Nat) : Nat :=
  (s.reserved.filter fun x => (part.isNone || part = some x.1) && x.2.2.2.contains w).length

/-- A reservation may be granted: in every switch of the group's path a context is free within the tenant's quota; each
switch holds 64 (14 R380). -/
def State.mayReserve (s : State) (part : Nat) (ws : List Nat) : Bool :=
  let qf := match s.part? part with | some p => p.conf.qf | none => 0
  ws.all fun w => decide (s.heldIn (some part) w < qf) && decide (s.heldIn none w < 64)

/-- COL_Q_ANSWER: the fabric manager reserves a context in the switches of the group's path, within the tenant's quota
in each, or not, or releases the group's. -/
def execColQAnswer (r id : Nat) (granted : Option (List Nat)) (s : State) : Out :=
  asyncEvent "COL_Q_ANSWER" r s fun g =>
    (s.readyCmd g id).bind fun c =>
      if c.fn != .colQ && c.fn != .colQFree then none
      else if g.silent then (s.colOf g c).map fun _ => s.count r c
      else if !g.groupOk s.fresh s.dev.id c then none
      else
        let key := groupKey (g.group s.fresh c)
        let part := g.launch.part
        let rest := s.reserved.filter fun x => !(x.1 = part && x.2.2.1 = key)
        let res : List (Nat × Nat × Nat × List Nat) :=
          if c.fn = .colQFree then rest
          else match granted with
            | some ws => if ({ s with reserved := rest } : State).mayReserve part ws then (part, r, key, ws) :: rest else s.reserved
            | none => s.reserved
        let g : Region := { g.serveCol c with cols := ⟨c.tile, c.ctr, c.stitch, c.rank, []⟩ :: g.cols }
        some (({ s with reserved := res }.setRegion g).count r c)

/-! ### Scheduler functions (12 R326; 13 R331, R343) -/

/-- Append a packet to a device-fed queue, after a PAD where it would straddle the ring's end: the new state, nothing
where there is no room yet, or the fault of the ring's memory. -/
inductive Enq
  | done (s : State)
  | full
  | fault (c : Cause) (va : Nat)

def State.enqueue (s : State) (part q : Nat) (bs : List Byte) : Enq :=
  let u := s.queue q
  let pos := u.wr % u.size
  let pad := if u.size < pos + bs.length then u.size - pos else 0
  if u.rd + u.size < u.wr + pad + bs.length then .full else
  let base := (u.base &&& 0x01FF_FFFF_FFFF_F000).toNat
  let (s1, e1) := if pad = 0 then (s, none) else s.writeV part (base + pos) (clean (leBytes 8 0x10000))
  match e1 with
  | some (c, va) => .fault c va
  | none =>
    match s1.writeV part (base + (u.wr + pad) % u.size) (clean bs) with
    | (s2, none) => .done (s2.modQueue q fun u => { u with wr := u.wr + pad + bs.length })
    | (_, some (c, va)) => .fault c va

/-- Post to a descriptor without regard to address 0. -/
def State.postAt (s : State) (part desc : Nat) (p : Posting) : Except (Cause × Nat) State := do
  let old ← s.readV part desc 32
  match s.writeV part desc (clean (postBytes (old.map (·.1)) p)) with
  | (s, none) => return s
  | (_, some c) => .error c

/-- Raise a descriptor's expected total: nothing where its complete flag is set. -/
def State.raiseTotal (s : State) (part desc amount : Nat) : Except (Cause × Nat) (Option State) := do
  let old := (← s.readV part desc 32).map (·.1)
  if (old.getD 8 0).getLsbD 0 then return none
  let e := (leNat (old.take 4) + amount) % 2 ^ 32
  match s.writeV part desc (clean (leBytes 4 e)) with
  | (s, none) => return some s
  | (_, some c) => .error c

/-- What applying a scheduler function comes to. -/
inductive SchRes
  | done (s : State)
  | wait
  | queue (s : State)
  | cause (c : Cause) (va : Nat)

/-- A cause against the scheduler context acts only through notify-host (18 R428). 0x28F names no access, so no address
(21 R469). -/
def State.schedNotice (s : State) (g : Region) (c : Cmd) (cause : Cause) : State :=
  match s.part? g.launch.part with
  | none => s
  | some p =>
    s.record g.launch.part (entryNotify (p.entry cause))
      { code := cause, kind := 3, quad := g.physQuad c.tile, va := if c.fn = .schEnq then 0 else c.a.toNat, ordinal := g.launch.ordinal.toNat, where_ := c.tile }

/-- An earlier SCH.ENQ of the same commit is still to be applied (13 R331). -/
def Region.enqWaits (g : Region) (c : Cmd) : Bool :=
  g.cmds.any fun x => x.fn = .schEnq && x.stitch = c.stitch && decide (x.key < c.key) && !x.dead

/-- Apply a scheduler function. -/
def State.schRun (s : State) (g : Region) (c : Cmd) : SchRes :=
  let part := g.launch.part
  let low := c.b.toNat % 2 ^ 32
  match c.fn with
  | .schEnq =>
    let q := c.b.toNat
    if g.enqWaits c then .wait
    else if !(s.queue q).deviceFed then .done (s.schedNotice g c 0x28F)
    else
      let len := packetBytes (leVal (g.engRead s.fresh c c.a.toNat 8)).1
      match s.enqueue part q ((g.engRead s.fresh c c.a.toNat len).map (·.1)) with
      | .done s => .done s
      | .full => .wait
      | .fault x va => if (s.queue q).stopped then .wait else .queue (s.queueCause part q x va)
  | .schRaise =>
    match s.raiseTotal part c.a.toNat low with
    | .ok (some s) => .done s
    | .ok none => .done (s.schedNotice g c 0x18D)
    | .error (x, va) => .cause x va
  | .schPost =>
    match s.postAt part c.a.toNat ⟨low, 0, none, none⟩ with
    | .ok s => .done s
    | .error (x, va) => .cause x va
  | _ => .wait

/-- The unresponsive homes that a virtual range touches: device and address. -/
def State.quietAt : Nat → State → Nat → Nat → Nat → List (BitVec 20 × Nat)
  | 0, _, _, _, _ => []
  | f + 1, s, part, va, n =>
    if n = 0 then [] else
    match s.walk part va with
    | .mapped p =>
      let k := min n (p.base + p.size - va)
      (if s.synthetic (p.home va) then [(p.dev, va)] else []) ++ State.quietAt f s part (va + k) (n - k)
    | _ => []

/-- The notice 0x306, once for each device and partition, before the first synthesised reply lands (20 R451; 21 R468). -/
def State.tellOne (s : State) (part : Nat) (d : BitVec 20) (va ordinal t : Nat) : State :=
  match s.part? part with
  | some p =>
    if p.toldPeers.contains d then s
    else (s.setPart { p with toldPeers := d :: p.toldPeers }).notice part
      { code := 0x306, kind := 4, va := va, ordinal := ordinal, where_ := t }
  | none => s

/-- The ranges of a scheduler function's request. -/
def Cmd.schRanges (c : Cmd) : List (Nat × Nat) :=
  match c.fn with
  | .schRaise | .schPost => [(c.a.toNat, 32)]
  | _ => []

/-- The notices 0x306 of an access of the scheduler's own to unresponsive homes (20 R451; 21 R468). -/
def State.tellRange (s : State) (part va n ordinal t : Nat) : State :=
  if s.quiet.isEmpty then s else
  (State.quietAt (pagesOf n) s part va n).foldl (fun s x => s.tellOne part x.1 x.2 ordinal t) s

/-- SCHEDULER_FUNCTION_APPLIED. -/
def execSchedulerFunctionApplied (r id : Nat) (s : State) : Out :=
  asyncEvent "SCHEDULER_FUNCTION_APPLIED" r s fun g =>
    (s.readyCmd g id).bind fun c =>
      let s := c.schRanges.foldl (fun s x => s.tellRange g.launch.part x.1 x.2 g.launch.ordinal.toNat c.tile) s
      match s.schRun g c with
      | .done s' => some (s'.count r c)
      | .queue s' => some s'
      | _ => none

/-! ### ENGINE_CONTEXT_CAUSE -/

/-- The cause a command that may run meets (12 R314, R319; 20 R447). -/
def State.cmdCause (s : State) (g : Region) (c : Cmd) : Option (State × Cause × Nat) :=
  if EngFn.isCopy c.fn then
    match s.copyRun noMute g c with
    | (s', some (x, va)) => some (s', x, va)
    | _ => none
  else if EngFn.sched c.fn then
    match s.schRun g c with
    | .cause x va => some (s, x, va)
    | _ => none
  else match c.fn with
    | .teLoad _ =>
      match s.tableRead noMute g c with
      | (_, some (x, va)) => some (s, x, va)
      | _ => none
    | _ =>
      if g.silent then none
      else if !g.groupOk s.fresh s.dev.id c then some (s, 0x189, 0)
      else if EngFn.isCol c.fn && g.sourceBad c then some (s, 0x304, 0)
      else none

/-- A home refuses bytes a command would read or write (12 R314; 19 R437; Assumption 66): the first of its ranges, and
nothing of the refused bytes is written. -/
def State.homeCause (s : State) (g : Region) (c : Cmd) (h : HomeRefusal) : Option (State × Cause × Nat) :=
  (g.ranges s.fresh c).head?.map fun r => (s, homeRefuses h, r.1)

/-- ENGINE_CONTEXT_CAUSE. -/
def execEngineContextCause (r : Nat) (o : Refused) (s : State) : Out :=
  asyncEvent "ENGINE_CONTEXT_CAUSE" r s fun g =>
    (s.readyCmd g o.id).bind fun c =>
      if s.cmdTouches s.silent g c then none else
      (match o.home with | some h => s.homeCause g c h | none => s.cmdCause g c).bind fun (s', x, va) =>
        (s'.region? r).bind fun g' =>
          if g'.raised.any fun y => y == g'.ctxRaise c x va then none else some (s'.ctxCause g' c x va)

/-! ### Lost and made-up replies (20 R449 to R452) -/

/-- The translation tables of a partition lie in host memory (14 R377), so that a table read may go unanswered (20 R449). -/
def State.hostTables (s : State) (part : Nat) : Bool :=
  match s.part? part with
  | some p => p.ptroot.getLsbD 0
  | none => false

/-- What a reply that tells nothing does to one request: loads and reads get poison, a write's outcome is unknown
(0x305), a collective's result is poisoned. -/
def State.noReply (s : State) (mute : Home → Bool) (g : Region) (id : Nat) : Option State :=
  let part := g.launch.part
  match g.gldOf id with
  | some (a, p, n, sx) =>
    if !s.mayGo g a.tile id || !mute (p.home a.addr) then none
    else some (s.setRegion (g.gldValue a (loadVal sx (List.replicate n (0, true)))))
  | none =>
    match g.itemOf id with
    | some (i, p) =>
      if !s.mayGo g i.tile id || !mute (p.home i.va) then none
      else
        let applied := Config.act s.seq % 2 = 0
        let s := { s with seq := s.seq + 1 }
        let s := match i.kind.update with
          | some (op, dw, v, cmp) =>
            if applied then
              (s.atomic part (p.home i.va) op (atomBytes dw) v cmp i.bad (i.tag.map fun t => (s.source g i.tile, t, 0))).1
            else s
          | none => if applied then s.homeWrite part (p.home i.va) (taint i.bad i.bytes) else s
        let g := (g.dropItem i).returned i (some ⟨0, true⟩)
        let g := if i.isAtomr then g.told i.id (.value ⟨0, true⟩) else g
        some (s.itemCause g i.tile (keyStrB i.key) 0x305 i.va)
    | none =>
      (s.readyCmd g id).bind fun c =>
        match c.fn with
        | .teLoad k =>
          if !s.cmdTouches mute g c then none else
          match s.tableRead mute g c with
          | (ps, none) => some (s.tableDone g c k ps)
          | (_, some (x, va)) => some (s.ctxCause g c x va)
        | _ =>
          if EngFn.isCopy c.fn then
            if !s.cmdTouches mute g c then none else
            match s.copyRun mute g c with
            | (s', none) => some (s'.count g.rid c)
            | (s', some (x, va)) => (s'.region? g.rid).map fun g' => s'.ctxCause g' c x va
          else none

/-- A read of a translation table in host memory gets no answer: the poisoned entry is met as R421 has it, by an XLATE's
walk or by a command's. -/
def State.noTable (s : State) (g : Region) (id : Nat) : Option State :=
  if !s.hostTables g.launch.part then none else
  match g.awaits.find? fun a => a.id = id && a.st == .waiting with
  | some a =>
    match a.kind with
    | .xlate va => some (s.setRegion (g.told id (.refused 0x103 va)))
    | _ => none
  | none => (s.readyCmd g id).bind fun c =>
    (g.ranges s.fresh c).head?.map fun r => s.ctxCause g c 0x103 r.1

/-- A collective with an unresponsive member: poisoned results at D, counted (20 R451). -/
def State.colSilent (s : State) (g : Region) (id : Nat) : Option State :=
  (s.readyCmd g id).bind fun c =>
    if EngFn.isCol c.fn && !g.silent && g.groupOk s.fresh s.dev.id c && !g.sourceBad c &&
        s.quiet.any (fun d => (g.group s.fresh c).contains d.toNat) then
      some (s.colDone g c (List.replicate c.colLen (0, true)) (s.colPath g (g.group s.fresh c)))
    else none

/-- Every unresponsive device a request waits for, the request's address and its tile (21 R468). -/
def State.waitsOn (s : State) (g : Region) (id : Nat) : List (BitVec 20 × Nat × Nat) :=
  match g.gldOf id, g.itemOf id with
  | some (a, p, _, _), _ => [(p.dev, a.addr, a.tile)]
  | none, some (i, p) => [(p.dev, i.va, i.tile)]
  | none, none =>
    match g.cmd? id with
    | none => []
    | some c =>
      if EngFn.isCol c.fn then
        (s.quiet.filter fun d => (g.group s.fresh c).contains d.toNat).map fun d => (d, 0, c.tile)
      else
        ((g.ranges s.fresh c ++ c.schRanges).flatMap fun r => State.quietAt (pagesOf r.2) s g.launch.part r.1 r.2).map
          fun x => (x.1, x.2, c.tile)

def State.tellPeer (s : State) (g : Region) (id : Nat) : State :=
  (s.waitsOn g id).foldl (fun s (d, va, t) => s.tellOne g.launch.part d va g.launch.ordinal.toNat t) s

/-- SYNTHESISED_REPLY: the switch answers for a device declared unresponsive. -/
def execSynthesisedReply (r id : Nat) (s : State) : Out :=
  asyncEvent "SYNTHESISED_REPLY" r s fun g =>
    let s' := s.tellPeer g id
    (s'.noReply s'.synthetic g id) <|> s'.colSilent g id

/-- A home in host memory. -/
def Home.isHost (h : Home) : Bool := h.target == .cxl || h.target == .pcie

/-- A request that wants a completion: everything but a store or a copy-out. -/
def Region.nonPosted (g : Region) (id : Nat) : Bool :=
  match g.itemOf id with
  | some (i, _) => !i.isStore
  | none => match g.cmd? id with
    | some c => c.fn != .ceOut && c.fn != .ceScat
    | none => true

/-- HOST_COMPLETION_TIMEOUT: a non-posted request to the host without a completion, of a region or of the scheduler
reading for a queue. -/
def execHostCompletionTimeout (r : Nat) (o : Unanswered) (s : State) : Out :=
  match o.queue with
  | none => asyncEvent "HOST_COMPLETION_TIMEOUT" r s fun g =>
      (if g.nonPosted o.id then s.noReply Home.isHost g o.id else none) <|> s.noTable g o.id
  | some q =>
    match s.parts.find? fun p => p.hasQueue q with
    | some p =>
      if s.hostTables p.conf.num && (s.queue q).enabled && !(s.queue q).stopped then
        .next (s.queuePark p.conf.num q 0x103 (s.queue q).base.toNat)
      else .refused (.notDue "HOST_COMPLETION_TIMEOUT")
    | none => .refused (.notDue "HOST_COMPLETION_TIMEOUT")

/-- A request is sent again up to 3 times (20 R450). -/
def maxSends : Nat := 3

/-- PELARO_REQUEST_RESEND: a request that got no answer goes out again, with its tag. -/
def execPelaroRequestResend (r id : Nat) (s : State) : Out :=
  asyncEvent "PELARO_REQUEST_RESEND" r s fun g =>
    let again (x lost : Bool) (n : Nat) : Bool := x && lost && decide (n < maxSends)
    let a := g.awaits.any fun a => again (a.id = id) a.lost a.sends
    let i := g.items.any fun i => again (i.id = id) i.lost i.sends
    let c := g.cmds.any fun c => again (c.id = id) c.lost c.sends
    if !(a || i || c) then none
    else some (s.setRegion { g with
      awaits := g.awaits.map fun a => if a.id = id then { a with lost := false, sends := a.sends + 1 } else a
      items := g.items.map fun i => if i.id = id then { i with lost := false, sends := i.sends + 1 } else i
      cmds := g.cmds.map fun c => if c.id = id then { c with lost := false, sends := c.sends + 1 } else c })

/-! ### One word of an access before the others (05 R122) -/

/-- One aligned 8-byte word of a copy command is moved. -/
def State.moveWord (s : State) (g : Region) (c : Cmd) (n : Nat) : State :=
  let out := EngFn.gated c.fn
  let ws := (numbered out (if out then g.puts s.fresh c else g.fetches s.fresh c)).filter fun w => !c.moved.contains w.1
  match ws[n % ws.length]? with
  | none => s
  | some (k, m) =>
    let note (g : Region) : Region :=
      { g with cmds := g.cmds.map fun x => if x.id = c.id then { x with st := .started, moved := k :: x.moved } else x }
    if out then
      match State.sendAll noMute g c s.fresh [m] s with
      | (s', none) => s'.modRegion g.rid note
      | _ => s
    else
      match s.bringAll noMute c [m] g with
      | (g', none) => s.setRegion (note g')
      | _ => s

/-- The copies whose bytes cross words: not the reductions, whose elements are applied one by one in any case. -/
def EngFn.worded : EngFn → Bool
  | .ceIn | .ceB | .ceWin | .ceGath | .ceOut | .ceScat => true
  | _ => false

/-- One word of a misaligned load is read, or of a misaligned store written, or one word of a copy moved. -/
def State.piece (s : State) (r id n : Nat) : State :=
  match s.region? r with
  | none => s
  | some g =>
    let s' : State := { s with fresh := s.fresh + 1 }
    match g.gldOf id, g.itemOf id, s.readyCmd g id with
    | some (a, p, z, _), _, _ =>
      if a.lost || !s.mayGo g a.tile id || s.answer g.launch.part p a.addr z != .ok then s else
      let ws := (wordsOf a.addr z).filter fun w => (a.got.lookup w.1).isNone
      match ws[n % ws.length]? with
      | some w =>
        let bs := (s.homeRead g.launch.part (p.home (a.addr + w.1)) w.2).mapIdx fun i b => (w.1 + i, b)
        s'.setRegion { g with awaits := g.awaits.map fun x => if x.id = id then { x with got := bs ++ x.got } else x }
      | none => s
    | none, some (i, p), _ =>
      if !i.isStore || i.lost || !s.mayGo g i.tile id || s.answer g.launch.part p i.va i.size != .ok then s else
      let ws := (wordsOf i.va i.size).filter fun w => !i.moved.contains w.1
      match ws[n % ws.length]? with
      | some w =>
        (s'.homeWrite g.launch.part (p.home (i.va + w.1)) (taint i.bad ((i.bytes.drop w.1).take w.2))).setRegion
          { g with items := g.items.map fun x => if x.id = id then { x with moved := w.1 :: x.moved } else x }
      | none => s
    | none, none, some c =>
      if !EngFn.worded c.fn || g.sourceBad c || s.cmdTouches s.silent g c then s else s'.moveWord g c n
    | none, none, none => s

end Sys2Proof.Machine
end

