-- ==== Sys2Proof/Machine/Place.lean ====
section
/-! DEFINITION. Placement: which placements the geometry allows, and which quads a partition may place on
(02 R30 to R33; 13 R351; 14 R371 to R373; 20 R458). -/

namespace Sys2Proof.Machine

/-! ### Geometry (02 R30 to R32) -/

/-- A hop between two adjacent physical tiles crosses a die seam (01 R16). -/
def hopCrosses (a b : Nat × Nat) : Bool :=
  (decide (a.1 < 24) != decide (b.1 < 24)) || (decide (a.2 < 24) != decide (b.2 < 24))

/-- The hops along one axis cross a die seam exactly at the declared seam. -/
def axisOk (at_ : Nat → Nat × Nat) (n seam : Nat) : Bool :=
  (List.range (n - 1)).all fun i => hopCrosses (at_ i) (at_ (i + 1)) == decide (seam = i + 1)

/-- The seams of a placement; a hop's crossing depends on its own coordinate alone (02 R32). -/
def Pattern.seamsOk (x : Pattern) (p : Place) : Bool :=
  axisOk (fun i => placeTile p x.w x.h i 0) x.w x.colSeam && axisOk (fun i => placeTile p x.w x.h 0 i) x.h x.rowSeam

/-- An even origin, the footprint on the mesh, the seams where they are declared (02 R31). -/
def Pattern.fits (x : Pattern) (p : Place) : Bool :=
  let (cols, rows) := if p.rot.val % 2 = 0 then (x.w, x.h) else (x.h, x.w)
  decide (p.x0 % 2 = 0 ∧ p.y0 % 2 = 0 ∧ p.x0 + cols ≤ 48 ∧ p.y0 + rows ≤ 48) && x.seamsOk p

def Pattern.quadsAt (x : Pattern) (p : Place) : List Nat := placeQuads p x.w x.h

/-- Every origin and rotation. -/
def allPlaces : List Place :=
  (List.finRange 4).flatMap fun r =>
    (List.range 24).flatMap fun j => (List.range 24).map fun i => ⟨2 * i, 2 * j, r⟩

/-- The placements on quads that satisfy a condition. -/
def Pattern.places (x : Pattern) (ok : Nat → Bool) : List Place :=
  allPlaces.filter fun p => ok (12 * p.y0 + p.x0 / 2) && x.fits p && (x.quadsAt p).all ok

def disjointQuads (a b : List Nat) : Bool := !a.any fun q => b.contains q

/-- One placement, or two disjoint ones. -/
def Pattern.placeable (x : Pattern) (dual : Bool) (ok : Nat → Bool) : Bool :=
  let ps := x.places ok
  if dual then ps.any fun p => ps.any fun q => disjointQuads (x.quadsAt p) (x.quadsAt q) else !ps.isEmpty

/-! ### Quads (02 R31; 14 R371, R373) -/

/-- Bits of a list of quads. -/
def quadBits (l : List Nat) : BitVec 576 := l.foldl (fun m q => m ||| (1#576 <<< q)) 0

/-- A region's context holds its quads: it stands on them, or commands of a launch that has ended still run there. -/
def Region.holds (g : Region) : Bool := g.onTiles || ((match g.status with | .final | .killed _ => true | _ => false) && !g.cmds.isEmpty)

def State.held (s : State) (q : Nat) : Bool := s.regions.any fun g => g.holds && g.quads.contains q

def ownsQuad (p : PartRec) (q : Nat) : Bool := p.guaranteed.contains q || p.margin.contains q

def State.lentOut (s : State) (q : Nat) : Bool := s.lent.any fun l => l.quad = q

/-- The quads the partition may use: its own that are not lent out, and those it has borrowed. -/
def State.uses (s : State) (p : Part) (q : Nat) : Bool :=
  if ownsQuad p.conf q then !s.lentOut q else s.lent.any fun l => l.quad = q && l.borrower = p.conf.num && !l.back

/-- A quad that a placement may take, except for what stands on it. A quad that failed the swatch test waits
(17 R401). -/
def State.mayUse (s : State) (p : Part) (q : Nat) : Bool :=
  s.dev.usable q && !s.dev.unproved.contains q && s.uses p q

/-- A free quad of the partition. -/
def State.freeFor (s : State) (p : Part) (q : Nat) : Bool := s.mayUse p q && !s.held q

/-- The partition's owned good, unquarantined quads, even with every quad free (13 R351). -/
def State.owned (s : State) (p : Part) (q : Nat) : Bool := s.dev.usable q && ownsQuad p.conf q

/-- The pattern, or two disjoint instances of it, can never be placed: 0x28C. -/
def State.neverPlaceable (s : State) (p : Part) (x : Pattern) (dual : Bool) : Bool := !x.placeable dual (s.owned p)

/-- The region manager may make this placement (02 R31). -/
def State.mayPlace (s : State) (p : Part) (x : Pattern) (avoid : List Nat) (pl : Place) : Bool :=
  x.fits pl && (x.quadsAt pl).all fun q => s.freeFor p q && !avoid.contains q

end Sys2Proof.Machine
end

