-- ==== Sys2Proof/Machine/Pattern.lean ====
section
/-! DEFINITION. Pattern objects: their form, the checks of LOAD in their order, references to them
(02 R51; 03 R71; 13 R360 to R365; 14 R372). -/

namespace Sys2Proof

/-! ### The registers an instruction names (03 R71) -/

def SSrc.gs : SSrc → List Nat
  | .g n => [n.toNat]
  | _ => []

def SDst.gs : SDst → List Nat
  | .g n => [n.toNat]
  | _ => []

def SrcB.gs : SrcB → List Nat
  | .op a => a.gs
  | .imm16 _ => []

def VSrc.gs : VSrc → List Nat
  | .g n => [n.toNat]
  | _ => []

def VSrc.vs : VSrc → List Nat
  | .v n => [n.toNat]
  | _ => []

def optGs : Option SDst → List Nat
  | some d => d.gs
  | none => []

def Alu2.gs (o : Alu2) : List Nat := o.d.gs ++ o.a.gs ++ o.b.gs
def Cmp2.gs (o : Cmp2) : List Nat := o.a.gs ++ o.b.gs
def SelA.gs (o : SelA) : List Nat := o.d.gs ++ o.a.gs ++ o.b.gs
def FieldSel.gs : FieldSel → List Nat
  | .imm _ _ => []
  | .reg p l => p.gs ++ l.gs
def BfxA.gs (o : BfxA) : List Nat := o.d.gs ++ o.a.gs ++ o.f.gs
def BfiA.gs (o : BfiA) : List Nat := o.d.gs ++ o.a.gs ++ o.b.gs
def CntA.gs (o : CntA) : List Nat := o.d.gs ++ o.a.gs
def AgenA.gs (o : AgenA) : List Nat := o.d.gs ++ o.a.gs ++ o.b.gs ++ o.c.gs
def LdA.gs (o : LdA) : List Nat := o.d.gs ++ o.a.gs ++ o.b.gs ++ o.c.gs
def StA.gs (o : StA) : List Nat := o.a.gs ++ o.b.gs ++ o.c.gs
def LdxA.gs (o : LdxA) : List Nat := o.d.gs ++ o.a.gs ++ o.c.gs
def StxA.gs (o : StxA) : List Nat := o.a.gs ++ o.b.gs ++ o.c.gs
def XlateA.gs (o : XlateA) : List Nat := o.a.gs ++ o.b.gs ++ o.c.gs
def GldA.gs (o : GldA) : List Nat := o.d.gs ++ o.b.gs
def GstA.gs (o : GstA) : List Nat := o.b.gs ++ o.c.gs
def AtomA.gs (o : AtomA) : List Nat := o.b.gs ++ o.c.gs
def AtomrA.gs (o : AtomrA) : List Nat := o.d.gs ++ o.b.gs ++ o.c.gs
def VldA.gs (o : VldA) : List Nat := o.a.gs ++ o.b.gs ++ o.c.gs
def VstA.gs (o : VstA) : List Nat := o.a.gs ++ o.c.gs
def VgathA.gs (o : VgathA) : List Nat := o.a.gs ++ o.c.gs
def VscatA.gs (o : VscatA) : List Nat := o.c.gs
def VopA.gs (o : VopA) : List Nat := o.a.gs ++ o.b.gs ++ o.c.gs
def VcmpA.gs (o : VcmpA) : List Nat := o.a.gs ++ o.b.gs
def VscalA.gs (o : VscalA) : List Nat := o.d.gs ++ o.b.gs
def MmaA.gs (o : MmaA) : List Nat := o.a.gs ++ o.b.gs ++ o.c.gs
def MaskA.gs (o : MaskA) : List Nat := o.a.gs ++ (match o.range with | some c => c.gs | none => [])
def EngA.gs (o : EngA) : List Nat := optGs o.rpl ++ o.a.gs ++ o.b.gs
def SchA.gs (o : SchA) : List Nat := optGs o.rpl ++ o.a.gs ++ o.b.gs

/-- The g registers an instruction names; a field it does not use holds g0. -/
def Instr.gregs : Instr → List Nat
  | .add o | .sub o | .and o | .or o | .xor o | .andn o | .shl o | .shr o | .sar o | .min o | .max o | .minu o
  | .maxu o | .mul o | .mulh o | .mulhu o | .div o | .divu o | .rem o | .remu o => o.gs
  | .cmpeq o | .cmpne o | .cmplt o | .cmple o | .cmpltu o | .cmpleu o => o.gs
  | .sel o => o.gs
  | .bfx o | .bfxs o => o.gs
  | .bfi o => o.gs
  | .clz o | .ctz o | .popc o => o.gs
  | .agen2 o => o.gs
  | .li _ d _ => d.gs
  | .liHi _ d a _ => d.gs ++ a.gs
  | .rdsr _ d _ | .rdmb _ d _ => d.gs
  | .wrsr _ a | .bri _ a _ | .ret _ a | .loopr _ a => a.gs
  | .call _ d _ => d.gs
  | .barInit _ _ _ n => n.gs
  | .tlinc _ _ a _ | .tlbase _ _ _ a => a.gs
  | .tlrd _ d _ => d.gs
  | .ldB o | .ldH o | .ldW o | .ldD o | .ldsB o | .ldsH o | .ldsW o => o.gs
  | .stB o | .stH o | .stW o | .stD o => o.gs
  | .ldx o => o.gs
  | .stx o => o.gs
  | .xlate o => o.gs
  | .gld o => o.gs
  | .gst o => o.gs
  | .atom o | .red o => o.gs
  | .atomr o => o.gs
  | .vld o => o.gs
  | .vst o => o.gs
  | .vgath o => o.gs
  | .vscat o => o.gs
  | .vadd o | .vsub o | .vmul o | .vmin o | .vmax o | .vabs o | .vneg o | .vfma o | .vand o | .vor o | .vxor o
  | .vshl o | .vshr o | .vsar o | .vadds o | .vsubs o | .vsel o | .vmov o | .vbcast o | .vperm o | .vins o
  | .vcvt o | .vquant o | .vdq o | .vtbl o => o.gs
  | .vcmpeq o | .vcmpne o | .vcmplt o | .vcmple o => o.gs
  | .vext o | .vredsum o | .vredmax o | .vredmin o | .vqscale o => o.gs
  | .lmset o => o.a.gs
  | .lmpopc o => o.d.gs
  | .mma o | .mmas o => o.gs
  | .mset _ _ a _ => a.gs
  | .mdrain o => o.a.gs ++ o.c.gs
  | .tmld o | .tmst o => o.a.gs ++ o.c.gs
  | .mrset o | .mcset o => o.gs
  | .descSet _ _ _ a b => a.gs ++ b.gs
  | .descGet _ d _ _ | .engStat _ d _ => d.gs
  | .ceIn o | .ceOut o | .ceOutr o _ | .ceB o | .ceWin o | .ceGath o | .ceScat o | .ceXfer o | .ceFill o
  | .colRed o _ | .colAg o | .colBc o => o.gs
  | .colQ o | .colQFree o => optGs o.rpl
  | .teLoad _ r _ a b => optGs r ++ a.gs ++ b.gs
  | .teCfg _ _ _ _ a => a.gs
  | .schEnq o | .schRaise o | .schPost o => o.gs
  | _ => []

/-- The v registers an instruction names. -/
def Instr.vregs : Instr → List Nat
  | .vld o => [o.d.toNat]
  | .vst o => [o.b.toNat]
  | .vgath o => [o.d.toNat, o.x.toNat]
  | .vscat o => [o.x.toNat, o.b.toNat]
  | .vadd o | .vsub o | .vmul o | .vmin o | .vmax o | .vabs o | .vneg o | .vfma o | .vand o | .vor o | .vxor o
  | .vshl o | .vshr o | .vsar o | .vadds o | .vsubs o | .vsel o | .vmov o | .vbcast o | .vperm o | .vins o
  | .vcvt o | .vquant o | .vdq o | .vtbl o => o.d.toNat :: (o.a.vs ++ o.b.vs ++ o.c.vs)
  | .vcmpeq o | .vcmpne o | .vcmplt o | .vcmple o => o.a.vs ++ o.b.vs
  | .vext o | .vredsum o | .vredmax o | .vredmin o | .vqscale o => o.a.toNat :: o.b.vs
  | .lmset o => o.a.vs
  | _ => []

/-- An MX-slot word or ECMD function 0x0B gives the matrix attribute (13 R363). -/
def isMatrixOp (p : Nat × Instr) : Bool :=
  p.1 == 4 || (match p.2 with | .ceB _ => true | _ => false)

end Sys2Proof

namespace Sys2Proof.Machine

/-! ### The object (13 R360, R361) -/

/-- Bytes a to a + n − 1 of an object, as a number. -/
def objField (o : List Byte) (a n : Nat) : Nat := leNat ((o.drop a).take n)

def zeroIn (o : List Byte) (a n : Nat) : Bool := ((o.drop a).take n).all fun b => b = 0

/-- The sections as the header names them: header, code, records, data. -/
def objSections (h : List Byte) : List (Nat × Nat) :=
  [(0, 128), (objField h 16 4, objField h 20 4), (objField h 32 4, 368 * objField h 36 2)] ++
    (if objField h 28 4 = 0 then [] else [(objField h 24 4, objField h 28 4)])

/-- The object ends where its last section ends. -/
def objSize (h : List Byte) : Nat := (objSections h).foldl (fun m s => max m (s.1 + s.2)) 128

def overlaps (a b : Nat × Nat) : Bool := decide (a.1 < b.1 + b.2 ∧ b.1 < a.1 + a.2)

def apart : List (Nat × Nat) → Bool
  | [] => true
  | a :: r => !r.any (overlaps a) && apart r

/-- Magic, reserved bytes and section bounds: the first check of R362, but for the digest. -/
def headerOk (h : List Byte) : Bool :=
  let f := objField h
  decide (f 0 4 = 0x4E52_4744) && decide (f 10 1 < 2) && decide (f 11 1 < 16) && zeroIn h 38 26 && zeroIn h 96 32 &&
    decide (f 16 4 % 64 = 0 ∧ f 20 4 % 4 = 0 ∧ 4 ≤ f 20 4 ∧ f 20 4 ≤ 196608) &&
    (decide (f 24 4 = 0) == decide (f 28 4 = 0)) && decide (f 24 4 % 64 = 0) &&
    decide (f 32 4 % 8 = 0 ∧ 1 ≤ f 36 2 ∧ f 36 2 ≤ 4096) && apart (objSections h)

/-- The digest of the whole object, taken with its own bytes as zero. -/
def digestOf (o : List Byte) : BitVec 256 := sha256 (o.take 64 ++ List.replicate 32 0 ++ o.drop 96)

/-- Bytes 64 to 95 as the digest stands there: its first byte first. -/
def objDigest (o : List Byte) : BitVec 256 :=
  BitVec.ofNat 256 (((o.drop 64).take 32).foldl (fun a b => a * 256 + b.toNat) 0)

/-- A seam within its axis (02 R32). -/
def seamLimit (n dim : Nat) : Bool := decide (n = 0) || decide (n % 2 = 0 ∧ 2 ≤ n ∧ n + 2 ≤ dim)

/-- Shape, seams, ownership and allotments within their limits. -/
def shapeOk (h : List Byte) : Bool :=
  let f (a : Nat) : Nat := objField h a 1
  decide (f 6 % 2 = 0 ∧ 2 ≤ f 6 ∧ f 6 ≤ 48 ∧ f 7 % 2 = 0 ∧ 2 ≤ f 7 ∧ f 7 ≤ 48) && seamLimit (f 8) (f 6) &&
    seamLimit (f 9) (f 7) && decide (f 10 = 1 ∨ f 11 = 0) &&
    decide (1 ≤ f 12 ∧ f 12 ≤ 64 ∧ f 13 ≤ 32 ∧ 1 ≤ f 14 ∧ f 14 ≤ 32)

/-- The 32-bit words of a byte list. -/
def toWords : Nat → List Byte → List Word32
  | 0, _ => []
  | n + 1, bs => BitVec.ofNat 32 (leNat (bs.take 4)) :: toWords n (bs.drop 4)

/-- The code of an object. -/
def objCode (o : List Byte) : List Word32 := toWords (objField o 20 4 / 4) (o.drop (objField o 16 4))

/-! ### Safe-point records -/

def ranges (o : List Byte) (at_ n size : Nat) : List (Nat × Nat) :=
  (List.range n).map fun t => (objField o (at_ + 2 * size * t) size, objField o (at_ + 2 * size * t + size) size)

/-- Record bytes to a record. -/
def toRec (r : List Byte) : SafePt :=
  let f := objField r
  { id := BitVec.ofNat 16 (f 0 2), gauge := f 2 2 % 32768
    stub := if f 4 4 = 0xFFFF_FFFF then none else some (f 4 4)
    g := BitVec.ofNat 64 (f 8 8), k := BitVec.ofNat 8 (f 16 1), m := BitVec.ofNat 8 (f 17 1)
    p := BitVec.ofNat 16 (f 18 2), mr := BitVec.ofNat 4 (f 20 1 % 16), mc := BitVec.ofNat 4 (f 20 1 / 16)
    lc := BitVec.ofNat 4 (f 21 1 % 16), acc := BitVec.ofNat 8 (f 22 1)
    tb := BitVec.ofNat 32 (f 24 4), v := BitVec.ofNat 32 (f 28 4), j := BitVec.ofNat 16 (f 32 2)
    bs := BitVec.ofNat 64 (f 40 8)
    tmRows := ranges r 48 (f 23 1 % 32) 2
    sp := ranges r 112 (f 34 1) 4 }

/-- A record's own checks (13 R362): `stubOk` says whether its stub passes. -/
def recOk (ng nv nb : Nat) (stubOk : Nat → Bool) (r : List Byte) : Bool :=
  let f := objField r
  let x := toRec r
  decide (f 2 2 < 32768 ∧ 1 ≤ f 2 2 ∧ f 2 2 ≤ 16384) && (match x.stub with | none => true | some n => stubOk n) &&
    decide (f 21 1 < 16) && decide (f 23 1 ≤ 16) && decide (f 34 1 ≤ 32) && zeroIn r 35 5 &&
    zeroIn r (48 + 4 * f 23 1) (112 - (48 + 4 * f 23 1)) && zeroIn r (112 + 8 * f 34 1) (368 - (112 + 8 * f 34 1)) &&
    x.tmRows.all (fun t => decide (t.2 ≠ 0 ∧ t.1 + t.2 ≤ 256)) &&
    x.sp.all (fun t => decide (t.1 % 256 = 0 ∧ t.2 % 256 = 0 ∧ t.1 + t.2 ≤ 0x8000 * nb)) &&
    decide (f 8 8 < 2 ^ ng) && decide (f 28 4 < 2 ^ nv)

def recBytes (o : List Byte) (i : Nat) : List Byte := (o.drop (objField o 32 4 + 368 * i)).take 368

def distinct : List (BitVec 16) → Bool
  | [] => true
  | a :: r => !r.contains a && distinct r

/-! ### The code (13 R362, R363) -/

/-- What LOAD finds in the code: the bundle starts, where the code is refused, whether it has the matrix attribute. -/
structure CodeRead where
  starts : List Nat
  stop : Option Nat
  matrix : Bool
  deriving DecidableEq, Repr

/-- A bundle names no register outside the allocation. -/
def allocOk (ng nv : Nat) (b : Bundle) : Bool :=
  b.ops.all fun p => p.2.gregs.all (fun n => decide (n < ng)) && p.2.vregs.all fun n => decide (n < nv)

/-- Consecutive bundles from an offset on. -/
def readCode (e : DecEnv) (ng nv : Nat) : Nat → Nat → List Word32 → CodeRead
  | 0, pc, _ => ⟨[], some pc, false⟩
  | f + 1, pc, ws =>
    if ws.isEmpty then ⟨[], none, false⟩ else
    match decodeBundle e ws with
    | .error _ => ⟨[], some pc, false⟩
    | .ok b =>
      if !allocOk ng nv b then ⟨[], some pc, false⟩ else
      let r := readCode e ng nv f (pc + 4 * b.len) (ws.drop b.len)
      ⟨pc :: r.starts, r.stop, r.matrix || b.ops.any isMatrixOp⟩

/-- A stub is a bundle start, or lies at or past the refused offset. -/
def CodeRead.stubOk (c : CodeRead) (n : Nat) : Bool :=
  c.starts.contains n || (match c.stop with | some m => decide (m ≤ n) | none => false)

/-- Read an object: the pattern, or the first cause that applies (13 R362). -/
def readObject (num addr : Nat) (o : List Byte) : Except Cause Pattern :=
  let f (a : Nat) : Nat := objField o a 1
  if !headerOk o || digestOf o != objDigest o then .error 0x284
  else if objField o 4 2 ≠ 0 then .error 0x285
  else if !shapeOk o then .error 0x284
  else
    let split := decide (f 10 = 1)
    let own := BitVec.ofNat 4 (f 11)
    let code := objCode o
    let c := readCode ⟨!split, own, none⟩ (f 12) (f 13) (code.length + 1) 0 code
    let bytes := (List.range (objField o 36 2)).map (recBytes o)
    let recs := bytes.map toRec
    if !bytes.all (recOk (f 12) (f 13) (f 14) c.stubOk) || !distinct (recs.map (·.id)) then .error 0x287
    else if !recs.any (fun r => r.id = 0 && r.stub.isNone) then .error 0x287
    else if c.stop.isSome then .error 0x286
    else .ok
      { num := num, digest := objDigest o, level := BitVec.ofNat 16 (objField o 4 2), w := f 6, h := f 7
        colSeam := f 8, rowSeam := f 9, split := split, own := own, ng := f 12, nv := f 13, nb := f 14
        acc := BitVec.ofNat 8 (f 15), code := code, recs := recs, matrix := c.matrix, addr := addr, refs := [] }

/-! ### References (13 R363, R364) -/

/-- Some region of the partition still runs the pattern or may resume it. -/
def State.inUse (s : State) (part num : Nat) : Bool := s.regions.any fun g => g.launch.part = part && g.pat.num = num

/-- The pattern leaves when no queue refers to it and no region of it is left. -/
def State.unbind (s : State) (part num : Nat) : State :=
  s.modPart part fun p => { p with pats := p.pats.filter fun x => !(x.num = num && x.refs.isEmpty && !s.inUse part num) }

/-- Give a queue a reference. -/
def Part.refer (p : Part) (num q : Nat) : Part :=
  { p with pats := p.pats.map fun x => if x.num = num && !x.refs.contains q then { x with refs := q :: x.refs } else x }

/-- The bytes of resident code of a partition. -/
def Part.codeSize (p : Part) : Nat := (p.pats.map Pattern.codeLen).sum

/-- A LOAD packet: the header is read first, then the object. -/
def State.loadPacket (s : State) (p : Part) (q : Nat) (k : Packet) : Except (Cause × Nat) State := do
  let part := p.conf.num
  let num := k.field 8 2
  let addr := k.field 16 8
  let hd ← s.readV part addr 128
  let h := hd.map (·.1)
  if !headerOk h then throw (0x284, 0)
  let o ← s.readV part addr (objSize h)
  if o.any (·.2) then throw (0x284, 0)
  match readObject num addr (o.map (·.1)) with
  | .error c => throw (c, 0)
  | .ok x =>
    match p.pattern? num with
    | some y => if y.digest = x.digest then return s.setPart (p.refer num q) else throw (0x289, 0)
    | none =>
      if 196608 < p.codeSize + x.codeLen then throw (0x288, 0)
      return s.setPart { p with pats := p.pats ++ [{ x with refs := [q] }] }

/-- An UNLOAD packet. -/
def State.unloadPacket (s : State) (p : Part) (q : Nat) (k : Packet) : Except (Cause × Nat) State :=
  let num := k.field 8 2
  match p.pattern? num with
  | none => .error (0x28A, 0)
  | some x =>
    if !x.refs.contains q then .error (0x28A, 0)
    else .ok ((s.setPart { p with pats := p.pats.map fun y => if y.num = num then { y with refs := y.refs.erase q } else y }).unbind
      p.conf.num num)

end Sys2Proof.Machine
end

