-- ==== Sys2Proof/Machine/Scheduler.lean ====
section
/-! DEFINITION. The scheduler: queue registers, packets, graphs, postings, mailbox writes and requests for
pre-emption (13 R330 to R347, R353, R366; 14 R376; 18 R428). -/

namespace Sys2Proof.Machine

/-! ### Queue registers (13 R330 to R332) -/

/-- A queue that host software may drive: its partition, unless a turnover has fenced it (17 R400). -/
def State.hostQueue (s : State) (q : Nat) : Option Part :=
  (s.queuePart q).bind fun p => if p.fenced || !(s.dev.stage == .up) then none else some p

/-- A write to qc.wr is accepted (13 R332). -/
def Queue.accepts (u : Queue) (w : Nat) : Bool := decide (w % 8 = 0 ∧ u.wr ≤ w ∧ w ≤ u.rd + u.size)

/-- QUEUE_DOORBELL: a write to qc.wr. One to a device-fed queue, or to no queue of the function, is ignored. -/
def execQueueDoorbell (q : Nat) (w : Word) (s : State) : Out :=
  match s.hostQueue q with
  | none => .next s
  | some p =>
    let u := s.queue q
    if u.deviceFed then .next s
    else if u.accepts w.toNat then .next (s.modQueue q fun u => { u with wr := w.toNat })
    else .next (s.queueCause p.conf.num q 0x28E 0)

/-- The fields of qc.ctl that a write stores; Enable stays clear where the ring size or the weight is out of range. -/
def Queue.setCtl (u : Queue) (v : Word) : Queue :=
  let w := (v &&& 0xFF1F75) ||| (u.ctl &&& 2)
  let n : Queue := { u with ctl := w }
  if n.enabled && (decide (n.logSize < 12 ∨ 24 < n.logSize) || decide (n.weight = 0)) then { u with ctl := w &&& ~~~1#64 } else n

/-- What has begun goes on although the queue is stopped: a refused doorbell and the causes of a dual run stop only the
packets after it (13 R332; 20 R456). -/
def Queue.goesOn (u : Queue) : Bool :=
  !u.stopped || decide (u.cause = 0x28E ∨ (0x385 ≤ u.cause ∧ u.cause ≤ 0x388))

/-- A restart keeps what goes on or is repeated; any other stopped packet is read again (13 R330, R366; 18 R428). -/
def Queue.restart (u : Queue) : Queue :=
  let keep := u.head == .running || u.goesOn || decide (u.cause = 0x101 ∨ u.cause = 0x103)
  let u : Queue := { u.setStopped false with parked := false }
  if keep then u else { u with head := .idle, graph := none }

/-- The launches of a graph that will be read again are no longer its nodes. -/
def State.orphan (s : State) (q : Nat) : State :=
  let lose (g : Region) : Region :=
    if g.launch.queue = q ∧ g.launch.node.isSome then { g with launch := { g.launch with node := some 65535 } } else g
  { s with regions := s.regions.map lose }

/-- Restart a stopped queue. -/
def State.restartQueue (s : State) (q : Nat) : State :=
  let u := s.queue q
  if !u.stopped then s else
  let s' := s.modQueue q Queue.restart
  if u.graph.isSome && (s'.queue q).graph.isNone then s'.orphan q else s'

/-- QUEUE_ENABLE: a write to qc.ctl; a 1 in Stopped also restarts the queue. -/
def execQueueEnable (q : Nat) (v : Word) (s : State) : Out :=
  match s.hostQueue q with
  | none => .next s
  | some _ =>
    let s := s.modQueue q fun u => u.setCtl v
    .next (if v.getLsbD 1 then s.restartQueue q else s)

/-- QUEUE_RESTART: a write of 1 to Stopped. -/
def execQueueRestart (q : Nat) (s : State) : Out :=
  match s.hostQueue q with
  | none => .next s
  | some _ => .next (s.restartQueue q)

/-! ### Packets (13 R333 to R340) -/

/-- What a packet comes to: a new state, or a cause with its address. -/
abbrev PktRun := Except (Cause × Nat) State

/-- A packet of `n` bytes is finished. -/
def State.finishPacket (s : State) (q n : Nat) : State :=
  s.modQueue q fun u => { u with rd := u.rd + n, head := .idle, graph := none }

/-- The header at the read index, if it can be read. -/
def State.headHeader (s : State) (p : Part) (q : Nat) : Option Nat :=
  match s.readV p.conf.num (s.queue q).addr 8 with
  | .ok hd => some (leNat (hd.map (·.1)))
  | .error _ => none

/-- The kind of the packet at the read index; one of no known kind, or unreadable, is met as a PAD. -/
def State.headKind (s : State) (p : Part) (q : Nat) : PktKind :=
  ((s.headHeader p q).bind fun h => PktKind.ofCode (h % 256)).getD .pad

/-- A queue begins its next packet: enabled, not stopped, nothing under way (13 R333). -/
def Queue.begins (u : Queue) : Bool := u.enabled && !u.stopped && u.head == .idle

/-- The end of a packet's run: its cause stops the queue. -/
def State.ended (s : State) (p : Part) (q : Nat) : PktRun → State
  | .ok s' => s'
  | .error (c, va) => s.queueCause p.conf.num q c va

/-- Handle the next packet of a queue, of one kind and with a header that the event is for. -/
def packetEvent (name : String) (kind : PktKind) (mine : Nat → Bool) (q : Nat) (s : State)
    (f : Part → Packet → PktRun) : Out :=
  match s.queuePart q with
  | none => .refused (.notDue name)
  | some p =>
    if p.fenced || !(s.queue q).begins || s.headKind p q != kind || !mine ((s.headHeader p q).getD 0) then
      .refused (.notDue name)
    else
      match s.headPacket q with
      | .none => .refused (.notDue name)
      | .pkt k => .next (s.ended p q (f p k))
      | .bad c va => .next (s.queueCause p.conf.num q c va)

def anyHeader : Nat → Bool := fun _ => true

/-- PAD: reading resumes at ring position 0. -/
def execPad (q : Nat) (s : State) : Out :=
  packetEvent "PAD" .pad anyHeader q s fun _ _ =>
    .ok (s.modQueue q fun u => { u with rd := (u.rd / u.size + 1) * u.size, head := .idle })

/-- Bit 49 of a LAUNCH header: a dual run. -/
def Packet.dual (k : Packet) : Bool := decide (bitsOf k.header 49 49 = 1)

/-- Why a LAUNCH is refused: its reference, its shape and mode, or no placement at all (13 R336, R351). -/
def State.launchRefused (s : State) (p : Part) (q : Nat) (k : Packet) : Option Cause :=
  match launchCause p q k with
  | some c => some c
  | none =>
    match p.pattern? (k.field 8 2) with
    | some x => if s.neverPlaceable p x k.dual then some 0x28C else none
    | none => none

/-- A saved region that may resume (13 R348; 18 R417, R424): not parked, its placement to be found. -/
def Region.resumes (g : Region) : Bool := g.status = .saved && g.park.isNone && !g.finalDone

/-- A waiting region of the queue that can no longer be placed (13 R351; 20 R459). -/
def State.stuck (s : State) (p : Part) (q : Nat) : Bool :=
  s.regions.any fun g => g.launch.part = p.conf.num && g.launch.queue = q && g.resumes && s.neverPlaceable p g.pat false

/-- The region that waits for the handler of a forward queue. -/
def State.waitsFor (s : State) (q : Nat) : Option Region :=
  s.regions.find? fun g => match g.handler with | some h => h.queue = q && h.region.isNone | none => false

/-- A forward queue's LAUNCH cannot be placed: the interrupted launch is killed with its own cause. -/
def State.loseHandler (s : State) (q : Nat) : State :=
  match s.waitsFor q with
  | some g =>
    match g.status with
    | .interrupted ra | .saving (some ra) => s.endRegion g ra.cause
    | _ => s
  | none => s

/-- LAUNCH: the packet becomes a candidate, or its cause stops the queue. A candidate, or a region that waits to
resume, that has no placement any more stops the queue too. -/
def execLaunch (q : Nat) (s : State) : Out :=
  match s.queuePart q with
  | none => .refused (.notDue "LAUNCH")
  | some p =>
    let u := s.queue q
    let k : Packet := ⟨.launch, u.pkt⟩
    if u.head == .launch && !u.stopped && s.launchRefused p q k == some 0x28C then
      let s := s.modQueue q fun u => { u with head := .idle, fwdFor := none }
      .next ((s.loseHandler q).queueCause p.conf.num q 0x28C 0)
    else if u.head != .idle && u.head != .launch && !u.stopped && s.stuck p q then .next (s.queueCause p.conf.num q 0x28C 0)
    else
      packetEvent "LAUNCH" .launch anyHeader q s fun p k =>
        match s.launchRefused p q k with
        | some c => .error (c, 0)
        | none => .ok (s.modQueue q fun u => { u with head := .launch, pkt := k.bytes, fwdFor := none })

/-- WAIT begins. -/
def execWait (q : Nat) (s : State) : Out :=
  packetEvent "WAIT" .wait anyHeader q s fun p k =>
    match s.codeCause p k with
    | some c => .error (c, 0)
    | none => .ok (s.modQueue q fun u => { u with head := .wait, pkt := k.bytes })

/-- A WAIT packet's condition, read now (13 R338). -/
def State.condition (s : State) (p : Part) (k : Packet) : Except (Cause × Nat) Bool := do
  let v := k.field 16 8
  let a := k.field 8 8
  match bitsOf k.header 35 32 with
  | 0 => return decide (v ≤ (s.queue (bitsOf k.header 47 40)).tl.toNat)
  | 4 =>
    let bs ← s.readV p.conf.num a 32
    let d : List Byte := bs.map (·.1)
    return (d.getD 8 0).getLsbD 0
  | c =>
    let bs ← s.readV p.conf.num a 8
    let w := leNat (bs.map (·.1))
    return if c = 1 then decide (v ≤ w) else if c = 2 then w == v else w != v

/-- A SIGNAL packet's action (13 R339). -/
def State.signal (s : State) (p : Part) (k : Packet) : PktRun :=
  let part := p.conf.num
  let v := k.field 16 8
  let a := k.field 8 8
  match s.codeCause p k, bitsOf k.header 35 32 with
  | some c, _ => .error (c, 0)
  | none, 0 => .ok (s.modQueue (bitsOf k.header 47 40) fun u => { u with tl := u.tl + BitVec.ofNat 64 v })
  | none, 1 =>
    match s.writeV part a (clean (leBytes 8 v)) with
    | (s, none) => .ok s
    | (_, some e) => .error e
  | none, 2 => do
    let bs ← s.readV part a 8
    let old := leNat (bs.map (·.1))
    match s.writeV part a (clean (leBytes 8 ((old + v) % 2 ^ 64))) with
    | (s, none) => return s
    | (_, some e) => throw e
  | none, _ => s.postAt part a ⟨v % 2 ^ 32, 0, none, none⟩

/-- Which SIGNAL event a header belongs to: its action; reserved ones to the first. -/
def signalIs (n h : Nat) : Bool := let c := bitsOf h 35 32; if 3 < c then n = 0 else c = n

def signalEvent (name : String) (n q : Nat) (s : State) : Out :=
  packetEvent name .signal (signalIs n) q s fun p k =>
    let s := if n = 0 then s else s.tellRange p.conf.num (k.field 8 8) 8 (s.queue q).ord.toNat 0
    (s.signal p k).map fun s => s.finishPacket q 32

/-- SIGNAL_TIMELINE. -/
def execSignalTimeline (q : Nat) (s : State) : Out := signalEvent "SIGNAL_TIMELINE" 0 q s

/-- SIGNAL_STORE. -/
def execSignalStore (q : Nat) (s : State) : Out := signalEvent "SIGNAL_STORE" 1 q s

/-- SIGNAL_ADD. -/
def execSignalAdd (q : Nat) (s : State) : Out := signalEvent "SIGNAL_ADD" 2 q s

/-- SIGNAL_POST. -/
def execSignalPost (q : Nat) (s : State) : Out := signalEvent "SIGNAL_POST" 3 q s

/-- LOAD. -/
def execLoad (q : Nat) (s : State) : Out :=
  packetEvent "LOAD" .load anyHeader q s fun p k => (s.loadPacket p q k).map fun s => s.finishPacket q 32

/-- UNLOAD. -/
def execUnload (q : Nat) (s : State) : Out :=
  packetEvent "UNLOAD" .unload anyHeader q s fun p k => (s.unloadPacket p q k).map fun s => s.finishPacket q 16

/-! ### Graphs (13 R344 to R347) -/

/-- A node's 64 bytes. -/
def toNode (b : List Byte) : Node :=
  let f (a n : Nat) : Nat := leNat ((b.drop a).take n)
  { kind := f 0 1, preds := f 2 2, x := f 8 8, y := f 16 8, count := f 24 2, b0 := f 26 2, b1 := f 28 2
    succ := (List.range 8).map fun i => f (32 + 2 * i) 2, left := f 2 2, st := .idle, iter := 0, pkt := [] }

/-- The reserved bytes of a node, and the fields that its kind leaves zero (13 R344). -/
def nodeFieldsOk (b : List Byte) : Bool :=
  let z (a n : Nat) : Bool := ((b.drop a).take n).all fun x => x = 0
  let n := toNode b
  let none6 := decide (n.b0 = 0 ∧ n.b1 = 0)
  z 1 1 && z 4 4 && z 30 2 && z 48 16 &&
    (match n.kind with
     | 0 => decide (n.x = 0 ∧ n.y = 0 ∧ n.count = 0) && none6
     | 1 | 2 | 3 | 4 => decide (n.x % 8 = 0 ∧ n.y = 0 ∧ n.count = 0) && none6
     | 5 => decide (n.x % 8 = 0 ∧ n.y % 2 = 0 ∧ 1 ≤ n.count ∧ n.count ≤ 256) && none6 && (n.succ.drop 1).all fun x => x = 0xFFFF
     | 6 => decide (n.x % 8 = 0 ∧ 1 ≤ n.y ∧ n.y < 2 ^ 32 ∧ n.count = 0)
     | _ => false)

/-- The loops of a graph: node, first and last body node. -/
def graphLoops (ns : List Node) : List (Nat × Nat × Nat) :=
  (ns.zipIdx).filterMap fun (n, i) => if n.kind = 6 then some (i, n.b0, n.b1) else none

def inBody (i : Nat) (b : Nat × Nat × Nat) : Bool := decide (b.2.1 ≤ i ∧ i ≤ b.2.2)

def insideOf (a b : Nat × Nat × Nat) : Bool := decide (b.2.1 ≤ a.2.1 ∧ a.2.2 ≤ b.2.2)

/-- The structure of a graph (13 R345). -/
def graphOk (ns : List Node) : Bool :=
  let ls := graphLoops ns
  let nest (a b : Nat × Nat × Nat) : Bool := insideOf a b || insideOf b a || decide (a.2.2 < b.2.1 ∨ b.2.2 < a.2.1)
  ls.all (fun b => decide (b.2.1 ≤ b.2.2 ∧ b.2.2 < ns.length) && !inBody b.1 b && ls.all (nest b)) &&
    (ns.zipIdx).all fun (n, i) =>
      n.succ.all fun t => t = 0xFFFF || (decide (t < ns.length) && ls.all fun b => inBody i b == inBody t b)

/-- The graph of a GRAPH packet, or its cause. -/
def State.readGraph (s : State) (p : Part) (k : Packet) : Except (Cause × Nat) GraphRun := do
  let bs ← s.readV p.conf.num (k.field 8 8) (64 * k.field 16 2)
  let chunks := (List.range (k.field 16 2)).map fun i => ((bs.map (·.1)).drop (64 * i)).take 64
  let ns := chunks.map toNode
  if !chunks.all nodeFieldsOk || !graphOk ns then throw (0x28D, 0)
  let ls := graphLoops ns
  let start (n : Node) (i : Nat) : Node :=
    if n.preds = 0 ∧ !ls.any (inBody i) then { n with st := .runnable } else n
  return ⟨k.field 24 8, (ns.zipIdx).map fun (n, i) => start n i⟩

/-- A predecessor of node t has finished; the node may become runnable. -/
def releaseOne (ns : List Node) (t : Nat) : List Node :=
  ns.modify t fun n =>
    let n : Node := { n with left := n.left - 1 }
    if n.left = 0 then { n with st := .runnable, iter := 0 } else n

/-- Node i finishes and releases these nodes. -/
def finishNode (ns : List Node) (i : Nat) (rs : List Nat) : List Node :=
  (rs.filter fun t => t ≠ 0xFFFF).foldl releaseOne (ns.modify i fun n => { n with st := .idle })

/-- No node of a range runs or is runnable. -/
def quietIn (ns : List Node) (p : Nat → Bool) : Bool := (ns.zipIdx).all fun (n, i) => !p i || n.st == .idle

/-- A loop whose iteration has ended runs again. -/
def settleLoops (ns : List Node) : List Node :=
  (ns.zipIdx).map fun (n, i) =>
    if n.kind = 6 && n.st == .running && quietIn ns (fun j => inBody j (i, n.b0, n.b1)) then { n with st := .runnable } else n

/-- Another iteration of loop i: its body's counts are set again; a loop that becomes runnable there starts at 0. -/
def iterate (ns : List Node) (i : Nat) (l : Node) : List Node :=
  let ls := graphLoops ns
  let me := (i, l.b0, l.b1)
  (ns.zipIdx).map fun (n, j) =>
    if j = i then { n with st := .running, iter := n.iter + 1 }
    else if inBody j me then
      let direct := !ls.any fun b => b.1 ≠ i && insideOf b me && inBody j b
      if n.preds = 0 && direct then { n with left := n.preds, st := .runnable, iter := 0 } else { n with left := n.preds }
    else n

def Queue.setNodes (u : Queue) (f : List Node → List Node) : Queue :=
  { u with graph := u.graph.map fun r => { r with nodes := f r.nodes } }

/-- A graph with no node running or runnable finishes: it posts 1 (13 R347). -/
def State.finishGraph (s : State) (part q : Nat) : State :=
  match (s.queue q).graph with
  | none => s
  | some r =>
    if !quietIn r.nodes (fun _ => true) then s else
    match s.post part r.desc ⟨1, 0, none, none⟩ with
    | .ok s => s.finishPacket q 32
    | .error (c, va) => s.queueCause part q c va

/-- After a change of a graph's nodes. -/
def State.settleGraph (s : State) (part q : Nat) : State := (s.modQueue q fun u => u.setNodes settleLoops).finishGraph part q

/-- GRAPH: every node is checked and the runnable ones are ready; the posting of a finished graph that its queue was
parked for is repeated. -/
def execGraph (q : Nat) (s : State) : Out :=
  let u := s.queue q
  match s.queuePart q, u.graph with
  | some p, some r =>
    if u.head == .graph && !u.stopped && quietIn r.nodes (fun _ => true) then .next (s.finishGraph p.conf.num q)
    else .refused (.notDue "GRAPH")
  | _, _ =>
    packetEvent "GRAPH" .graph anyHeader q s fun p k =>
      (s.readGraph p k).map fun r =>
        (s.modQueue q fun u => { u with head := .graph, graph := some r, pkt := k.bytes }).settleGraph p.conf.num q

/-- The successors a conditional, a switch or a loop that ends releases (13 R346). -/
def State.select (s : State) (p : Part) (ns : List Node) (n : Node) (v : Nat) : Except (Cause × Nat) (List Nat) :=
  match n.kind with
  | 4 => .ok (if v ≠ 0 then n.succ.take 4 else n.succ.drop 4)
  | 5 =>
    if v < n.count then do
      let bs ← s.readV p.conf.num (n.y + 2 * v) 2
      let t := leNat (bs.map (·.1))
      if ns.length ≤ t then throw (0x28D, 0) else return [t]
    else .ok (n.succ.take 1)
  | _ => .ok n.succ

/-- The packet of a node (13 R345). -/
def State.nodePacket (s : State) (p : Part) (n : Node) (k : PktKind) : Except (Cause × Nat) Packet :=
  match s.packetAt p.conf.num n.x with
  | .pkt x => if x.kind = k then .ok x else .error (0x281, 0)
  | .bad c va => .error (c, va)
  | .none => .error (0x281, 0)

/-- Run a runnable node. -/
def State.runNode (s : State) (p : Part) (q i : Nat) (ns : List Node) (n : Node) : PktRun :=
  let set (s : State) (f : List Node → List Node) : State := (s.modQueue q fun u => u.setNodes f).settleGraph p.conf.num q
  let begin_ (k : Packet) : State :=
    set s fun ns => ns.modify i fun n => { n with st := .running, pkt := k.bytes }
  match n.kind with
  | 0 => .ok (set s fun ns => finishNode ns i n.succ)
  | 1 => do
    let k ← s.nodePacket p n .launch
    match s.launchRefused p q k with
    | some c => throw (c, 0)
    | none => return begin_ k
  | 2 => do
    let k ← s.nodePacket p n .wait
    match s.codeCause p k with
    | some c => throw (c, 0)
    | none => return begin_ k
  | 3 => do
    let k ← s.nodePacket p n .signal
    let s ← s.signal p k
    return set s fun ns => finishNode ns i n.succ
  | 6 => do
    let bs ← s.readV p.conf.num n.x 8
    let v := leNat (bs.map (·.1))
    if v ≠ 0 ∧ n.iter < n.y then return set s fun ns => iterate ns i n
    else return set s fun ns => finishNode ns i n.succ
  | _ => do
    let bs ← s.readV p.conf.num n.x 8
    let v := leNat (bs.map (·.1))
    let rs ← s.select p ns n v
    return set s fun ns => finishNode ns i rs

/-- Whether the launch of a node stands somewhere. -/
def State.nodePlaced (s : State) (q i : Nat) : Bool := s.regions.any fun g => g.launch.queue = q && g.launch.node == some i

/-- GRAPH_NODE_RUN: a runnable node runs; a launch node that has no placement any more raises 0x28C. -/
def execGraphNodeRun (q n : Nat) (s : State) : Out :=
  let u := s.queue q
  match s.queuePart q, u.graph.bind fun r => r.nodes[n]?.map fun x => (r.nodes, x) with
  | some p, some (ns, x) =>
    if p.fenced || u.head != .graph || !u.goesOn then .refused (.notDue "GRAPH_NODE_RUN")
    else if x.st == .runnable then .next (s.ended p q (s.runNode p q n ns x))
    else if x.st == .running && x.kind = 1 && !s.nodePlaced q n && s.launchRefused p q ⟨.launch, x.pkt⟩ == some 0x28C then
      .next (s.queueCause p.conf.num q 0x28C 0)
    else .refused (.notDue "GRAPH_NODE_RUN")
  | _, _ => .refused (.notDue "GRAPH_NODE_RUN")

/-- WAIT_SATISFIED: the condition of a queue's WAIT, or of a wait node, is observed true, or its read raises a cause. -/
def execWaitSatisfied (q : Nat) (node : Option Nat) (s : State) : Out :=
  let u := s.queue q
  let no : Out := .refused (.notDue "WAIT_SATISFIED")
  match s.queuePart q with
  | none => no
  | some p =>
    if p.fenced || !u.goesOn then no else
    match node with
    | none =>
      if u.head != .wait then no else
      match s.condition p ⟨.wait, u.pkt⟩ with
      | .ok true => .next (s.finishPacket q 32)
      | .ok false => no
      | .error (c, va) => .next (s.queueCause p.conf.num q c va)
    | some i =>
      match u.graph.bind fun r => r.nodes[i]? with
      | none => no
      | some n =>
        if u.head != .graph || n.kind ≠ 2 || n.st != .running then no else
        match s.condition p ⟨.wait, n.pkt⟩ with
        | .ok true => .next ((s.modQueue q fun u => u.setNodes fun ns => finishNode ns i n.succ).settleGraph p.conf.num q)
        | .ok false => no
        | .error (c, va) => .next (s.queueCause p.conf.num q c va)

/-! ### Postings (13 R343, R357 to R359; 05 R134; 18 R416, R424; 20 R456) -/

/-- Nothing of the region is outstanding outside. -/
def Region.quiet (g : Region) : Bool := g.items.isEmpty && g.cmds.isEmpty

def Region.ended (g : Region) : Bool :=
  match g.status with
  | .final | .killed _ => true
  | _ => false

/-- A launch may post: it has ended, all it released is performed and counted, a dual run has its verdict. -/
def State.mayPost (s : State) (g : Region) : Bool :=
  (g.role == .single || g.role == .primary) && g.ended && (s.regions.all fun x => !sameLaunch x g || x.quiet) &&
    (g.failed.isSome || g.role == .single || g.verdict == .agreed)

/-- The commit signature (13 R358). -/
def Region.signature (g : Region) : List Byte := sha128 (g.records.flatMap (·.2))

/-- What a launch posts. -/
def Region.posting (g : Region) : Posting where
  amount := 1
  flags := g.paths.toNat * 4 + (if g.verdict == .agreed && g.failed.isNone then 16 else 0)
  sig := some g.signature
  failed := g.failed

/-- Every instance of a launch leaves the device, with its reservations and its records' requesters; its pattern may
leave with it. What its final commit left on its tiles stands until they are used again (15 R384, R387). -/
def State.dropLaunch (s : State) (g : Region) : State :=
  let mine := s.regions.filter fun x => sameLaunch x g
  let s := mine.foldl (fun s x => (s.leaveReqs g.launch.part (Asker.ofRegion x.rid)).dropReqs x x.awaits) s
  let s := { s with
    left := s.left ++ (if g.status = Status.final then [g] else [])
    regions := s.regions.filter fun x => !sameLaunch x g
    reserved := s.reserved.filter fun x => !mine.any fun y => y.rid = x.2.1 }
  s.unbind g.launch.part g.pat.num

/-- A handler has posted: the disposition of the launch it handles is due. -/
def State.tellInterrupted (s : State) (g : Region) : State :=
  match g.handler.bind (·.region) with
  | none => s
  | some r => s.modRegion r fun x => { x with handler := x.handler.map fun h => { h with region := some g.rid } }

/-- The packet, or the node, of a launch that has posted is finished. -/
def State.finishLaunch (s : State) (g : Region) : State :=
  let q := g.launch.queue
  match g.launch.node with
  | none => s.finishPacket q 416
  | some n => (s.modQueue q fun u => u.setNodes fun ns => finishNode ns n ((ns[n]?.map (·.succ)).getD [])).settleGraph g.launch.part q

/-- A cause that a dual run raises against the launch's queue once it has posted (20 R456). -/
def dualCause (c : Option Cause) : Option Cause := c.filter fun x => decide (0x385 ≤ x ∧ x ≤ 0x388)

/-- A posting waits for a page or a replay: its queue is parked, and no turnover has made an end of it. -/
def State.postWaits (s : State) (g : Region) : Bool :=
  let u := s.queue g.launch.queue
  u.stopped && decide (u.cause = 0x101 ∨ u.cause = 0x103) &&
    !(s.parts.any fun p => p.conf.num = g.launch.part && p.fenced)

/-- A launch's posting has been made: the launch leaves, its packet or node is finished, a cause of its dual run stops the
queue after it. -/
def State.posted (s : State) (g : Region) : State :=
  let s := (((s.tellInterrupted g).dropLaunch g).finishLaunch g).modQueue g.launch.queue fun u => { u with fwdFor := none }
  match dualCause g.failed with
  | some c => s.launchCauseAt g c 0
  | none => s

/-- A posting is refused: the launch leaves and never posts; its queue stops at its packet. A tenant that is leaving has no
queue any more (17 R400). -/
def State.postRefused (s : State) (g : Region) (c : Cause) (va : Nat) : State :=
  let s1 := s.dropLaunch g
  if s.parts.any fun p => p.conf.num = g.launch.part && p.fenced then s1 else
  let s1 := s1.launchCauseAt g c va
  if g.launch.node.isNone then s1.modQueue g.launch.queue fun u => { u with head := .idle } else s1

/-- LAUNCH_COMPLETION_POST. A posting whose page is missing parks the queue and is repeated; one that is refused stops
the queue at its packet, and the launch never posts. -/
def execLaunchCompletionPost (r : Nat) (s : State) : Out :=
  regionEvent "LAUNCH_COMPLETION_POST" r s fun g =>
    let part := g.launch.part
    if !s.mayPost g || s.postWaits g then none else
    let s := if g.launch.desc = 0 then s else s.tellRange part g.launch.desc 32 g.launch.ordinal.toNat 0
    let leaving := s.parts.any fun p => p.conf.num = part && p.fenced
    match s.post part g.launch.desc g.posting with
    | .ok s1 => some (s1.posted g)
    | .error (c, va) =>
      if (c = 0x101 ∨ c = 0x103) && !leaving then some (s.launchCauseAt g c va) else some (s.postRefused g c va)

/-- A refused page answer reaches a posting: the launch never posts (13 R366). -/
def State.refusePostings (s : State) (q va : Nat) : State :=
  let hit (g : Region) : Bool :=
    g.launch.queue = q && g.launch.desc / 65536 = va / 65536 && g.launch.desc ≠ 0 && s.mayPost g
  let s1 := (s.regions.filter hit).foldl (fun s g => s.dropLaunch g) s
  if s.regions.any fun g => hit g && g.launch.node.isNone then s1.modQueue q fun u => { u with head := .idle } else s1

/-! ### Mailbox writes and pre-emption (03 R69; 13 R353; 14 R376; 18 R417) -/

/-- Where the save area holds mailbox n of tile t. -/
def savedMail (sv : Saved) (t n : Nat) : Nat := sv.pos + 320 + 2560 * t + 256 + 8 * n

/-- A mailbox write that meets a saved launch goes to its tile blocks. -/
def State.mailSaved (s : State) (g : Region) (n : BitVec 4) (v : Word) : State :=
  let s := s.setRegion (g.setMail n v)
  match g.saved, s.part? g.launch.part with
  | some sv, some p =>
    let put (m : Mem) (t : Nat) : Mem := writeLocal 9 m p.groups (savedMail sv t n.toNat) (clean (leBytes 8 v.toNat))
    { s with hbm := (List.range g.tiles.length).foldl put s.hbm }
  | _, _ => s

/-- One region's part of a mailbox write. -/
def State.mailTo (s : State) (g : Region) (n : BitVec 4) (v : Word) : State :=
  match g.status with
  | .running | .saving _ | .parked _ =>
    s.setRegion { g with mailPend := (g.mailPend.filter fun p => p.1 ≠ n) ++ [(n, v)] }
  | .saved | .interrupted _ => s.mailSaved g n v
  | _ => s

/-- MAILBOX_WRITE: to the placed or pre-empted launches of the queue; otherwise discarded. -/
def execMailboxWrite (q : Nat) (n : BitVec 4) (v : Word) (s : State) : Out :=
  match s.hostQueue q with
  | none => .next s
  | some _ => .next ((s.regions.filter fun g => g.launch.queue = q).foldl (fun s g => s.mailTo g n v) s)

/-- Request the pre-emption of a region: at its next commit, or at once where it is parked. Nothing else converts a parked
region (18 R417, Assumption 61). -/
def State.requestPreempt (s : State) (r : Nat) : State :=
  match s.region? r with
  | none => s
  | some g =>
    match g.status with
    | .running => s.setRegion { g with preempt := true }
    | .parked _ => s.startSave r none
    | _ => s

/-- PREEMPT_ALL: a write of 1 to pc.ctl [1]. -/
def execPreemptAll (part : Nat) (s : State) : Out :=
  match s.part? part with
  | none => .next s
  | some p =>
    if p.fenced then .next s else
    let s := s.setPart { p with ctl := p.ctl ||| 2 }
    .next ((s.regions.filter fun g => g.launch.part = part).foldl (fun s g => s.requestPreempt g.rid) s)

/-- Pre-empt all reads 1 until every region asked is saved. -/
def State.preemptDone (s : State) : State :=
  let saving (g : Region) : Bool := match g.status with | .saving _ => true | _ => false
  let waits (p : Part) : Bool := s.regions.any fun g => g.launch.part = p.conf.num && (g.preempt || saving g)
  let clear (p : Part) : Part := if p.ctl.getLsbD 1 && !waits p then { p with ctl := p.ctl &&& ~~~2#64 } else p
  { s with parts := s.parts.map clear }

end Sys2Proof.Machine
end

