-- ==== Sys2Proof/Machine/Placement.lean ====
section
/-! DEFINITION. The region manager: candidates, arbitration, placement, requests for pre-emption, resumption, context
banks, lent quads; dual runs and handlers after their ends (03 R71 to R76, R92; 13 R337, R348 to R359; 14 R371 to
R373; 18 R417, R419, R424 to R427; 20 R455 to R457). -/

namespace Sys2Proof.Machine

/-! ### Candidates (13 R348; 18 R424; 20 R455, R456) -/

/-- A candidate: what it is (a region that waits to resume has no `ref`), its region, its queue and level, and
what its placement must satisfy. -/
structure Cand where
  ref : Option CandRef
  rid : Nat
  queue : Nat
  level : Nat
  pat : Pattern
  dual : Bool
  avoid : List Nat
  pkt : Packet
  deriving DecidableEq, Repr

/-- The candidate that a LAUNCH packet of a queue is. -/
def Part.newCand (p : Part) (q : Nat) (u : Queue) (ref : CandRef) (k : Packet) : Option Cand :=
  (p.pattern? (k.field 8 2)).map fun x => ⟨some ref, 0, q, launchLevel u k, x, k.dual, [], k⟩

/-- The head LAUNCH of a queue: of an enabled, unstopped queue, or a handler. -/
def State.headCand (s : State) (p : Part) (q : Nat) : List Cand :=
  let u := s.queue q
  if u.head != .launch || u.stopped then [] else
  let k : Packet := ⟨.launch, u.pkt⟩
  match s.waitsFor q with
  | some g =>
    match g.status with
    | .interrupted _ => (p.newCand q u (.handler g.rid) k).toList
    | _ => []
  | none => if u.enabled || u.fwdFor.isSome then (p.newCand q u (.head q) k).toList else []

/-- The runnable launch nodes of a queue's graph, ascending. -/
def State.nodeCands (s : State) (p : Part) (q : Nat) : List Cand :=
  let u := s.queue q
  match u.graph with
  | none => []
  | some r =>
    if u.head != .graph || !u.goesOn then [] else
    (r.nodes.zipIdx).filterMap fun (n, i) =>
      if n.kind = 1 && n.st == .running && !s.nodePlaced q i then p.newCand q u (.node q i) ⟨.launch, n.pkt⟩ else none

/-- A primary's third run, or its re-run, still to be placed. -/
def State.voteCand (s : State) (g : Region) : Option Cand :=
  let there (o : Role) : Bool := s.regions.any fun x => sameLaunch x g && x.role = o
  let mk (c : CandRef) (avoid : List Nat) : Cand :=
    ⟨some c, g.rid, g.launch.queue, g.launch.level, g.pat, false, avoid, ⟨.launch, []⟩⟩
  let suspects := (s.dev.scores.filter fun x => 8 ≤ x.2).map (·.1)
  if g.role != .primary then none
  else if g.verdict == .third && !there .third then some (mk (.third g.rid) g.avoid)
  else if g.verdict == .rerun && !there .rerun then some (mk (.rerun g.rid) (g.avoid ++ suspects))
  else none

/-- A region that waits to resume. -/
def Region.resumeCand (g : Region) : Option Cand :=
  if g.resumes then some ⟨none, g.rid, g.launch.queue, g.launch.level, g.pat, false, [], ⟨.launch, []⟩⟩ else none

/-- The candidates of a partition, each queue's in its own order. -/
def State.cands (s : State) (p : Part) : List Cand :=
  let mine := s.regions.filter fun g => g.launch.part = p.conf.num
  mine.filterMap Region.resumeCand ++ mine.filterMap s.voteCand ++
    p.conf.queues.flatMap fun q => s.headCand p q ++ s.nodeCands p q

/-! ### Arbitration (13 R349, R350) -/

/-- How often each queue adds its share until one has a positive deficit. -/
def refillTurns (l : List (Int × Nat)) : Nat :=
  if l.any fun x => 0 < x.1 then 0 else
  let ns := (l.filter fun x => x.2 ≠ 0).map fun x => (-x.1).toNat / (x.2 * 65536) + 1
  match ns with
  | [] => 0
  | a :: r => r.foldl min a

/-- The queues of a level, ascending, with no repeats. -/
def candQueues (cs : List Cand) : List Nat := (List.range 256).filter fun q => cs.any fun c => c.queue = q

/-- Give the queues of a level their shares. -/
def State.refill (s : State) (qs : List Nat) : State :=
  let k := refillTurns (qs.map fun q => ((s.queue q).deficit, (s.queue q).weight))
  qs.foldl (fun s q => s.modQueue q fun u => { u with deficit := u.deficit + (k * (u.weight * 65536) : Nat) }) s

/-- The queue last served at a level, if any. -/
def State.lastServed (s : State) (part level : Nat) : Option Nat :=
  (s.served.find? fun x => x.1 = part && x.2.1 = level).map (·.2.2)

def State.serve (s : State) (part level q : Nat) : State :=
  { s with served := (part, level, q) :: s.served.filter fun x => !(x.1 = part && x.2.1 = level) }

/-- The order in which the candidates of a level are offered placement, after the shares are given. -/
def State.offers (s : State) (part level : Nat) (cs : List Cand) : List Cand :=
  let qs := candQueues cs
  let pos := qs.filter fun q => 0 < (s.queue q).deficit
  let qs := if pos.isEmpty then qs else pos
  let qs := match s.lastServed part level with
    | some l => (qs.filter fun q => l < q) ++ qs.filter fun q => q ≤ l
    | none => qs
  qs.flatMap fun q => cs.filter fun c => c.queue = q

def topLevel (cs : List Cand) : Nat := cs.foldl (fun m c => max m c.level) 0

/-- A quad that the candidate may take now. -/
def State.takes (s : State) (p : Part) (c : Cand) (q : Nat) : Bool := s.freeFor p q && !c.avoid.contains q

/-- The candidate could be placed now. -/
def State.fitsNow (s : State) (p : Part) (c : Cand) : Bool := c.pat.placeable c.dual (s.takes p c)

/-- The chosen placement, or pair of placements, is one of those. -/
def State.legalPlace (s : State) (p : Part) (c : Cand) (pl : Place) (p2 : Option Place) : Bool :=
  let ok (x : Place) : Bool := c.pat.fits x && (c.pat.quadsAt x).all (s.takes p c)
  match p2 with
  | none => !c.dual && ok pl
  | some y => c.dual && ok pl && ok y && disjointQuads (c.pat.quadsAt pl) (c.pat.quadsAt y)

/-- The order of victims: lower levels first, within a level the latest placed first. -/
def insertVictim (g : Region) : List Region → List Region
  | [] => [g]
  | x :: r =>
    if g.launch.level < x.launch.level ∨ (g.launch.level = x.launch.level ∧ x.placedAt < g.placedAt) then g :: x :: r
    else x :: insertVictim g r

/-- The shortest run of victims whose quads, with the free ones, admit a placement; none where even all do not. -/
def enough (ok : List Nat → Bool) : List Region → List Region → Option (List Region)
  | _, [] => none
  | took, g :: r =>
    let took := took ++ [g]
    if ok (took.flatMap Region.quads) then some took else enough ok took r

/-- Request the pre-emption that a candidate needs (13 R349); nothing where every victim is asked already. -/
def State.makeRoom (s : State) (p : Part) (c : Cand) : Option State :=
  let lower := (s.regions.filter fun g => g.launch.part = p.conf.num && g.onTiles && decide (g.launch.level < c.level)).foldr
    insertVictim []
  let ok (qs : List Nat) : Bool :=
    c.pat.placeable c.dual fun q => s.takes p c q || (s.mayUse p q && qs.contains q && !c.avoid.contains q)
  (enough ok [] lower).bind fun vs =>
    let asked (g : Region) : Bool := g.preempt || (match g.status with | .saving _ => true | _ => false)
    if vs.all asked then none else some (vs.foldl (fun s g => s.requestPreempt g.rid) s)

/-! ### Placing (03 R71, R72, R76; 13 R337, R355; 18 R419) -/

/-- A stream's bank: one that the clear engine has already served, where there is one. -/
def State.pickBank (s : State) (at_ : Nat × Nat) (strB : Bool) : Bool :=
  let busy (b : Bool) : Bool := s.jobs.any fun j => decide ((j.x, j.y) = at_) && j.strB == strB && j.bank == b
  busy false && !busy true

/-- A tile at sc 0 of a launch. -/
def State.startTile (s : State) (l : Launch) (at_ : Nat × Nat) : Tile where
  sp := Mem.write {} spGran 0 (clean l.args)
  mb := l.mail
  a := { running := true, bankNo := s.pickBank at_ false }
  b := { bankNo := s.pickBank at_ true }

/-- A region at sc 0 of a launch. -/
def State.newRegion (s : State) (x : Pattern) (l : Launch) (role : Role) (pl : Place) (h : Option HandlerOf) : Region :=
  let tiles := (List.range (x.w * x.h)).map fun t => s.startTile l (placeTile pl x.w x.h (t % x.w) (t / x.w))
  { rid := s.nextRid, launch := l, pat := x, role := role, place := pl, placedAt := s.dev.wall, status := .running
    sc := 0, gaugeN := 0, gaugeLim := (x.rec? 0).elim 0 (·.gauge), stitch := 0, reentry := 0, lastCause := 0, recId := 0
    tiles := tiles, flights := [], awaits := [], items := [], cmds := [], unacq := []
    ckpt := { tiles := tiles.map fun t => ⟨t.a, t.b, t.j, t.bars⟩ }
    raised := [], frozen := .no, committing := .none, finalDone := false, preempt := false, reclaimAt := none
    mailPend := [], endEffs := [], records := [], rets := [], cols := [], paths := 0, detected := false
    stub := false, stubSc := 0, handler := h, saved := none, failed := none, seqTag := [], avoid := [], trans := []
    verdict := if role = .primary then .pending else .none, firm := false, park := none }

/-- What saved regions, but for one, hold on a physical tile, the one pre-empted longest ago first (13 R355). -/
def State.holders (s : State) (rid phys : Nat) : List (Nat × HeldTile) :=
  let all := s.regions.flatMap fun g =>
    match g.saved with
    | some v => if g.rid = rid then [] else (v.held.filter fun h => h.phys = phys).map fun h => (v.since, g.rid, h)
    | none => []
  (all.foldr insertHolder []).map fun x => (x.2.1, x.2.2)
where
  insertHolder (x : Nat × Nat × HeldTile) : List (Nat × Nat × HeldTile) → List (Nat × Nat × HeldTile)
    | [] => [x]
    | y :: r => if x.1 ≤ y.1 then x :: y :: r else y :: insertHolder x r

/-- Held banks are claimed until enough are. -/
def claimBanks : Nat → List (Nat × HeldTile) → List (Nat × HeldTile)
  | _, [] => []
  | n, (r, h) :: rest => (r, { h with banks := h.banks.take n }) :: claimBanks (n - h.banks.length) rest

/-- The claims of a region on one tile: the banks that its Nb needs beyond the free ones of the tile's 32; with the matrix
attribute every row, slot and slice (13 R355). -/
def State.claims (s : State) (g : Region) (phys : Nat) : List (Nat × HeldTile) :=
  let hs := s.holders g.rid phys
  let free := 32 - (hs.map fun x => x.2.banks.length).sum
  (claimBanks (g.pat.nb - free) hs).map fun x => (x.1, { x.2 with mx := x.2.mx && g.pat.matrix })

/-- A claim is written out before the region's first bundle. -/
def State.claim (s : State) (g : Region) (phys : Nat) : State :=
  (s.claims g phys).foldl (fun s (r, c) =>
    match s.region? r with
    | some x => s.releaseHeld x fun h => if h.phys = phys && h.tile = c.tile then c else { h with banks := [], mx := false }
    | none => s) s

/-- A placement wakes the gated quads it covers (17 R403). -/
def Dev.wake (d : Dev) (qs : List Nat) : Dev :=
  { d with waking := d.waking ++ qs.filter fun q => d.gate.getLsbD q && !d.waking.contains q }

def Region.physTiles (g : Region) : List Nat :=
  (List.range g.tiles.length).map fun t => (g.phys t).2 * 48 + (g.phys t).1

/-- A region takes its quads. -/
def State.stand (s : State) (g : Region) : State :=
  let s := g.physTiles.foldl (fun s t => s.claim g t) s
  { s with
    dev := { s.dev.wake g.quads with placed := true }
    left := s.left.filter fun x => !x.physTiles.any fun t => g.physTiles.contains t }

/-- A new region stands. -/
def State.enter (s : State) (x : Pattern) (l : Launch) (role : Role) (pl : Place) (h : Option HandlerOf) : State :=
  let g := s.newRegion x l role pl h
  let s := s.stand g
  { s with regions := s.regions ++ [g], nextRid := s.nextRid + 1 }

/-- A launch's ordinal and generation are drawn (13 R337; 18 R419). -/
def State.draw (s : State) (p : Part) (q : Nat) (l : Launch) : State × Launch :=
  let ord := (s.queue q).ord
  let gen := p.epoch ++ BitVec.ofNat 22 p.genCtr
  let s := s.modQueue q fun u => { u with ord := ord + 1 }
  let s := s.setPart { p with genCtr := if p.genCtr + 1 < 2 ^ 22 then p.genCtr + 1 else 1 }
  (s, { l with ordinal := ord, gen := gen })

/-- Place the one or two instances of a LAUNCH. -/
def State.enterLaunch (s : State) (p : Part) (c : Cand) (node : Option Nat) (mail : Launch → Launch) (h : Option HandlerOf)
    (pl : Place) (p2 : Option Place) : State :=
  let (s, l) := s.draw p c.queue (mail (launchOf p c.queue node c.level c.pkt))
  match p2 with
  | none => s.enter c.pat l .single pl h
  | some y => (s.enter c.pat l .primary pl h).enter c.pat l .shadow y none

/-- A handler's mailboxes take the place of mb0 to mb5. -/
def withMail (ws : List Word) (l : Launch) : Launch :=
  { l with mail := Vector.ofFn fun i : Fin 16 => (ws[i.val]?).getD (l.mail[i]) }

/-- The mailboxes of a handler forwarded for a queue (18 R428). -/
def queueMail (c : Cause) (q : Nat) : List Word := [BitVec.ofNat 64 c, BitVec.ofNat 64 q, 0, 0, 0, 0]

def setRunning (u : Queue) : Queue := { u with head := .running }

/-- Place a candidate. -/
def State.placeCand (s : State) (p : Part) (c : Cand) (pl : Place) (p2 : Option Place) : Option State :=
  match c.ref with
  | none => none
  | some (.head q) =>
    let mail : Launch → Launch := match (s.queue q).fwdFor with
      | some (x, q') => withMail (queueMail x q')
      | none => id
    some ((s.enterLaunch p c none mail none pl p2).modQueue q setRunning)
  | some (.node _ n) => some (s.enterLaunch p c (some n) id none pl p2)
  | some (.handler r) =>
    (s.region? r).bind fun g =>
      match g.status, g.handler with
      | .interrupted ra, some h =>
        some ((s.enterLaunch p c none (withMail (handlerMail g ra h.block)) (some ⟨some r, h.queue, h.block⟩) pl p2).modQueue
          c.queue setRunning)
      | _, _ => none
  | some (.third r) => (s.region? r).map fun g => s.enter g.pat g.launch .third pl none
  | some (.rerun r) => (s.region? r).map fun g => s.enter g.pat g.launch .rerun pl none

/-! ### Resumption (03 R74, R92; 13 R356; 02 R52; 18 R417) -/

/-- Runs of segments that are not live, as free ranges. -/
def freeSegs (z : Space) (id size : Nat) (live : Nat → Bool) : Nat → Nat → List FreeRange
  | 0, _ => []
  | n + 1, k =>
    let rest := freeSegs z id size live n (k + 1)
    if live k then rest
    else match rest with
      | f :: fs => if f.start = (k + 1) * size then { f with start := k * size, len := f.len + size } :: fs
                   else ⟨z, k * size, size, id⟩ :: f :: fs
      | [] => [⟨z, k * size, size, id⟩]

/-- The segments of scratchpad, tensor memory and B-stack that a record keeps: of 256 bytes, 64 words, one slice. -/
def SafePt.spLive (r : SafePt) (k : Nat) : Bool := r.sp.any fun w => decide (w.1 ≤ 256 * k ∧ 256 * k < w.1 + w.2)

def SafePt.tmLive (r : SafePt) (acc com : BitVec 8) (k : Nat) : Bool :=
  let row := k / 4
  let blk := 4 * (row / 64) + k % 4
  let slot := blk / 2
  if acc.getLsbD slot then r.acc.getLsbD slot && com.getLsbD slot == decide (blk % 2 = 1)
  else r.tmRows.any fun w => decide (w.1 ≤ row ∧ row < w.1 + w.2)

/-- A table slot is loaded again from its source, and its TE.CFGs applied (10 R278; 12 R325). -/
def State.reload (s : State) (part : Nat) (k : TabSlot) : TabSlot :=
  let img : Option Table := match s.readV part k.source 3104 with
    | .ok ps => if ps.any (·.2) || !imageOk (ps.map (·.1)) then none else some ⟨ps.map (·.1), []⟩
    | .error _ => none
  { k with table := img.map fun x => k.cfgs.foldl Table.configure x }

/-- The bytes of a live run: held in place still, or in the save area (13 R356). -/
def State.savedRun (s : State) (p : Part) (v : Saved) (g : Region) (t : Nat) (o : Nat) (r : LiveRun) : List PByte :=
  if v.held.any fun h => h.tile = t && h.covers r then (List.range r.len).map fun i => (g.tile t).stored r.space (r.start + i)
  else readLocal s.hbm p.groups (v.pos + o) r.len

/-- Everything saved of a tile: its tile block, its stream blocks and registers, its live runs. -/
structure TileImage where
  block : List PByte
  head : List PByte
  runs : List (LiveRun × List PByte)

def State.tileImage (s : State) (p : Part) (v : Saved) (g : Region) (t : Nat) : TileImage where
  block := readLocal s.hbm p.groups (v.pos + blockAt t) 2560
  head := readLocal s.hbm p.groups (v.pos + g.bodyAt t) (g.bodyHeadLen t)
  runs := (g.placedRuns t).map fun (o, r) => (r, s.savedRun p v g t o r)

/-- A saved item that reads back poisoned (20 R446). -/
def TileImage.bad (m : TileImage) : Bool :=
  m.block.any (·.2) || m.head.any (·.2) || m.runs.any fun r => r.2.any (·.2)

/-- Storage with the live runs of a space, and nothing else. -/
def TileImage.store (m : TileImage) (z : Space) (gran : Nat) : Mem :=
  m.runs.foldl (fun k r => if r.1.space = z then k.write gran r.1.start r.2 else k) {}

/-- A stream of a resumed tile. -/
def Region.restoreStream (g : Region) (t : Nat) (b : Bool) (head : List Byte) : Stream :=
  let x := g.str t b
  if (g.savedStreams t).contains b then
    let first := if b && (g.savedStreams t).contains false then 64 + g.keepRec.regLen else 0
    x.ofBlock g.keepRec (head.drop first)
  else x.unsaved

/-- A tile of a resumed region (13 R356): what its image holds; every other byte is open until it is written, every other
register reads zero (03 R74). In twin mode stream B takes stream A's values. -/
def State.restoreTile (s : State) (g : Region) (at_ : Nat × Nat) (t : Nat) (m : TileImage) : Tile :=
  let r := g.keepRec
  let x := (g.tile t).ofBlock r (m.block.map (·.1))
  let head := m.head.map (·.1)
  let a : Stream := { g.restoreStream t false head with bankNo := s.pickBank at_ false }
  let b : Stream := if g.pat.split then { g.restoreStream t true head with bankNo := s.pickBank at_ true }
    else { a with bankNo := s.pickBank at_ true, running := false }
  { x with
    a := a, b := b
    clean := []
    sp := m.store .sp spGran, tm := m.store .tm tmGran, bs := m.store .bs bsGran
    tabs := x.tabs.map fun o => o.map (s.reload g.launch.part)
    used := Vector.replicate 32 0
    free := freeSegs .sp s.fresh 256 r.spLive (128 * g.pat.nb) 0 ++
      freeSegs .tm s.fresh 256 (r.tmLive g.pat.acc x.accCom) 1024 0 ++ freeSegs .bs s.fresh 32768 (fun k => r.bs.getLsbD k) 64 0
    twinBad := false, dataBad := false, mxBad := false, codeBad := [] }

def Flight.isRelease : Flight → Bool
  | .arrive _ rel => rel
  | _ => false

/-- The release arrivals that the tile blocks hold (05 R132). -/
def Region.savedArrivals (g : Region) (ms : List TileImage) : List Fly :=
  let sc := g.ckpt.sc - 1
  (ms.zipIdx).flatMap fun (m, t) => (arrivalsOf (m.block.map (·.1))).map fun (b, n, due) =>
    (⟨due, sc, orderKey sc t b 6, t, b, .arrive n true⟩ : Fly)

/-- The region as it stands again at its checkpoint. -/
def State.restore (s : State) (g : Region) (pl : Place) (ms : List TileImage) : Region :=
  let g : Region := { g with place := pl, sc := g.ckpt.sc }
  let tiles := (ms.zipIdx).map fun (m, t) => s.restoreTile g (g.phys t) t m
  let flights := (g.flights.filter fun f => !f.what.isRelease) ++ g.savedArrivals ms
  { g with
    tiles := tiles, flights := flights
    cmds := g.cmds.map Cmd.retried
    placedAt := s.dev.wall, saved := none, park := none, frozen := .no, preempt := false, reclaimAt := none
    ckpt := { sc := g.sc, tiles := tiles.map fun t => ⟨t.a, t.b, t.j, t.bars⟩, flights := flights, awaits := g.awaits
              resumed := true } }

/-- The images of every tile of a saved region. -/
def State.images (s : State) (p : Part) (v : Saved) (g : Region) : List TileImage :=
  (List.range g.tiles.length).map fun t => s.tileImage p v g t

/-- The first tile whose saved items are lost. -/
def firstLost (v : Saved) (ms : List TileImage) : Option Nat :=
  (List.range ms.length).find? fun t => v.lostTiles.contains t || (ms[t]?.map TileImage.bad).getD false

/-- A saved region is placed again; saved items that read back poisoned kill it (20 R446). What it claims of others is
written out first. -/
def State.resume (s : State) (g : Region) (pl : Place) : State :=
  match s.part? g.launch.part, g.saved with
  | some p, some v =>
    let s := s.stand { g with place := pl }
    let ms := s.images p v g
    let g' := s.restore g pl ms
    match firstLost v ms with
    | none => { s.setRegion g'.reenter with fresh := s.fresh + 1 }
    | some t => (s.setRegion { g' with status := .running }).takeCause g.rid (eventRaise 0x30F t false)
  | _, _ => s

/-! ### The two events of placement -/

/-- Offer placement to the candidates of a partition's highest level: the chosen one is placed where it may be and those
before it may not; where the first has no placement at all, room is made for it. -/
def State.offer (s : State) (p : Part) (mine : Cand → Bool) (pl : Place) (p2 : Option Place)
    (put : State → Cand → Option State) : Option State :=
  let all := s.cands p
  let level := topLevel all
  let cs := all.filter fun c => c.level = level
  let s := s.refill (candQueues cs)
  let os := s.offers p.conf.num level cs
  (os.find? mine).bind fun c =>
    let before := os.takeWhile fun x => !mine x
    if p.fenced || before.any (s.fitsNow p) then none
    else if s.legalPlace p c pl p2 then (put s c).map fun s => s.serve p.conf.num level c.queue
    else if before.isEmpty && !s.fitsNow p c then s.makeRoom p c
    else none

/-- LAUNCH_PLACEMENT. -/
def execLaunchPlacement (c : CandRef) (p : Place) (p2 : Option Place) (s : State) : Out :=
  let mine (x : Cand) : Bool := x.ref == some c
  match s.parts.findSome? fun x => s.offer x mine p p2 fun s y => (s.part? x.conf.num).bind fun x => s.placeCand x y p p2 with
  | some s' => .next s'
  | none => .refused (.notDue "LAUNCH_PLACEMENT")

/-- RESUMPTION. -/
def execResumption (r : Nat) (p : Place) (s : State) : Out :=
  let mine (x : Cand) : Bool := x.ref.isNone && x.rid = r
  match (s.region? r).bind fun g => (s.part? g.launch.part).bind fun x =>
      s.offer x mine p none fun s _ => some (s.resume g p) with
  | some s' => .next s'
  | none => .refused (.notDue "RESUMPTION")

/-! ### Context banks (03 R72) -/

/-- BANK_CLEAR_DONE: the clear engine of a tile finishes the bank that became idle first. -/
def execBankClearDone (x y : Nat) (s : State) : Out :=
  match s.jobs.find? fun j => j.x = x && j.y = y with
  | some j => .next { s with jobs := s.jobs.erase j }
  | none => .refused (.notDue "BANK_CLEAR_DONE")

/-! ### Dual runs (13 R357 to R359; 20 R455 to R457) -/

/-- The instance of a launch with a role. -/
def State.instanceOf (s : State) (g : Region) (o : Role) : Option Region := s.regions.find? fun x => sameLaunch x g && x.role = o

/-- The quad signature of a region quad. -/
def Region.quadSig (g : Region) (q : Nat) : List Byte := sha128 ((g.records.filter fun r => r.1 = q).flatMap (·.2))

/-- The region quads whose signatures differ, as the physical quads of the first instance. -/
def Region.losing (a b : Region) : List Nat :=
  ((List.range a.tiles.length).filter fun t => a.qpos t = 0 && a.quadSig (a.quad t) != b.quadSig (a.quad t)).map a.physQuad

/-- The launch fails with one of the causes of a dual run; it will post and stop its queue. -/
def State.dualFails (s : State) (g : Region) (c : Cause) : State :=
  let s := { s with regions := s.regions.filter fun x => !(sameLaunch x g && x.rid ≠ g.rid) }
  s.setRegion { g with failed := some c, verdict := .none }

/-- Whether a further run has a placement even with every quad free (20 R456). -/
def State.canVote (s : State) (g : Region) (avoid : List Nat) : Bool :=
  match s.part? g.launch.part with
  | some p => g.pat.placeable false fun q => s.owned p q && !avoid.contains q
  | none => false

/-- DUAL_RUN_VERDICT. -/
def execDualRunVerdict (r : Nat) (s : State) : Out :=
  regionEvent "DUAL_RUN_VERDICT" r s fun g =>
    (s.instanceOf g .shadow).bind fun h =>
      if g.role != .primary || g.verdict != .pending || g.status != .final || h.status != .final || !h.quiet then none
      else if g.signature == h.signature then
        some ((s.setRegion { g with verdict := .agreed }).dropRegion h.rid)
      else
        let s := s.notice g.launch.part { code := 0x384, kind := 4, ordinal := g.launch.ordinal.toNat }
        let avoid := g.quads ++ h.quads
        if s.canVote g avoid then some (s.setRegion { g with verdict := .third, avoid := avoid })
        else some (s.dualFails g 0x386)

/-- What a re-run avoids: the losing quads and every quad with a score of 8 or more. -/
def State.rerunAvoid (s : State) (lost : List Nat) : List Nat := lost ++ (s.dev.scores.filter fun x => 8 ≤ x.2).map (·.1)

/-- The losers of a vote gain 4. -/
def State.vote (s : State) (qs : List Nat) : State := qs.foldl (fun s q => s.suspect q 4) s

/-- The third run's signature decides. -/
def State.majority (s : State) (g h k : Region) : State :=
  if k.status != .final then s.dualFails g 0x385
  else if k.signature == g.signature then
    let s := { s with regions := s.regions.filter fun x => !(sameLaunch x g && x.rid ≠ g.rid) }
    (s.setRegion { g with verdict := .agreed }).vote (h.losing g)
  else if k.signature == h.signature then
    let lost := g.losing h
    let s := s.vote lost
    if g.firm then s.dualFails g 0x388
    else if !s.canVote g (s.rerunAvoid lost) then s.dualFails g 0x386
    else
      let s := { s with regions := s.regions.filter fun x => !(sameLaunch x g && x.rid ≠ g.rid) }
      s.setRegion { g with verdict := .rerun, avoid := lost, records := k.records }
  else s.dualFails g 0x385

/-- MAJORITY_DECISION: after the third run, and after the run that overwrites what a losing primary wrote; 0x386 too where
one of them has no placement any more (20 R456). -/
def execMajorityDecision (r : Nat) (s : State) : Out :=
  regionEvent "MAJORITY_DECISION" r s fun g =>
    if g.role != .primary then none else
    match g.verdict with
    | .third =>
      match s.instanceOf g .shadow, s.instanceOf g .third with
      | some h, some k => if k.ended && k.quiet then some (s.majority g h k) else none
      | _, none => if s.canVote g g.avoid then none else some (s.dualFails g 0x386)
      | _, _ => none
    | .rerun =>
      match s.instanceOf g .rerun with
      | some k =>
        if k.status != .final || !k.quiet then none
        else if k.signature == g.signature then
          some ((s.dropRegion k.rid).setRegion { g with verdict := .agreed, paths := g.paths ||| k.paths })
        else some (s.dualFails g 0x387)
      | none => if s.canVote g (s.rerunAvoid g.avoid) then none else some (s.dualFails g 0x386)
    | _ => none

/-! ### Handlers (18 R426; 19 R437; 21 R470) -/

/-- The disposition byte, read through the partition's translations; unreadable or poisoned it is none. -/
def State.disposition (s : State) (part block : Nat) : Option Byte :=
  match s.readV part block 1 with
  | .ok [(b, false)] => some b
  | _ => none

/-- HANDLER_DISPOSITION: after the handler's completion has posted. -/
def execHandlerDisposition (r : Nat) (s : State) : Out :=
  regionEvent "HANDLER_DISPOSITION" r s fun g =>
    match g.status, g.handler with
    | .interrupted ra, some ⟨some _, _, block⟩ =>
      if s.disposition g.launch.part block = some 0 then
        some (s.setRegion (if g.finalDone then { g with status := .final, handler := none, cmds := g.cmds.map Cmd.retried }
          else { g with status := .saved, handler := none, park := none }))
      else
        let notify := match s.part? g.launch.part with | some p => entryNotify (p.entry ra.cause) | none => false
        let s := if notify then s.recordCause g { ra with ctr := none } .kill false true else s
        some (s.endRegion { g with handler := none } ra.cause)
    | _, _ => none

/-! ### Lent margin quads (14 R371 to R373) -/

/-- Two quads share an edge (01 R15). -/
def adjacentQuads (a b : Nat) : Bool :=
  (a / 24 = b / 24 && (a % 24 = b % 24 + 1 || b % 24 = a % 24 + 1)) || (a % 24 = b % 24 && (a / 24 = b / 24 + 1 || b / 24 = a / 24 + 1))

/-- A placement that includes the quad, or a pair one of which does, would admit the candidate. -/
def Cand.admitted (c : Cand) (q : Nat) (ok : Nat → Bool) : Bool :=
  let ps := c.pat.places fun n => ok n && !c.avoid.contains n
  ps.any fun pl => (c.pat.quadsAt pl).contains q && (!c.dual || ps.any fun y => disjointQuads (c.pat.quadsAt pl) (c.pat.quadsAt y))

/-- An unplaced candidate of the partition would be admitted by a placement that includes the quad. -/
def State.wants (s : State) (p : Part) (q : Nat) (ok : Nat → Bool) : Bool := (s.cands p).any fun c => c.admitted q ok

/-- A margin quad is idle: no region of its owner holds it, and no candidate of its owner would use it. -/
def State.idleMargin (s : State) (o : Part) (q : Nat) : Bool :=
  o.conf.margin.contains q && !s.lentOut q && s.mayUse o q && !s.held q && !s.wants o q (s.freeFor o)

/-- The quad may be lent to a partition, but for its place. -/
def State.lendable (s : State) (b : Part) (q : Nat) : Bool :=
  s.parts.any fun o => o.conf.num ≠ b.conf.num && o.conf.lendMask.getLsbD b.conf.num && s.idleMargin o q

/-- QUAD_LEND: to a partition that owns or has borrowed a quad beside it and has an unplaced candidate that needs it (14
R371). A gated quad is woken: one is gated only while it holds no lent state (17 R403). -/
def execQuadLend (q part : Nat) (s : State) : Out :=
  let no : Out := .refused (.notDue "QUAD_LEND")
  match s.part? part, s.parts.find? fun o => o.conf.margin.contains q with
  | some b, some o =>
    let near := (List.range 576).any fun n => adjacentQuads n q && (ownsQuad b.conf n || s.uses b n)
    let needs := (s.cands b).any fun c => !s.fitsNow b c && c.admitted q fun n => s.freeFor b n || s.lendable b n
    if b.fenced || !s.lendable b q || !near || !needs then no
    else .next { s with lent := s.lent ++ [⟨q, o.conf.num, part, false⟩], dev := s.dev.wake [q] }
  | _, _ => no

/-- Lent quads that are on their way back return once no region holds them. -/
def State.returnLent (s : State) : State :=
  { s with lent := s.lent.filter fun l => !(l.back && !s.held l.quad) }

/-- Ask a region off a quad that is being reclaimed; its open stitch has 100 us. -/
def State.evict (s : State) (r : Nat) : State :=
  (s.modRegion r fun g => { g with reclaimAt := some s.dev.wall }).requestPreempt r

/-- QUAD_RECLAIM, by the owner or the management plane. -/
def execQuadReclaim (q : Nat) (s : State) : Out :=
  match s.lent.find? fun l => l.quad = q && !l.back with
  | none => .refused (.notDue "QUAD_RECLAIM")
  | some _ =>
    let back (l : Lent) : Lent := if l.quad = q then { l with back := true } else l
    let s := { s with lent := s.lent.map back }
    let mine := s.regions.filter fun g => g.onTiles && g.quads.contains q
    .next ((mine.foldl (fun s g => s.evict g.rid) s).emptyQuad q).returnLent

/-- 100 us in units of wall time. -/
def reclaimWait : Nat := 100000 * wallUnit

/-- RECLAIM_TIMEOUT: a frog with no cause and no count, and the save (14 R373). -/
def execReclaimTimeout (r : Nat) (s : State) : Out :=
  regionEvent "RECLAIM_TIMEOUT" r s fun g =>
    match g.reclaimAt with
    | some t =>
      if g.status != .running || g.committing != .none || s.dev.wall < t + reclaimWait then none
      else
        let s := s.frog r none
        some ((s.startSave r none).modRegion r fun g => { g with preempt := false, reclaimAt := none })
    | none => none

end Sys2Proof.Machine
end

