-- ==== Sys2Proof/Machine/Host.lean ====
section
/-! DEFINITION. What the host and peers do to the device: page answers, global replay, invalidations, registers, host
and peer accesses (03 R91; 12 R318; 13 R330, R366; 14 R374 to R379; 17 R405; 18 R408, R418 to R421; 20 R449, R450,
R460, R462). -/

namespace Sys2Proof.Machine

/-! ### Page answers and global replay (18 R417 to R421) -/

/-- The partition whose virtual function the host drives; a fenced one discards answers (17 R400). -/
def State.vf (s : State) (part : Nat) : Option Part := if s.dev.stage == .up then s.part? part else none

/-- A parked region retries: in place, or as a candidate for resumption. -/
def State.retryRegion (s : State) (r : Nat) : State :=
  s.modRegion r fun g =>
    match g.status with
    | .parked _ => g.reenter
    | .saving none | .saved => { g with park := none }
    | _ => g

/-- A parked command walks again. -/
def Cmd.unpark (id : Nat) (c : Cmd) : Cmd := if c.id = id then c.retried else c

def State.retryCmd (s : State) (r id : Nat) : State :=
  s.modRegion r fun g => { g with cmds := g.cmds.map (Cmd.unpark id) }

/-- A parked queue repeats its access. -/
def State.retryQueue (s : State) (q : Nat) : State :=
  let u := s.queue q
  if u.stopped && decide (u.cause = 0x101 ∨ u.cause = 0x103) then s.restartQueue q else s

def State.retry (s : State) : Asker → State
  | .region r => s.retryRegion r
  | .cmd r id => s.retryCmd r id
  | .queue q => s.retryQueue q

/-- The outstanding record an answer names, where the answer is one of its own epoch and generation (18 R419). -/
def State.answered (s : State) (part idx : Nat) (gen : BitVec 32) : Option (Part × PageReq) :=
  (s.vf part).bind fun p =>
    if p.fenced || gen.extractLsb' 22 10 != p.epoch then none
    else (p.reqs.find? fun q => q.idx = idx && q.gen == gen).map fun q => (p, q)

/-- The record closes and its slot frees. -/
def State.closeReq (s : State) (p : Part) (idx : Nat) : State :=
  (s.setPart { p with reqs := p.reqs.filter fun q => q.idx ≠ idx }).flushReqs p.conf.num

/-- PAGE_ANSWER_SUCCESS: every requester retries; an answer to no record is discarded. -/
def execPageAnswerSuccess (part idx : Nat) (gen : BitVec 32) (s : State) : Out :=
  match s.answered part idx gen with
  | none => .next s
  | some (p, q) => .next ((if q.withdrawn then [] else q.askers).foldl State.retry (s.closeReq p idx))

/-- A refused answer reaches a parked region: 0x102 at its checkpoint. -/
def State.refuseRegion (s : State) (r : Nat) : State :=
  match s.region? r with
  | none => s
  | some g =>
    let ra : Option Raise := match g.status with
      | .parked c => some c
      | .saving none | .saved => g.park
      | _ => none
    match ra with
    | some c => s.byTable r { c with cause := 0x102 }
    | none => s

/-- A refused answer reaches a parked command. -/
def State.refuseCmd (s : State) (r id : Nat) : State :=
  match s.region? r with
  | none => s
  | some g =>
    match g.cmd? id with
    | some c =>
      match c.st with
      | .parked _ va => s.ctxCause g c 0x102 va
      | _ => s
    | none => s

/-- A refused answer reaches a parked queue, and a posting that it waits for (13 R366). -/
def State.refuseQueue (s : State) (part q va : Nat) : State :=
  let u := s.queue q
  if u.stopped && u.cause = 0x101 then (s.queueCause part q 0x102 va).refusePostings q va else s

def State.refuse (part va : Nat) (s : State) : Asker → State
  | .region r => s.refuseRegion r
  | .cmd r id => s.refuseCmd r id
  | .queue q => s.refuseQueue part q va

/-- PAGE_ANSWER_REFUSED: every requester raises 0x102. -/
def execPageAnswerRefused (part idx : Nat) (gen : BitVec 32) (s : State) : Out :=
  match s.answered part idx gen with
  | none => .next s
  | some (p, q) => .next ((if q.withdrawn then [] else q.askers).foldl (State.refuse part q.va) (s.closeReq p idx))

/-- Everything parked retries; the records stay open and serve nobody; table pages are told of anew (20 R453). -/
def State.replayAll (s : State) (p : Part) : State :=
  let part := p.conf.num
  let idle (q : PageReq) : PageReq := { q with askers := [], withdrawn := true }
  let s := s.setPart { p with reqs := p.reqs.map idle, prqWait := [], poisonPages := [] }
  let mine := s.regions.filter fun g => g.launch.part = part
  let s := mine.foldl (fun s g => (g.cmds.foldl (fun s c => s.retryCmd g.rid c.id) s).retryRegion g.rid) s
  p.conf.queues.foldl (fun s q => if (s.queue q).parked then s.restartQueue q else s) s

/-- GLOBAL_REPLAY: a write of 1 to pc.replay. -/
def execGlobalReplay (part : Nat) (s : State) : Out :=
  match s.vf part with
  | none => .next s
  | some p => .next (s.replayAll p)

/-! ### Invalidation (03 R91; 12 R318; 14 R376) -/

/-- A handle in a register or on its way to one, made from a page. -/
def Region.handles (g : Region) : List Handle :=
  (g.tiles.flatMap fun x => x.a.bank.h.toList.filterMap id ++ x.b.bank.h.toList.filterMap id) ++
    g.awaits.filterMap fun a => match a.st with | .handle h => some h | _ => none

/-- The translations that hit leave every translation store; who holds a handle made from one must commit first. -/
def State.invalidate (s : State) (p : Part) (hit : Page → Bool) : State :=
  let mine (g : Region) : Bool := decide (g.launch.part = p.conf.num)
  let holds := s.regions.filter fun g => mine g && g.status == .running && g.handles.any fun h => hit h.page
  let drop (g : Region) : Region := if mine g then { g with trans := g.trans.filter fun t => !hit t } else g
  ({ s with regions := s.regions.map drop } : State).setPart
    { p with invals := p.invals ++ [⟨holds.map fun g => (g.rid, g.stitch)⟩] }

/-- The fields of pc.inval that keep what is written (14 R376). -/
def invalFields : Word := 0x01FF_FFFF_FFFF_0002

/-- The translation maps the 64 KiB that pc.inval names. -/
def invalHits (v : Word) (t : Page) : Bool :=
  let a := (v &&& 0x01FF_FFFF_FFFF_0000).toNat
  decide (t.base ≤ a ∧ a < t.base + t.size)

/-- INVALIDATE_ADDRESS: a write to pc.inval with bit 1 clear. -/
def execInvalidateAddress (part : Nat) (v : Word) (s : State) : Out :=
  match s.vf part with
  | none => .next s
  | some p => .next (s.invalidate { p with inval := v &&& invalFields &&& ~~~2#64 } (invalHits v))

/-- INVALIDATE_ALL: a write to pc.inval with bit 1 set. -/
def execInvalidateAll (part : Nat) (s : State) : Out :=
  match s.vf part with
  | none => .next s
  | some p => .next (s.invalidate { p with inval := 2 } fun _ => true)

/-- Every holder has committed, or holds no valid handle any more. -/
def State.invalDone (s : State) (i : Inval) : Bool :=
  i.holders.all fun h => !s.regions.any fun g => g.rid = h.1 && g.stitch = h.2 && g.status == .running

/-- INVALIDATION_COMPLETE: the oldest invalidation that can be reported is; the translation generation rises. -/
def execInvalidationComplete (part : Nat) (s : State) : Out :=
  match s.part? part with
  | none => .refused (.notDue "INVALIDATION_COMPLETE")
  | some p =>
    match p.invals.find? s.invalDone with
    | none => .refused (.notDue "INVALIDATION_COMPLETE")
    | some i => .next (s.setPart { p with invals := p.invals.erase i, transGen := p.transGen + 1 })

/-! ### Registers of a virtual function's BAR0 (13 R330; 14 R376) -/

/-- The partition's queues in ascending number. -/
def Part.queueList (p : Part) : List Nat := (List.range 256).filter fun q => p.conf.queues.contains q

/-- A write to a register of queue block i. -/
def State.writeQueueReg (s : State) (p : Part) (i sub : Nat) (v : Word) : State :=
  match p.queueList[i]? with
  | none => s
  | some q =>
    match sub with
    | 0x00 => s.modQueue q fun u => { u with base := v &&& 0x01FF_FFFF_FFFF_F000 }
    | 0x08 =>
      let s := s.modQueue q fun u => u.setCtl v
      if v.getLsbD 1 then s.restartQueue q else s
    | 0x10 =>
      let u := s.queue q
      if u.deviceFed then s
      else if u.accepts v.toNat then s.modQueue q fun u => { u with wr := v.toNat }
      else s.queueCause p.conf.num q 0x28E 0
    | _ => s

def State.writeMail (s : State) (p : Part) (i n : Nat) (v : Word) : State :=
  match p.queueList[i]? with
  | none => s
  | some q => (s.regions.filter fun g => g.launch.queue = q).foldl (fun s g => s.mailTo g (BitVec.ofNat 4 n) v) s

/-- A write to pc.ctl: poison forwarding, and a pre-emption of every running region. -/
def State.writePcCtl (s : State) (p : Part) (v : Word) : State :=
  let s := s.setPart { p with ctl := (p.ctl &&& 2) ||| (v &&& 0x82) }
  if v.getLsbD 1 then (s.regions.filter fun g => g.launch.part = p.conf.num).foldl (fun s g => s.requestPreempt g.rid) s
  else s

/-- A write to pc.prsp: statuses 2 and 3 are discarded. -/
def State.writePrsp (s : State) (part : Nat) (v : Word) : State :=
  let idx := (v.extractLsb' 2 30).toNat
  let gen := v.extractLsb' 32 32
  match s.answered part idx gen, (v.extractLsb' 0 2).toNat with
  | some (p, q), 0 => (if q.withdrawn then [] else q.askers).foldl State.retry (s.closeReq p idx)
  | some (p, q), 1 => (if q.withdrawn then [] else q.askers).foldl (State.refuse part q.va) (s.closeReq p idx)
  | _, _ => s

def State.writeInval (s : State) (p : Part) (v : Word) : State :=
  s.invalidate { p with inval := v &&& invalFields } fun t => v.getLsbD 1 || invalHits v t

/-- A write to BAR0 of a virtual function. Queue and mailbox writes of a fenced partition are discarded (17 R400). -/
def State.writeVf0 (s : State) (p : Part) (off : Nat) (v : Word) : State :=
  let part := p.conf.num
  if off < 0x4000 then if p.fenced then s else s.writeQueueReg p (off / 64) (off % 64) v
  else if 0x8000 ≤ off then
    if p.fenced || decide (off % 8 ≠ 0) then s else s.writeMail p ((off - 0x8000) / 128) ((off - 0x8000) % 128 / 8) v
  else match off with
    | 0x4008 => s.writePcCtl p v
    | 0x4010 => s.setPart { p with ptroot := v &&& 0x01FF_FFFF_FFFF_F001 }
    | 0x4018 => (s.setPart { p with prq := v &&& 0x01FF_FFFF_FFFF_F00F }).flushReqs part
    | 0x4020 => s.writePrsp part v
    | 0x4028 => s.writeInval p v
    | 0x4030 => if v.getLsbD 0 then s.replayAll p else s
    | _ => s

/-! ### Error registers (20 R460, R462) -/

/-- A write of er.ctl: the threshold and Enable; a 1 clears Overflow. -/
def ErrRegs.setCtl (r : ErrRegs) (v : Word) : ErrRegs :=
  { r with ctl := (r.ctl &&& 0xFFFF_FFFF_0000_0000) ||| (v &&& 0xFFFF_0001) ||| (r.ctl &&& ~~~v &&& 2) }

def ErrRegs.clearCtr (r : ErrRegs) : ErrCtr → ErrRegs
  | .chip => { r with chip := 0 }
  | .hbm => { r with hbm := 0 }
  | .link => { r with link := 0 }

/-- Writing 1 clears a status bit. -/
def ErrRegs.clearStatus (r : ErrRegs) (corrected : Bool) (v : Word) : ErrRegs :=
  if corrected then { r with cstat := r.cstat &&& ~~~v } else { r with ustat := r.ustat &&& ~~~v }

/-- A write to BAR2 from offset 0x1000 on. -/
def ErrRegs.write (r : ErrRegs) (off : Nat) (v : Word) : ErrRegs :=
  match off with
  | 0x1000 => { r with base := v &&& 0x01FF_FFFF_FFFF_F00F }
  | 0x1010 => { r with rd := v }
  | 0x1018 => r.setCtl v
  | 0x1040 => r.clearCtr .chip
  | 0x1048 => r.clearCtr .hbm
  | 0x1050 => r.clearCtr .link
  | 0x1080 => r.clearStatus false v
  | 0x1088 => { r with umask := v }
  | 0x1090 => r.clearStatus true v
  | 0x1098 => { r with cmask := v }
  | _ => r

/-- The error registers of a function: 0 the physical one, n + 1 partition n's. -/
def State.modErr (s : State) (fn : Nat) (f : ErrRegs → ErrRegs) : State :=
  if fn = 0 then { s with dev := { s.dev with err := f s.dev.err } }
  else match s.vf (fn - 1) with
    | none => s
    | some p => s.setPart { p with err := f p.err }

/-- ERROR_OVERFLOW_CLEAR. -/
def execErrorOverflowClear (fn : Nat) (s : State) : Out :=
  .next (s.modErr fn fun r => { r with ctl := r.ctl &&& ~~~2#64 })

/-- ERROR_COUNTER_CLEAR. -/
def execErrorCounterClear (fn : Nat) (c : ErrCtr) (s : State) : Out := .next (s.modErr fn fun r => r.clearCtr c)

/-- AER_STATUS_CLEAR. -/
def execAerStatusClear (fn : Nat) (corrected : Bool) (v : Word) (s : State) : Out :=
  .next (s.modErr fn fun r => r.clearStatus corrected v)

/-- A write to the action table: one entry, a 32-bit register. -/
def Part.writeEntry (p : Part) (off : Nat) (v : Word) : Part :=
  if off % 4 = 0 then p.setEntry (off / 4) (v.extractLsb' 0 32) else p

/-! ### What a register reads as (13 R330; 14 R376; 17 R397, R400, R405; 18 R408; 20 R460, R462, R464) -/

/-- pc.info: the owner tag, the counts of the partition's good, unquarantined quads, its number. -/
def State.pcInfo (s : State) (p : Part) : Word :=
  let count (l : List Nat) : Nat := (l.filter s.dev.usable).length
  let tag : BitVec 16 := if p.fenced then BitVec.ofNat 16 p.conf.num else p.tag
  BitVec.ofNat 64 (tag.toNat * 2 ^ 32 + count p.conf.guaranteed * 2 ^ 22 + count p.conf.margin * 2 ^ 12 + p.conf.num)

def Queue.readReg (u : Queue) (sub : Nat) : Word :=
  match sub with
  | 0x00 => u.base
  | 0x08 => u.ctl
  | 0x10 => BitVec.ofNat 64 u.wr
  | 0x18 => BitVec.ofNat 64 u.rd
  | 0x20 => u.tl
  | 0x28 => BitVec.ofNat 64 u.cause
  | 0x30 => u.ord.setWidth 64
  | _ => 0

def State.readVf0 (s : State) (p : Part) (off : Nat) : Word :=
  if off < 0x4000 then
    match p.queueList[off / 64]? with
    | some q => (s.queue q).readReg (off % 64)
    | none => 0
  else match off with
    | 0x4000 => s.pcInfo p
    | 0x4008 => p.ctl
    | 0x4010 => p.ptroot
    | 0x4018 => p.prq
    | 0x4028 => p.inval ||| (if p.invals.isEmpty then 0 else 1)
    | _ => 0

def ErrRegs.read (r : ErrRegs) (off : Nat) : Word :=
  match off with
  | 0x1000 => r.base
  | 0x1008 => BitVec.ofNat 64 r.wr
  | 0x1010 => r.rd
  | 0x1018 => r.ctl
  | 0x1040 => r.chip.setWidth 64
  | 0x1048 => r.hbm.setWidth 64
  | 0x1050 => r.link.setWidth 64
  | 0x1080 => r.ustat
  | 0x1088 => r.umask
  | 0x1090 => r.cstat
  | 0x1098 => r.cmask
  | 0x10A0 | 0x10A8 | 0x10B0 | 0x10B8 => BitVec.ofNat 64 (leNat ((r.log.drop (off - 0x10A0)).take 8))
  | _ => 0

/-- Word n of a quad map. -/
def mapWord (m : BitVec 576) (n : Nat) : Word := m.extractLsb' (64 * n) 64

/-- The device's maps at a physical function's offset: none where no map lies. -/
def Dev.readPf0 (d : Dev) (off : Nat) : Word :=
  let at_ (base : Nat) (m : BitVec 576) : Option Word :=
    if base ≤ off ∧ off ≤ base + 0x40 ∧ (off - base) % 8 = 0 then some (mapWord m ((off - base) / 8)) else none
  if off = 0 then BitVec.ofNat 64 (d.clkCap.toNat + 256 * d.clkStep.toNat)
  else if off = 0x00F8 then d.turn
  else if off = 0x0100 then if d.turning.isSome then 1 else 0
  else ((at_ 0x0008 d.good <|> at_ 0x0058 d.quar) <|> at_ 0x00A8 d.gate).getD 0

/-- What a register reads as. -/
def State.regRead (s : State) (fn bar off : Nat) : Word :=
  if fn = 0 then
    if s.dev.stage == .reset then 0
    else if bar = 0 then s.dev.readPf0 off
    else if bar = 2 then s.dev.err.read off
    else 0
  else match s.vf (fn - 1) with
    | none => 0
    | some p =>
      if bar = 0 then s.readVf0 p off
      else if bar = 2 then
        if off < 0x1000 then if off % 4 = 0 then (p.entry (off / 4)).setWidth 64 else 0 else p.err.read off
      else 0

/-! ### Host and peer accesses to HBM4 (14 R374, R379; 20 R449) -/

/-- The management plane has mapped a range of a partition's HBM4 for the host: each of its bytes. -/
def State.hostMapped (s : State) (p : Part) (addr n : Nat) : Bool :=
  decide (addr + n ≤ p.localSize) &&
    (List.range n).all fun i => s.dev.hostMaps.any fun m => m.1 = p.conf.num && decide (m.2.1 ≤ addr + i ∧ addr + i < m.2.1 + m.2.2)

/-- What a host read returns: the bytes with their poison, or an error status where poison is not forwarded, or nothing
where no partition's range is mapped. Of a location that a launch writes which has not posted, the manual leaves the host's
value open (05 R134, Assumption 7). -/
def State.hostRead (s : State) (part addr n : Nat) : Option (List PByte) :=
  (s.vf part).bind fun p =>
    let bs := readLocal s.hbm p.groups addr n
    if !s.hostMapped p addr n || (bs.any (·.2) && !s.forwards part) then none else some bs

/-- HOST_MEM_ACCESS: CXL.mem or PCI Express accesses to the ranges of a partition's HBM4 that are mapped; number 64 is the
physical function, which reads the dump area (20 R464). An access to any other range is not allowed and does nothing. -/
def execHostMemAccess (part addr : Nat) (op : HostOp) (s : State) : Out :=
  match op with
  | .read _ => .next (if part = 64 then { s with dev := { s.dev with dumpUnread := false } } else s)
  | .write bs bad =>
    match s.vf part with
    | none => .next s
    | some p =>
      if s.hostMapped p addr bs.length then
        .next { s with hbm := writeLocal (bs.length + 1) s.hbm p.groups addr (taint bad bs) }
      else .next s

def PeerOp.size : PeerOp → Nat
  | .read n => n
  | .write bs => bs.length
  | .atom _ dw _ _ _ => atomBytes dw

/-- PEER_REQUEST: served in the partition with the tenant's id; refused, nothing is read or written. -/
def execPeerRequest (dev : BitVec 20) (tenant : BitVec 16) (addr : Nat) (op : PeerOp) (s : State) : Out :=
  if s.dev.stage != .up then .next s else
  match s.parts.find? fun p => p.conf.tenant = tenant with
  | none => .next s
  | some p =>
    if p.localSize < addr + (PeerOp.size op) then .next s else
    match op with
    | .read _ => .next s
    | .write bs => .next { s with hbm := writeLocal (bs.length + 1) s.hbm p.groups addr (clean bs) }
    | .atom op dw v cmp src =>
      .next (s.atomic p.conf.num ⟨.hbm, 0, addr⟩ op (atomBytes dw) v cmp false
        (src.map fun t => ((t.owner, dev, t.ordinal, t.tile), t.tag, 0))).1

/-! ### Unresponsive devices (20 R450) -/

/-- Requests to the device that a frog or the end of a launch has dropped may still be outstanding: whether they are is
open, and one that is gets its synthesised reply and so the notice (Assumption 68). -/
def State.tellDropped (s : State) (dev : BitVec 20) : State :=
  let s := s.parts.foldl (fun s p => match p.dropped.find? fun d => d.dev = dev with
    | some d => if Config.act (s.seq + p.conf.num) % 2 = 1 then s.tellOne p.conf.num dev d.va d.ordinal d.tile else s
    | none => s) s
  { s with parts := s.parts.map fun p => { p with dropped := p.dropped.filter fun d => d.dev ≠ dev }, seq := s.seq + 1 }

/-- PEER_UNRESPONSIVE. -/
def execPeerUnresponsive (dev : BitVec 20) (s : State) : Out :=
  .next (if s.quiet.contains dev then s else ({ s with quiet := dev :: s.quiet } : State).tellDropped dev)

/-- DEVICE_READMISSION: switches stop answering for the device. -/
def execDeviceReadmission (dev : BitVec 20) (_ : BitVec 10) (s : State) : Out :=
  let forget (p : Part) : Part := { p with toldPeers := p.toldPeers.filter fun d => d ≠ dev }
  .next { s with quiet := s.quiet.filter fun d => d ≠ dev, parts := s.parts.map forget }

end Sys2Proof.Machine
end

