-- ==== Sys2Proof/Machine/Errors.lean ====
section
/-! DEFINITION. Timing causes, hardware errors and the fatal state (02 R42, R53; 18 R415; 20 R439 to R448, R464,
R465). -/

namespace Sys2Proof.Machine

/-! ### Timing causes (02 R42, R53; 18 R415) -/

/-- The stitch's count has passed its gauge; a stub does not count. -/
def Region.late (g : Region) : Bool := !g.stub && decide (g.gaugeLim ≤ g.gaugeN) && !g.raised.any fun x => x.cause = 0x200

/-- DEADLINE_FAULT. -/
def execDeadlineFault (r : Nat) (s : State) : Out :=
  regionEvent "DEADLINE_FAULT" r s fun g =>
    if g.runs && g.committing == .none && g.late then some (s.setRegion (g.raiseEvent 0 false 0x200 0 none none)) else none

/-- The partition's freeze budget in units of wall time. -/
def State.freezeBudget (s : State) (part : Nat) : Nat :=
  match s.part? part with
  | some p => p.conf.freeze * 1000 * wallUnit
  | none => 0

/-- The freeze has lasted longer than the budget. -/
def State.frozenOut (s : State) (g : Region) : Bool :=
  match g.frozen with
  | .wait n => decide (s.freezeBudget g.launch.part < n) && !g.raised.any fun x => x.cause = 0x201
  | _ => false

/-- Take one of the causes that stand raised. -/
def State.takeRaised (s : State) (r : Nat) : State :=
  match (s.region? r).bind fun g => pickRaise g.raised with
  | some ra => s.takeCause r ra
  | none => s

/-- FREEZE_BUDGET_EXPIRY: taken at once in the frozen sc; after a commit that waits, once it is done. -/
def execFreezeBudgetExpiry (r : Nat) (s : State) : Out :=
  regionEvent "FREEZE_BUDGET_EXPIRY" r s fun g =>
    if !g.runs || !s.frozenOut g then none
    else
      let s' := s.setRegion (g.raiseEvent 0 false 0x201 0 none none)
      some (if g.committing == .none then s'.takeRaised r else s')

/-! ### Storage errors (20 R439, R440, R446, R448) -/

/-- The partition whose channel groups hold a device byte. -/
def State.ownerOf (s : State) (a : Nat) : Option Part := s.parts.find? fun p => p.conf.groups.contains (a / 2 ^ 33)

/-- PATROL_SCRUB: a sector is read; what cannot be corrected is marked, and its owner told. -/
def execPatrolScrub (sector : Nat) (f : ScrubFind) (s : State) : Out :=
  if 2 ^ 40 ≤ 32 * sector then .fault (.noSuchByte (32 * sector)) else
  let owner := s.ownerOf (32 * sector)
  match f with
  | .clean => .next s
  | .corrected => .next (s.corrected (owner.map (·.conf.num)) .hbm)
  | .uncorrectable =>
    let s := { s with hbm := s.hbm.poison sector }
    let e : Event := { code := 0x314, kind := 4 }
    .next (match owner with
      | some p => s.notice p.conf.num e
      | none => s.recordPf 0xFFFF e)

/-- CONTROL_STATE_LOST: 0x30E, which kills. -/
def execControlStateLost (r t : Nat) (s : State) : Out :=
  regionEvent "CONTROL_STATE_LOST" r s fun g =>
    let ra := eventRaise 0x30E t false
    match g.status with
    | .running =>
      if g.committing == .none then some (s.takeCause r ra) else some (s.setRegion { g with raised := g.raised ++ [ra] })
    | .parked _ | .saving _ => some (s.takeCause r ra)
    | _ => none

/-- Poison a register. -/
def Bank.spoil (k : Bank) (d : SDst) : Bank := k.setS d { k.getS d with bad := true }

def Bank.spoilP (k : Bank) (n : BitVec 4) : Bank := k.setP n { k.getP n with bad := true }

def Bank.spoilLane (k : Bank) (v l : BitVec 5) : Bank :=
  let x := k.getV v
  k.setV v { x with bad := x.bad ||| (1#32 <<< l.toNat) }

def Bank.spoilM (k : Bank) (n : BitVec 3) : Bank := k.setM n { k.getM n with bad := true }

def Bank.spoilMx (k : Bank) (col : Bool) (n : BitVec 2) : Bank := k.setMx col n { k.getMx col n with bad := true }

def Bank.spoilTb (k : Bank) (n : BitVec 5) : Bank := k.setTb n { k.getTb n with bad := true }

def Bank.spoilLatch (k : Bank) (l : Latch) : Bank := k.setLa (some l) { k.la.get l with bad := true }

/-- Poison a loop counter. -/
def Bank.spoilLc (k : Bank) (n : BitVec 2) : Bank := { k with lcBad := k.lcBad ||| (1#4 <<< n.toNat) }

/-- What an uncorrected error does to a tile. -/
def Tile.spoil (x : Tile) : Strike → Tile
  | .sp _ _ a => { x with sp := x.sp.poison (a / spGran) }
  | .tm _ _ w => { x with tm := x.tm.poison w }
  | .bs _ _ a => { x with bs := x.bs.poison (a / bsGran) }
  | .desc _ _ d w =>
    let ws := x.ds[d.toNat]'d.isLt
    { x with ds := x.ds.set d.toNat (ws.set w.toNat { ws[w.toNat]'w.isLt with bad := true } w.isLt) d.isLt }
  | .param _ _ n => { x with mp := x.mp.set n.toNat { x.mp[n.toNat]'n.isLt with bad := true } n.isLt }
  | .table _ _ n w =>
    let put (k : TabSlot) : TabSlot := { k with table := k.table.map fun y => { y with bad := natSet y.bad w true } }
    { x with tabs := x.tabs.set n.toNat ((x.tabs[n.toNat]'n.isLt).map put) n.isLt }
  | .code _ _ w => { x with codeBad := natSet x.codeBad w true }
  | .twin _ _ => { x with twinBad := true }
  | .datapath _ _ => { x with dataBad := true }
  | .matrix _ _ => { x with mxBad := true }
  | _ => x

/-- The region and tile a strike hits, if any. -/
def Strike.at_ : Strike → Option (Nat × Nat)
  | .reg r t _ _ | .pred r t _ _ | .vlane r t _ _ _ | .sp r t _ | .tm r t _ | .bs r t _ | .desc r t _ _ | .param r t _
  | .table r t _ _ | .code r t _ | .twin r t | .datapath r t | .matrix r t | .saved r t => some (r, t)
  | _ => none

/-- What an uncorrected error does to a bank, and of which stream. -/
def Strike.bank : Strike → Option (Nat × Nat × Bool × (Bank → Bank))
  | .reg r t b d => some (r, t, b, fun k => k.spoil d)
  | .pred r t b p => some (r, t, b, fun k => k.spoilP p)
  | .vlane r t b v l => some (r, t, b, fun k => k.spoilLane v l)
  | .tb r t b n => some (r, t, b, fun k => k.spoilTb n)
  | .lc r t b n => some (r, t, b, fun k => k.spoilLc n)
  | .latch r t b l => some (r, t, b, fun k => k.spoilLatch l)
  | .mask r t b m => some (r, t, b, fun k => k.spoilM m)
  | .mxmask r t b c n => some (r, t, b, fun k => k.spoilMx c n)
  | _ => none

/-- An uncorrected error of scratchpad, tensor memory or B-stack counts against its quad (20 R457). -/
def Strike.scored : Strike → Bool
  | .sp .. | .tm .. | .bs .. => true
  | _ => false

/-- A hardware error of 20 R439 happens. -/
def State.strike (s : State) (k : Strike) : State :=
  match k with
  | .hbm a => { s with hbm := s.hbm.poison (a / hbmGran) }
  | .saved r t =>
    s.modRegion r fun g => { g with saved := g.saved.map fun v => { v with lostTiles := v.lostTiles ++ [t] } }
  | .tlb r n => s.modRegion r fun g => { g with trans := g.trans.eraseIdx n }
  | .corrected p c => s.corrected p c
  | _ =>
    match k.bank with
    | some (r, t, b, f) => s.modRegion r fun g => g.modStr t b fun x => { x with bank := f x.bank }
    | none =>
    match k.at_ with
    | none => s
    | some (r, t) =>
      let q := (s.region? r).map fun g => g.physQuad t
      let s := s.modRegion r fun g => g.modTile t fun x => x.spoil k
      match k.scored, q with
      | true, some q => s.suspect q 2
      | _, _ => s

/-! ### Links and the fatal state (20 R439, R450, R464, R465) -/

/-- Whether an outstanding request to a peer is among those that a port loses; the manual does not say. -/
def State.loses (s : State) (id : Nat) : Bool := Config.act (s.seq + id) % 2 = 1

/-- Requests to peers that were under way may get no answer until they are sent again. -/
def State.loseReqs (s : State) (g : Region) : Region :=
  let tgt (h : Home) : Bool := h.target == .peer && !s.ownPeer h
  let toPeer (p : Option Page) : Bool := match p with | some p => tgt (p.home p.base) | none => false
  { g with
    awaits := g.awaits.map fun a => if a.st == .waiting && toPeer a.page && s.loses a.id then { a with lost := true } else a
    items := g.items.map fun i => if i.released && toPeer i.page && s.loses i.id then { i with lost := true } else i
    cmds := g.cmds.map fun c =>
      if (c.st == .sent || c.st == .started) && s.cmdTouches tgt g c && s.loses c.id then { c with lost := true } else c }

/-- PELARO_PORT_DOWN: the port's replay has failed; it retrains, or stays down. -/
def execPelaroPortDown (port : BitVec 5) (retrains : Bool) (s : State) : Out :=
  let s1 := { s with regions := s.regions.map s.loseReqs, seq := s.seq + 1 }
  .next (if retrains then s1.corrected none .link
    else { s1 with dev := { s1.dev with portsUp := s1.dev.portsUp &&& ~~~(1#32 <<< port.toNat) } })

def fatalCode : FatalCase → Cause
  | .dieToDie => 0x330
  | .hostLink => 0x331
  | .network => 0x332
  | .manager => 0x333
  | .management => 0x334

/-- The first 4,096 bytes of the dump (20 R465). -/
def dumpHead (code : Cause) (die : BitVec 2) (ns : Nat) : List Byte :=
  leBytes 4 0x504D5544 ++ leBytes 2 (code + 1024 * die.toNat) ++ leBytes 2 0 ++ leBytes 8 ns ++ List.replicate 4080 0

/-- The 64-byte register block of a queue (13 R330). -/
def queueBlock (u : Queue) : List Byte := (List.range 8).flatMap fun i => leBytes 8 (u.readReg (8 * i)).toNat

/-- A line of the placement table: partition, queue, region, its quads. -/
def placeLine (g : Region) : List Byte :=
  leBytes 1 g.launch.part ++ leBytes 1 g.launch.queue ++ leBytes 6 g.rid ++ leBytes 72 (quadBits g.quads).toNat

/-- A line of the candidate lists. -/
def candLine (p : Part) (c : Cand) : List Byte :=
  leBytes 1 p.conf.num ++ leBytes 1 c.queue ++ leBytes 2 c.level ++ leBytes 4 c.pat.num

/-- How many lines, and the lines. -/
def dumpLines (ls : List (List Byte)) : List Byte := leBytes 8 ls.length ++ ls.flatten

/-- One die's part of the dump from 4,096 on; the manual gives what it holds and no layout (Assumption 42). -/
def State.dumpDie (s : State) (die : Nat) : List Byte :=
  ((List.range 64).flatMap fun i => queueBlock (s.queue (64 * die + i))) ++
    dumpLines ((s.regions.filter Region.holds).map placeLine) ++
    dumpLines (s.parts.flatMap fun p => (s.cands p).map (candLine p)) ++
    dumpLines s.dev.log ++
    (((List.range 576).filter fun q => dieOf q = die).map fun q => BitVec.ofNat 8 (s.dev.score q)) ++
    leBytes 72 s.dev.quar.toNat

/-- The dump: device-owned state alone (20 R465). -/
def State.dump (s : State) (code : Cause) (die : BitVec 2) : List Byte :=
  dumpHead code die s.dev.ns ++ (List.range 4).flatMap s.dumpDie

/-- HOST_LINK_DOWN: this or another fatal case; of cases that arise in one instant the lowest code stands (20 R464). -/
def execHostLinkDown (c : FatalCase) (die : BitVec 2) (s : State) : Out :=
  let hostUp := s.dev.hostUp && c != .hostLink
  match s.dev.stage with
  | .fatal old _ =>
    let d := { s.dev with hostUp := hostUp }
    .next (if s.dev.wall = s.dev.fatalAt ∧ fatalCode c < old then
      { s with
        dev := { d with stage := .fatal (fatalCode c) die }
        hbm := s.hbm.write hbmGran s.dev.dumpArea (clean (dumpHead (fatalCode c) die s.dev.ns)) }
    else { s with dev := d })
  | _ =>
    let d := { s.dev with
      stage := .fatal (fatalCode c) die, portsUp := 0, aerFatal := true, dumpUnread := true, hostUp := hostUp, fatalAt := s.dev.wall }
    .next { s with dev := d, hbm := s.hbm.write hbmGran s.dev.dumpArea (clean (s.dump (fatalCode c) die)) }

end Sys2Proof.Machine
end

