-- ==== Sys2Proof/Machine/Device.lean ====
section
/-! DEFINITION. The management plane: reset, quotes, turnovers, the clock, gating (14 R367; 17 R397 to R405;
20 R457 to R459, R463). -/

namespace Sys2Proof.Machine

/-! ### The configuration record (14 R367) -/

def noCommon (a b : List Nat) : Bool := !a.any fun x => b.contains x

/-- Pairwise without a common number. -/
def allApart : List (List Nat) → Bool
  | [] => true
  | a :: r => r.all (noCommon a) && allApart r

/-- Every number below a bound and named once. -/
def mapOk (n : Nat) (l : List Nat) : Bool := l.all (fun x => decide (x < n)) && decide l.Nodup

/-- One partition's fields within their limits. -/
def partOk (good : BitVec 576) (p : PartRec) : Bool :=
  decide (p.num < 64) && mapOk 576 p.guaranteed && mapOk 576 p.margin && (p.guaranteed ++ p.margin).all (bit576 good) &&
    mapOk 128 p.groups && !p.groups.isEmpty && mapOk 1024 p.slots && decide (p.qf ≤ 64) && mapOk 256 p.queues &&
    !p.queues.isEmpty && decide (1 ≤ p.freeze ∧ p.freeze ≤ 1000000) &&
    decide (p.saveVa < 2 ^ 57 ∧ p.saveVa + p.saveSize ≤ p.groups.length * 2 ^ 33)

/-- The record keeps every limit of R367; else it is refused whole. -/
def recordOk (good : BitVec 576) (ps : List PartRec) : Bool :=
  ps.all (partOk good) && decide (ps.map (·.num)).Nodup && decide (ps.map (·.tenant)).Nodup &&
    allApart (ps.map fun p => p.guaranteed ++ p.margin) && allApart (ps.map (·.groups)) && allApart (ps.map (·.slots)) &&
    allApart (ps.map (·.queues)) && decide ((ps.map (·.wh)).sum ≤ 240 ∧ (ps.map (·.wp)).sum ≤ 240)

/-- A partition as it is created (14 R368; 12 R318; 18 R408, R419). -/
def newPart (c : PartRec) : Part where
  conf := c
  epoch := 0
  genCtr := 1
  transGen := 0
  ctl := 0
  ptroot := 0
  prq := 0
  inval := 0
  invals := []
  pats := []
  table := []
  err := {}
  reqs := []
  prqWait := []
  nextReq := 0
  poisonPages := []
  toldPeers := []
  dropped := []
  fenced := false
  barred := false

/-! ### Signed items (17 R398) -/

/-- An item is accepted whole or not at all: both signatures, under the two fused keys, and a version that is not too old.
Whether a signature verifies is said from outside (Assumption 70). -/
def signedOk (f : Fuses) (x : Signed) : Bool :=
  x.edOk && x.mlOk && sha256 x.edKey == f.edDigest && sha256 x.mlKey == f.mlDigest && decide (f.minVersion ≤ x.version)

/-- The four management firmware images, in die order. -/
def imagesAccepted (f : Fuses) (l : List Signed) : Bool := decide (l.length = 4) && l.all (signedOk f)

/-- Their measurement (17 R399). -/
def imagesHash (l : List Signed) : BitVec 256 := sha256 (l.flatMap (·.bytes))

/-! ### Swatch tests (17 R401; 20 R457) -/

/-- The kernels whose commit signature on a quad differs from the reference in the image. -/
def swatchDiffers (kernels : List (List Byte)) (runs : List SwatchRun) (q : Nat) : List Nat :=
  (List.range kernels.length).filter fun k => runs.any fun x => x.quad = q && x.kernel = k && some x.sig != kernels[k]?

/-- Every reference kernel has run on the quad, as a dual run at level 0 and seed 0, and passed. -/
def swatchPasses (kernels : List (List Byte)) (runs : List SwatchRun) (q : Nat) : Bool :=
  (swatchDiffers kernels runs q).isEmpty &&
    (List.range kernels.length).all fun k => runs.any fun x => x.quad = q && x.kernel = k

/-- A quad does not pass: each kernel that differs adds 8 to its score, and nothing is placed on it until it passes. -/
def State.swatchFail (s : State) (differ : List Nat) (q : Nat) : State :=
  let s := { s with dev := { s.dev with unproved := if s.dev.unproved.contains q then s.dev.unproved else q :: s.dev.unproved } }
  differ.foldl (fun s _ => s.suspect q 8) s

/-- A quad passes; at a turnover its score falls by 1. -/
def State.swatchPass (s : State) (turnover : Bool) (q : Nat) : State :=
  let d := { s.dev with unproved := s.dev.unproved.filter fun x => x ≠ q }
  { s with dev := if turnover then d.setScore q (d.score q - 1) else d }

/-- The test of a partition's good, unquarantined quads. -/
def State.swatch (s : State) (turnover : Bool) (runs : List SwatchRun) (quads : List Nat) : State :=
  (quads.eraseDups.filter s.dev.usable).foldl (fun s q =>
    if swatchPasses s.dev.kernels runs q then s.swatchPass turnover q
    else s.swatchFail (swatchDiffers s.dev.kernels runs q) q) s

/-! ### Device reset (17 R397, R398; 14 R378; 20 R458, R459, R464) -/

/-- HBM4 after training: zero, but for a dump that has not been read. -/
def Dev.keepDump (d : Dev) (m : Mem) : Mem :=
  if d.dumpUnread then
    { cells := m.cells.filter fun c => decide (d.dumpArea ≤ c.1 ∧ c.1 < d.dumpArea + 2 ^ 26)
      bad := m.bad.filter fun k => decide (d.dumpArea ≤ 32 * k ∧ 32 * k < d.dumpArea + 2 ^ 26) }
  else {}

/-- The state in reset: what the outside holds, non-volatile state and the model's own fields stand. -/
def State.inReset (s : State) (b : BootRec) : State :=
  { State.reset with
    dev :=
      { good := b.goodQuads, quar := s.dev.quar ||| b.quarantine, scores := s.dev.scores, unproved := s.dev.unproved
        replace := s.dev.replace, dumpArea := s.dev.dumpArea, dumpUnread := s.dev.dumpUnread, hostUp := false
        fused := some (s.dev.fused.getD b.fuses) }
    nextRid := s.nextRid, hbm := s.hbm, host := s.host, peers := s.peers, quiet := s.quiet
    inputs := s.inputs, strikes := s.strikes, choices := s.choices, seq := s.seq, fresh := s.fresh }

/-- The record without the channel groups that failed training, and the quads whose maps could not be read. -/
def BootRec.usableParts (b : BootRec) : List PartRec :=
  b.parts.map fun p => { p with
    groups := p.groups.filter fun n => !b.badGroups.contains n
    guaranteed := p.guaranteed.filter fun q => !b.badQuads.contains q
    margin := p.margin.filter fun q => !b.badQuads.contains q }

/-- A record that is accepted releases the quads it names, with score 0 (20 R458). -/
def Dev.release (d : Dev) (l : List Nat) : Dev :=
  { d with quar := d.quar &&& ~~~quadBits l, scores := d.scores.filter fun x => !l.contains x.1 }

/-- The replacement request at a reset: it clears where no die is short, and is set where one is (20 R459). -/
def State.renewRequest (s : State) : State :=
  ({ s with dev := { s.dev with replace := s.dev.replace && s.dev.short } } : State).checkShort

/-- Boot from a given reset state: the stages in order, each after the success of the one before. -/
def State.boot (s : State) (b : BootRec) : State :=
  let f := s.dev.fused.getD b.fuses
  if !imagesAccepted f b.images then s else
  let s := { s with dev := { s.dev with stage := .management, fwHash := imagesHash b.images } }
  if !signedOk f b.record || !recordOk b.goodQuads b.parts then s else
  let d := { s.dev with id := b.devId, recHash := sha256 b.record.bytes, badGroups := b.badGroups }
  let s := { s with dev := d.release b.release, hbm := s.dev.keepDump s.hbm }
  let ps := BootRec.usableParts b
  if !recordOk b.goodQuads ps || !b.hostLinkUp || !b.idUnique then s.renewRequest else
  let d := { s.dev with
    hostUp := true, portsUp := b.portsUp, dumpArea := if s.dev.dumpUnread then s.dev.dumpArea else b.dumpArea
    kernels := b.kernels, hostMaps := b.hostMaps }
  let s := { s with dev := d, parts := ps.map newPart }
  let s := s.swatch false b.runs (ps.flatMap fun p => p.guaranteed ++ p.margin)
  ({ s with dev := { s.dev with stage := .up } } : State).renewRequest

/-- DEVICE_RESET. -/
def execDeviceReset (b : BootRec) (s : State) : Out := .next ((s.inReset b).boot b)

/-! ### Quotes (17 R399) -/

/-- The signed bytes of a quote. -/
def State.quoteHead (s : State) (nonce : BitVec 256) : List Byte :=
  let be (x : BitVec 256) : List Byte := (leBytes 32 x.toNat).reverse
  let epoch := match s.part? 0 with | some p => p.epoch.toNat | none => 0
  leBytes 4 0x51544E47 ++ leBytes 2 epoch ++ leBytes 2 0 ++ be nonce ++ be s.dev.fwHash ++ be s.dev.recHash ++
    leBytes 72 s.dev.good.toNat ++ leBytes 72 s.dev.quar.toNat ++ leBytes 4 s.dev.id.toNat ++ leBytes 4 s.dev.replace.toNat

/-- A quote is signed. -/
def State.quoteNow (s : State) (nonce : BitVec 256) : State :=
  let h := s.quoteHead nonce
  { s with dev := { s.dev with quote := h ++ (List.range 3373).map (Config.quoteSig h) } }

/-- The quotes that waited for a turnover's fourth step. -/
def State.quotesDue (s : State) : State :=
  s.dev.nonces.foldl State.quoteNow { s with dev := { s.dev with nonces := [] } }

/-- QUOTE_REQUEST: one that meets a turnover reports the state after its step 4. -/
def execQuoteRequest (nonce : BitVec 256) (s : State) : Out :=
  match s.dev.stage with
  | .management | .up =>
    .next (if s.dev.turning.isSome then { s with dev := { s.dev with nonces := s.dev.nonces ++ [nonce] } } else s.quoteNow nonce)
  | _ => .next s

/-! ### Turnovers (17 R400, R401; 14 R373; 20 R463) -/

/-- The partitions a turnover is of: those masked, but for one whose fence only a reset ends (20 R463). -/
def State.turned (s : State) : List Part := s.parts.filter fun p => s.dev.turn.getLsbD p.conf.num && !p.barred

/-- A queue that has no tenant any more. -/
def Queue.disable (u : Queue) : Queue := { u with ctl := u.ctl &&& ~~~1#64, fwdFor := none, parked := false }

/-- A region of a partition that is turned over is killed (18 R416); one past its final commit with nothing left to decide
posts as it stands. The kill has no cause: the posting names 0 (Assumption 69). -/
def State.killTurned (s : State) (r : Nat) : State :=
  match s.region? r with
  | none => s
  | some g =>
    match g.status with
    | .killed _ => s
    | .final => if g.verdict == .none || g.verdict == .agreed then s else s.kill r 0
    | .running => (s.frog r none).kill r 0
    | _ => s.kill r 0

/-- Step 1 for one partition: its queues, its regions, its requests; borrowed quads go back. -/
def State.vacate (s : State) (p : Part) : State :=
  let n := p.conf.num
  let back (l : Lent) : Lent := if l.owner = n ∨ l.borrower = n then { l with back := true } else l
  let s : State := { s with lent := s.lent.map back }
  let s := p.conf.queues.foldl (fun s q => s.modQueue q Queue.disable) s
  let s := (s.regions.filter fun g => g.launch.part = n).foldl (fun s g => s.killTurned g.rid) s
  s.modPart n fun p => { p with fenced := true, reqs := [], prqWait := [] }

/-- Regions of others on quads that come back are pre-empted. -/
def State.recall (s : State) : State :=
  let back := (s.lent.filter fun l => l.back).map (·.quad)
  let on := s.regions.filter fun g => g.onTiles && g.reclaimAt.isNone && g.quads.any fun q => back.contains q
  ((on.foldl (fun s g => s.evict g.rid) s |> fun s => back.foldl State.emptyQuad s)).returnLent

/-- No byte of a channel group holds anything. -/
def wipe (m : Mem) (groups : List Nat) : Mem where
  cells := m.cells.filter fun c => !groups.contains (c.1 / 2 ^ 33)
  bad := m.bad.filter fun k => !groups.contains (32 * k / 2 ^ 33)

/-- Steps 2 and 3 for one partition. -/
def State.scrub (s : State) (p : Part) : State :=
  let p' : Part := { newPart p.conf with epoch := p.epoch + 1, ptroot := p.ptroot, prq := p.prq, ctl := p.ctl &&& ~~~2#64, fenced := true }
  let s := p.conf.queues.foldl (fun s q => s.modQueue q fun _ => {}) s
  ({ s with
    hbm := wipe s.hbm p.groups
    reserved := s.reserved.filter fun x => decide (x.1 ≠ p.conf.num)
    left := s.left.filter fun g => decide (g.launch.part ≠ p.conf.num) } : State).setPart p'

/-- Step 5 for one partition. -/
def State.readmit (s : State) (t : TurnRec) (p : Part) : State :=
  (s.swatch true t.runs (p.conf.guaranteed ++ p.conf.margin)).modPart p.conf.num fun p => { p with fenced := false }

/-- Step 1 is over: every launch has posted, every lent quad is back. -/
def State.vacated (s : State) : Bool :=
  s.turned.all fun p =>
    !(s.regions.any fun g => g.launch.part = p.conf.num) &&
      !s.lent.any fun l => l.owner = p.conf.num || l.borrower = p.conf.num

/-- Steps 4 and 5: the measurements are of the images as they are now; images that do not verify leave the fence, which
only a reset then ends (20 R463). -/
def State.reattest (s : State) (t : TurnRec) (ps : List Part) : State :=
  let ok : Bool := match s.dev.fused with
    | some f => imagesAccepted f t.images
    | none => false
  let s := { s with dev := { s.dev with
    turning := none, fwHash := imagesHash t.images, kernels := if ok then t.kernels else s.dev.kernels } }
  if ok then ps.foldl (fun s p => s.readmit t p) s.quotesDue
  else
    let s := ps.foldl (fun s p => s.modPart p.conf.num fun p => { p with barred := true }) s
    (s.recordPf 0xFFFF { code := 0x323, kind := 4 }).quotesDue

/-- Steps 2 to 5, once step 1 is over and what steps 4 and 5 find is known. -/
def State.finishTurn (s : State) : State :=
  match s.dev.turning.bind (·.found) with
  | none => s
  | some t => if s.vacated then (s.turned.foldl State.scrub s).reattest t s.turned else s

/-- Step 1 of a turnover. -/
def State.startTurn (s : State) (found : Option TurnRec) : State :=
  let s := (s.turned.foldl State.vacate s).recall
  ({ s with dev := { s.dev with turning := some ⟨found⟩ } } : State).finishTurn

/-- TURNOVER_START: it begins, with what its steps 4 and 5 will find; or that becomes known of one that a write to mg.tgo
has begun (Assumption 71). -/
def execTurnoverStart (t : TurnRec) (s : State) : Out :=
  if s.dev.stage != .up then .next s else
  match s.dev.turning with
  | none => .next (s.startTurn (some t))
  | some ⟨none⟩ => .next ({ s with dev := { s.dev with turning := some ⟨some t⟩ } } : State).finishTurn
  | some ⟨some _⟩ => .next s

/-! ### The physical function's registers, and register writes (17 R405) -/

/-- The physical function's BAR0. A write to mg.turn or mg.tgo while a turnover runs is ignored. -/
def State.writePf0 (s : State) (off : Nat) (v : Word) : State :=
  match off with
  | 0x0000 => { s with dev := { s.dev with clkCap := BitVec.ofNat 5 (min 18 (v.extractLsb' 0 5).toNat) } }
  | 0x00F8 => if s.dev.turning.isSome then s else { s with dev := { s.dev with turn := v } }
  | 0x0100 => if v.getLsbD 0 && s.dev.turning.isNone && s.dev.stage == .up then s.startTurn none else s
  | _ => s

/-- REGISTER_WRITE. Offsets that no table lists, and functions that do not answer, ignore it. -/
def execRegisterWrite (fn bar off : Nat) (v : Word) (s : State) : Out :=
  if fn = 0 then
    if s.dev.stage == .reset then .next s
    else if bar = 0 then .next (s.writePf0 off v)
    else if bar = 2 ∧ 0x1000 ≤ off then .next (s.modErr 0 fun r => r.write off v)
    else .next s
  else match s.vf (fn - 1) with
    | none => .next s
    | some p =>
      if bar = 0 then .next (s.writeVf0 p off v)
      else if bar = 2 then
        .next (if off < 0x1000 then s.setPart (p.writeEntry off v) else s.setPart { p with err := p.err.write off v })
      else .next s

/-! ### The clock and gating (17 R402 to R405) -/

/-- CLOCK_CAP_WRITE: a write to mg.clk; 19 to 31 store 18. -/
def execClockCapWrite (v : Word) (s : State) : Out :=
  if s.dev.stage == .reset then .next s
  else .next { s with dev := { s.dev with clkCap := BitVec.ofNat 5 (min 18 (v.extractLsb' 0 5).toNat) } }

/-- A quad that may be gated: no region, no held storage, no lent state, no pending claim; and no candidate of a partition
that uses it has a placement with it, for a placement comes first. -/
def State.gateable (s : State) (q : Nat) : Bool :=
  decide (q < 576) && !s.dev.gate.getLsbD q && !s.held q && !s.lentOut q && !s.dev.waking.contains q &&
    !(s.regions.any fun g => match g.saved with
      | some v => v.held.any fun h => physQuadOf h.phys = q
      | none => false) &&
    !s.parts.any fun p => s.wants p q (s.freeFor p)

/-- CLOCK_STEP_CHANGE: the firmware takes one of the steps 0 to 18; beyond the cap only where power needs it and every idle
quad is gated already. -/
def execClockStepChange (o : StepChange) (s : State) : Out :=
  if 18 < o.step.toNat || (decide (s.dev.clkCap < o.step) && !(o.needed && !(List.range 576).any s.gateable)) then
    .refused (.notDue "CLOCK_STEP_CHANGE")
  else .next { s with dev := { s.dev with clkStep := o.step } }

/-- QUAD_POWER_GATE: the storage of the quad is zeroed (03 R76). -/
def execQuadPowerGate (q : Nat) (s : State) : Out :=
  if s.gateable q then
    .next { s with
      dev := { s.dev with gate := s.dev.gate ||| (1#576 <<< q) }
      left := s.left.filter fun g => !g.quads.contains q }
  else .refused (.notDue "QUAD_POWER_GATE")

/-- QUAD_WAKE_DONE. -/
def execQuadWakeDone (q : Nat) (s : State) : Out :=
  if s.dev.waking.contains q then
    .next { s with dev := { s.dev with gate := s.dev.gate &&& ~~~(1#576 <<< q), waking := s.dev.waking.filter fun x => x ≠ q } }
  else .refused (.notDue "QUAD_WAKE_DONE")

end Sys2Proof.Machine
end

