-- ==== Sys2Proof/Machine/Dispatch.lean ====
section
/-! DEFINITION. The dispatch: one arm per constructor of Instr. -/

namespace Sys2Proof.Machine

def exec (i : Instr) (s : State) : Host.Outcome State Fault Refusal :=
  match i with
  | .idleBundle x1 x2 => Sys2Proof.Machine.execIdleBundle x1 x2 s
  | .add o => Sys2Proof.Machine.execAdd o s
  | .sub o => Sys2Proof.Machine.execSub o s
  | .and o => Sys2Proof.Machine.execAnd o s
  | .or o => Sys2Proof.Machine.execOr o s
  | .xor o => Sys2Proof.Machine.execXor o s
  | .andn o => Sys2Proof.Machine.execAndn o s
  | .shl o => Sys2Proof.Machine.execShl o s
  | .shr o => Sys2Proof.Machine.execShr o s
  | .sar o => Sys2Proof.Machine.execSar o s
  | .min o => Sys2Proof.Machine.execMin o s
  | .max o => Sys2Proof.Machine.execMax o s
  | .minu o => Sys2Proof.Machine.execMinu o s
  | .maxu o => Sys2Proof.Machine.execMaxu o s
  | .mul o => Sys2Proof.Machine.execMul o s
  | .mulh o => Sys2Proof.Machine.execMulh o s
  | .mulhu o => Sys2Proof.Machine.execMulhu o s
  | .div o => Sys2Proof.Machine.execDiv o s
  | .divu o => Sys2Proof.Machine.execDivu o s
  | .rem o => Sys2Proof.Machine.execRem o s
  | .remu o => Sys2Proof.Machine.execRemu o s
  | .cmpeq o => Sys2Proof.Machine.execCmpeq o s
  | .cmpne o => Sys2Proof.Machine.execCmpne o s
  | .cmplt o => Sys2Proof.Machine.execCmplt o s
  | .cmple o => Sys2Proof.Machine.execCmple o s
  | .cmpltu o => Sys2Proof.Machine.execCmpltu o s
  | .cmpleu o => Sys2Proof.Machine.execCmpleu o s
  | .pand o => Sys2Proof.Machine.execPand o s
  | .por o => Sys2Proof.Machine.execPor o s
  | .pxor o => Sys2Proof.Machine.execPxor o s
  | .pandn o => Sys2Proof.Machine.execPandn o s
  | .sel o => Sys2Proof.Machine.execSel o s
  | .bfx o => Sys2Proof.Machine.execBfx o s
  | .bfxs o => Sys2Proof.Machine.execBfxs o s
  | .bfi o => Sys2Proof.Machine.execBfi o s
  | .clz o => Sys2Proof.Machine.execClz o s
  | .ctz o => Sys2Proof.Machine.execCtz o s
  | .popc o => Sys2Proof.Machine.execPopc o s
  | .agen2 o => Sys2Proof.Machine.execAgen2 o s
  | .li x1 x2 x3 => Sys2Proof.Machine.execLi x1 x2 x3 s
  | .liHi x1 x2 x3 x4 => Sys2Proof.Machine.execLiHi x1 x2 x3 x4 s
  | .rdsr x1 x2 x3 => Sys2Proof.Machine.execRdsr x1 x2 x3 s
  | .wrsr x1 x2 => Sys2Proof.Machine.execWrsr x1 x2 s
  | .rdmb x1 x2 x3 => Sys2Proof.Machine.execRdmb x1 x2 x3 s
  | .nop o => Sys2Proof.Machine.execNop o s
  | .br x1 x2 => Sys2Proof.Machine.execBr x1 x2 s
  | .bri x1 x2 x3 => Sys2Proof.Machine.execBri x1 x2 x3 s
  | .call x1 x2 x3 => Sys2Proof.Machine.execCall x1 x2 x3 s
  | .ret x1 x2 => Sys2Proof.Machine.execRet x1 x2 s
  | .loop x1 x2 => Sys2Proof.Machine.execLoop x1 x2 s
  | .loopr x1 x2 => Sys2Proof.Machine.execLoopr x1 x2 s
  | .lexit o => Sys2Proof.Machine.execLexit o s
  | .fork x1 x2 => Sys2Proof.Machine.execFork x1 x2 s
  | .join o => Sys2Proof.Machine.execJoin o s
  | .jset x1 x2 => Sys2Proof.Machine.execJset x1 x2 s
  | .jclr x1 x2 => Sys2Proof.Machine.execJclr x1 x2 s
  | .jwait x1 x2 => Sys2Proof.Machine.execJwait x1 x2 s
  | .trap x1 x2 => Sys2Proof.Machine.execTrap x1 x2 s
  | .exit o => Sys2Proof.Machine.execExit o s
  | .mark o => Sys2Proof.Machine.execMark o s
  | .markD o => Sys2Proof.Machine.execMarkD o s
  | .barInit x1 x2 x3 x4 => Sys2Proof.Machine.execBarInit x1 x2 x3 x4 s
  | .barArr x1 x2 => Sys2Proof.Machine.execBarArr x1 x2 s
  | .barArrRel x1 x2 => Sys2Proof.Machine.execBarArrRel x1 x2 s
  | .barWait x1 x2 => Sys2Proof.Machine.execBarWait x1 x2 s
  | .barAw x1 x2 => Sys2Proof.Machine.execBarAw x1 x2 s
  | .tlwait x1 x2 x3 => Sys2Proof.Machine.execTlwait x1 x2 x3 s
  | .tlinc x1 x2 x3 x4 => Sys2Proof.Machine.execTlinc x1 x2 x3 x4 s
  | .tlrd x1 x2 x3 => Sys2Proof.Machine.execTlrd x1 x2 x3 s
  | .tlbase x1 x2 x3 x4 => Sys2Proof.Machine.execTlbase x1 x2 x3 x4 s
  | .ldB o => Sys2Proof.Machine.execLdB o s
  | .ldH o => Sys2Proof.Machine.execLdH o s
  | .ldW o => Sys2Proof.Machine.execLdW o s
  | .ldD o => Sys2Proof.Machine.execLdD o s
  | .ldsB o => Sys2Proof.Machine.execLdsB o s
  | .ldsH o => Sys2Proof.Machine.execLdsH o s
  | .ldsW o => Sys2Proof.Machine.execLdsW o s
  | .stB o => Sys2Proof.Machine.execStB o s
  | .stH o => Sys2Proof.Machine.execStH o s
  | .stW o => Sys2Proof.Machine.execStW o s
  | .stD o => Sys2Proof.Machine.execStD o s
  | .ldx o => Sys2Proof.Machine.execLdx o s
  | .stx o => Sys2Proof.Machine.execStx o s
  | .xlate o => Sys2Proof.Machine.execXlate o s
  | .hrel x1 x2 => Sys2Proof.Machine.execHrel x1 x2 s
  | .gld o => Sys2Proof.Machine.execGld o s
  | .gst o => Sys2Proof.Machine.execGst o s
  | .atom o => Sys2Proof.Machine.execAtom o s
  | .atomr o => Sys2Proof.Machine.execAtomr o s
  | .red o => Sys2Proof.Machine.execRed o s
  | .fenceC x1 x2 => Sys2Proof.Machine.execFenceC x1 x2 s
  | .vld o => Sys2Proof.Machine.execVld o s
  | .vst o => Sys2Proof.Machine.execVst o s
  | .vgath o => Sys2Proof.Machine.execVgath o s
  | .vscat o => Sys2Proof.Machine.execVscat o s
  | .vadd o => Sys2Proof.Machine.execVadd o s
  | .vsub o => Sys2Proof.Machine.execVsub o s
  | .vmul o => Sys2Proof.Machine.execVmul o s
  | .vmin o => Sys2Proof.Machine.execVmin o s
  | .vmax o => Sys2Proof.Machine.execVmax o s
  | .vabs o => Sys2Proof.Machine.execVabs o s
  | .vneg o => Sys2Proof.Machine.execVneg o s
  | .vfma o => Sys2Proof.Machine.execVfma o s
  | .vand o => Sys2Proof.Machine.execVand o s
  | .vor o => Sys2Proof.Machine.execVor o s
  | .vxor o => Sys2Proof.Machine.execVxor o s
  | .vshl o => Sys2Proof.Machine.execVshl o s
  | .vshr o => Sys2Proof.Machine.execVshr o s
  | .vsar o => Sys2Proof.Machine.execVsar o s
  | .vadds o => Sys2Proof.Machine.execVadds o s
  | .vsubs o => Sys2Proof.Machine.execVsubs o s
  | .vcmpeq o => Sys2Proof.Machine.execVcmpeq o s
  | .vcmpne o => Sys2Proof.Machine.execVcmpne o s
  | .vcmplt o => Sys2Proof.Machine.execVcmplt o s
  | .vcmple o => Sys2Proof.Machine.execVcmple o s
  | .vsel o => Sys2Proof.Machine.execVsel o s
  | .vmov o => Sys2Proof.Machine.execVmov o s
  | .vbcast o => Sys2Proof.Machine.execVbcast o s
  | .vperm o => Sys2Proof.Machine.execVperm o s
  | .vext o => Sys2Proof.Machine.execVext o s
  | .vins o => Sys2Proof.Machine.execVins o s
  | .vredsum o => Sys2Proof.Machine.execVredsum o s
  | .vredmax o => Sys2Proof.Machine.execVredmax o s
  | .vredmin o => Sys2Proof.Machine.execVredmin o s
  | .vcvt o => Sys2Proof.Machine.execVcvt o s
  | .vqscale o => Sys2Proof.Machine.execVqscale o s
  | .vquant o => Sys2Proof.Machine.execVquant o s
  | .vdq o => Sys2Proof.Machine.execVdq o s
  | .vtbl o => Sys2Proof.Machine.execVtbl o s
  | .lmand o => Sys2Proof.Machine.execLmand o s
  | .lmor o => Sys2Proof.Machine.execLmor o s
  | .lmxor o => Sys2Proof.Machine.execLmxor o s
  | .lmandn o => Sys2Proof.Machine.execLmandn o s
  | .lmset o => Sys2Proof.Machine.execLmset o s
  | .lmpopc o => Sys2Proof.Machine.execLmpopc o s
  | .mma o => Sys2Proof.Machine.execMma o s
  | .mmas o => Sys2Proof.Machine.execMmas o s
  | .mzero x1 x2 => Sys2Proof.Machine.execMzero x1 x2 s
  | .mset x1 x2 x3 x4 => Sys2Proof.Machine.execMset x1 x2 x3 x4 s
  | .mdrain o => Sys2Proof.Machine.execMdrain o s
  | .macc x1 x2 x3 => Sys2Proof.Machine.execMacc x1 x2 x3 s
  | .tmld o => Sys2Proof.Machine.execTmld o s
  | .tmst o => Sys2Proof.Machine.execTmst o s
  | .tmmv x1 x2 x3 => Sys2Proof.Machine.execTmmv x1 x2 x3 s
  | .mrset o => Sys2Proof.Machine.execMrset o s
  | .mcset o => Sys2Proof.Machine.execMcset o s
  | .descSet x1 x2 x3 x4 x5 => Sys2Proof.Machine.execDescSet x1 x2 x3 x4 x5 s
  | .descGet x1 x2 x3 x4 => Sys2Proof.Machine.execDescGet x1 x2 x3 x4 s
  | .engStat x1 x2 x3 => Sys2Proof.Machine.execEngStat x1 x2 x3 s
  | .ceIn o => Sys2Proof.Machine.execCeIn o s
  | .ceOut o => Sys2Proof.Machine.execCeOut o s
  | .ceOutr x1 x2 => Sys2Proof.Machine.execCeOutr x1 x2 s
  | .ceB o => Sys2Proof.Machine.execCeB o s
  | .ceWin o => Sys2Proof.Machine.execCeWin o s
  | .ceGath o => Sys2Proof.Machine.execCeGath o s
  | .ceScat o => Sys2Proof.Machine.execCeScat o s
  | .ceXfer o => Sys2Proof.Machine.execCeXfer o s
  | .ceFill o => Sys2Proof.Machine.execCeFill o s
  | .colRed x1 x2 => Sys2Proof.Machine.execColRed x1 x2 s
  | .colAg o => Sys2Proof.Machine.execColAg o s
  | .colBc o => Sys2Proof.Machine.execColBc o s
  | .colQ o => Sys2Proof.Machine.execColQ o s
  | .colQFree o => Sys2Proof.Machine.execColQFree o s
  | .teLoad x1 x2 x3 x4 x5 => Sys2Proof.Machine.execTeLoad x1 x2 x3 x4 x5 s
  | .teCfg x1 x2 x3 x4 x5 => Sys2Proof.Machine.execTeCfg x1 x2 x3 x4 x5 s
  | .schEnq o => Sys2Proof.Machine.execSchEnq o s
  | .schRaise o => Sys2Proof.Machine.execSchRaise o s
  | .schPost o => Sys2Proof.Machine.execSchPost o s
  | .resultLanding o => Sys2Proof.Machine.execResultLanding o s
  | .storePerform o => Sys2Proof.Machine.execStorePerform o s
  | .remoteLoadSample o => Sys2Proof.Machine.execRemoteLoadSample o s
  | .gldDataArrival x1 x2 => Sys2Proof.Machine.execGldDataArrival x1 x2 s
  | .xlateWalkComplete x1 x2 => Sys2Proof.Machine.execXlateWalkComplete x1 x2 s
  | .atomrResultArrival x1 x2 => Sys2Proof.Machine.execAtomrResultArrival x1 x2 s
  | .homeAtomicApply x1 x2 => Sys2Proof.Machine.execHomeAtomicApply x1 x2 s
  | .globalStorePerformed x1 x2 => Sys2Proof.Machine.execGlobalStorePerformed x1 x2 s
  | .itemRefusal x1 x2 => Sys2Proof.Machine.execItemRefusal x1 x2 s
  | .commit o => Sys2Proof.Machine.execCommit o s
  | .finalCommit o => Sys2Proof.Machine.execFinalCommit o s
  | .launchCompletionPost o => Sys2Proof.Machine.execLaunchCompletionPost o s
  | .barArrivalEffect o => Sys2Proof.Machine.execBarArrivalEffect o s
  | .barrierPhaseComplete o => Sys2Proof.Machine.execBarrierPhaseComplete o s
  | .tlincEffect o => Sys2Proof.Machine.execTlincEffect o s
  | .mailboxApply o => Sys2Proof.Machine.execMailboxApply o s
  | .matrixCommandStart x1 x2 => Sys2Proof.Machine.execMatrixCommandStart x1 x2 s
  | .matrixCommandComplete x1 x2 => Sys2Proof.Machine.execMatrixCommandComplete x1 x2 s
  | .copyCommandCounted x1 x2 => Sys2Proof.Machine.execCopyCommandCounted x1 x2 s
  | .collectiveCounted x1 x2 x3 => Sys2Proof.Machine.execCollectiveCounted x1 x2 x3 s
  | .colQAnswer x1 x2 x3 => Sys2Proof.Machine.execColQAnswer x1 x2 x3 s
  | .tableLoadCounted x1 x2 => Sys2Proof.Machine.execTableLoadCounted x1 x2 s
  | .schedulerFunctionApplied x1 x2 => Sys2Proof.Machine.execSchedulerFunctionApplied x1 x2 s
  | .engineContextCause x1 x2 => Sys2Proof.Machine.execEngineContextCause x1 x2 s
  | .deadlineFault o => Sys2Proof.Machine.execDeadlineFault o s
  | .freezeBudgetExpiry o => Sys2Proof.Machine.execFreezeBudgetExpiry o s
  | .handlerDisposition o => Sys2Proof.Machine.execHandlerDisposition o s
  | .queueDoorbell x1 x2 => Sys2Proof.Machine.execQueueDoorbell x1 x2 s
  | .queueEnable x1 x2 => Sys2Proof.Machine.execQueueEnable x1 x2 s
  | .queueRestart o => Sys2Proof.Machine.execQueueRestart o s
  | .pad o => Sys2Proof.Machine.execPad o s
  | .launch o => Sys2Proof.Machine.execLaunch o s
  | .wait o => Sys2Proof.Machine.execWait o s
  | .waitSatisfied x1 x2 => Sys2Proof.Machine.execWaitSatisfied x1 x2 s
  | .signalTimeline o => Sys2Proof.Machine.execSignalTimeline o s
  | .signalStore o => Sys2Proof.Machine.execSignalStore o s
  | .signalAdd o => Sys2Proof.Machine.execSignalAdd o s
  | .signalPost o => Sys2Proof.Machine.execSignalPost o s
  | .graph o => Sys2Proof.Machine.execGraph o s
  | .graphNodeRun x1 x2 => Sys2Proof.Machine.execGraphNodeRun x1 x2 s
  | .load o => Sys2Proof.Machine.execLoad o s
  | .unload o => Sys2Proof.Machine.execUnload o s
  | .launchPlacement x1 x2 x3 => Sys2Proof.Machine.execLaunchPlacement x1 x2 x3 s
  | .resumption x1 x2 => Sys2Proof.Machine.execResumption x1 x2 s
  | .bankClearDone x1 x2 => Sys2Proof.Machine.execBankClearDone x1 x2 s
  | .dualRunVerdict o => Sys2Proof.Machine.execDualRunVerdict o s
  | .majorityDecision o => Sys2Proof.Machine.execMajorityDecision o s
  | .mailboxWrite x1 x2 x3 => Sys2Proof.Machine.execMailboxWrite x1 x2 x3 s
  | .preemptAll o => Sys2Proof.Machine.execPreemptAll o s
  | .pageAnswerSuccess x1 x2 x3 => Sys2Proof.Machine.execPageAnswerSuccess x1 x2 x3 s
  | .pageAnswerRefused x1 x2 x3 => Sys2Proof.Machine.execPageAnswerRefused x1 x2 x3 s
  | .invalidateAddress x1 x2 => Sys2Proof.Machine.execInvalidateAddress x1 x2 s
  | .invalidateAll o => Sys2Proof.Machine.execInvalidateAll o s
  | .invalidationComplete o => Sys2Proof.Machine.execInvalidationComplete o s
  | .globalReplay o => Sys2Proof.Machine.execGlobalReplay o s
  | .registerWrite x1 x2 x3 x4 => Sys2Proof.Machine.execRegisterWrite x1 x2 x3 x4 s
  | .quadLend x1 x2 => Sys2Proof.Machine.execQuadLend x1 x2 s
  | .quadReclaim o => Sys2Proof.Machine.execQuadReclaim o s
  | .reclaimTimeout o => Sys2Proof.Machine.execReclaimTimeout o s
  | .peerRequest x1 x2 x3 x4 => Sys2Proof.Machine.execPeerRequest x1 x2 x3 x4 s
  | .hostMemAccess x1 x2 x3 => Sys2Proof.Machine.execHostMemAccess x1 x2 x3 s
  | .pelaroRequestResend x1 x2 => Sys2Proof.Machine.execPelaroRequestResend x1 x2 s
  | .peerUnresponsive o => Sys2Proof.Machine.execPeerUnresponsive o s
  | .synthesisedReply x1 x2 => Sys2Proof.Machine.execSynthesisedReply x1 x2 s
  | .pelaroPortDown x1 x2 => Sys2Proof.Machine.execPelaroPortDown x1 x2 s
  | .hostLinkDown x1 x2 => Sys2Proof.Machine.execHostLinkDown x1 x2 s
  | .patrolScrub x1 x2 => Sys2Proof.Machine.execPatrolScrub x1 x2 s
  | .deviceReset o => Sys2Proof.Machine.execDeviceReset o s
  | .quoteRequest o => Sys2Proof.Machine.execQuoteRequest o s
  | .turnoverStart o => Sys2Proof.Machine.execTurnoverStart o s
  | .clockCapWrite o => Sys2Proof.Machine.execClockCapWrite o s
  | .clockStepChange o => Sys2Proof.Machine.execClockStepChange o s
  | .quadPowerGate o => Sys2Proof.Machine.execQuadPowerGate o s
  | .quadWakeDone o => Sys2Proof.Machine.execQuadWakeDone o s
  | .errorOverflowClear o => Sys2Proof.Machine.execErrorOverflowClear o s
  | .errorCounterClear x1 x2 => Sys2Proof.Machine.execErrorCounterClear x1 x2 s
  | .aerStatusClear x1 x2 x3 => Sys2Proof.Machine.execAerStatusClear x1 x2 x3 s
  | .deviceReadmission x1 x2 => Sys2Proof.Machine.execDeviceReadmission x1 x2 s
  | .hostCompletionTimeout x1 x2 => Sys2Proof.Machine.execHostCompletionTimeout x1 x2 s
  | .controlStateLost x1 x2 => Sys2Proof.Machine.execControlStateLost x1 x2 s

end Sys2Proof.Machine
end

