-- ==== Sys2Proof/Machine/Issue.lean ====
section
/-! DEFINITION. The issue of a stream's next bundle: fetching, the issues of its operations and of the sticky
slots, rejection, loop back-edges and transfers (07 R163 to R192; 08 R205 to R213; 19 R431 to R434). -/

namespace Sys2Proof.Machine

/-! ### Fetching (07 R163, R191) -/

/-- What stands at a stream's program counter. -/
inductive Fetch
  | bundle (pc : Nat) (b : Bundle)
  | illegal (pc : Nat) (c : Cause) (slot : Nat)
  | lost
  deriving DecidableEq, Repr

def Region.env (g : Region) (b : Bool) : DecEnv := ⟨!g.pat.split, g.pat.own, some b⟩

/-- An uncorrected word among those fetched (20 R446). -/
def Tile.codeLost (x : Tile) (a n : Nat) : Bool := x.codeBad.any fun w => decide (a ≤ w) && decide (w < a + n)

/-- The header at an offset, if it lies in the code. -/
def Region.header (g : Region) (pc : Nat) : Except Cause Word32 :=
  if pc % 4 ≠ 0 then .error 0x007
  else if g.pat.codeLen ≤ pc then .error 0x006
  else .ok (g.pat.code.getD (pc / 4) 0)

/-- The bundle at an offset. -/
def Region.bundleAt (g : Region) (t : Nat) (b : Bool) (pc : Nat) : Fetch :=
  match g.header pc with
  | .error c => .illegal pc c 7
  | .ok h =>
    if (g.tile t).codeLost (pc / 4) 1 then .lost
    else if (g.tile t).codeLost (pc / 4) (headerLen h) && (chkHeader h).isOk then .lost
    else match decodeBundle (g.env b) (g.pat.code.drop (pc / 4)) with
      | .ok bu => .bundle pc bu
      | .error e => .illegal pc e.cause e.slot

/-- The bundle the stream issues next. After a zero-trip skip or a LEXIT it is the one after the bundle at pc, whose
header gives its length (08 R210, R213). -/
def Region.fetch (g : Region) (t : Nat) (b : Bool) : Fetch :=
  let x := g.str t b
  let pc := x.pc.toNat
  if x.skip then
    match g.header pc with
    | .error c => .illegal pc c 7
    | .ok h =>
      if (g.tile t).codeLost (pc / 4) 1 then .lost
      else match chkHeader h with
        | .error c => .illegal pc c 7
        | .ok _ => g.bundleAt t b (x.pc + BitVec.ofNat 64 (4 * headerLen h)).toNat
  else g.bundleAt t b pc

/-- A stream issues in this sc: it runs, its first bundle is due, it does not wait for a commit, and it has not ended
its rebuild stub before the others (02 R40, R46, R52, R57). -/
def Region.issues (g : Region) (t : Nat) (b : Bool) : Bool :=
  let x := g.str t b
  x.running && decide (x.startAt ≤ g.now) && x.presented.isNone && !(b && !g.pat.split) &&
    !(g.stub && x.resumeAt.isNone)

/-! ### The operations of one issue (07 R166, R167) -/

/-- Apply halt bits: LS, VA, MX. -/
def Stream.halts (x : Stream) (h : BitVec 3) : Stream :=
  { x with
    ls := if h.getLsbD 0 then none else x.ls
    va := if h.getLsbD 1 then none else x.va
    mx := if h.getLsbD 2 then none else x.mx }

/-- The re-issue of an active sticky slot. -/
def Stream.again (x : Stream) (slot : Nat) : Option (Nat × Instr × Option Sticky) :=
  (x.sticky slot).map fun k => (slot, k.op, some { k with n := k.n + 1 })

def isSticky (slot : Nat) : Bool := decide (2 ≤ slot ∧ slot ≤ 4)

/-- What acts in this issue, by slot: the present operations, and re-issues of active sticky slots; a present
LS, VA or MX operation is a re-issue in every issue of its bundle but the first. -/
def Stream.acting (x : Stream) (bu : Bundle) : List (Nat × Instr × Option Sticky) :=
  (List.range 7).filterMap fun slot =>
    match bu.ops.lookup slot with
    | some i => if x.done = 0 || !isSticky slot then some (slot, i, none) else x.again slot
    | none => x.again slot

/-- A bundle with no slot present acts as IDLE_BUNDLE. -/
def idleOf (bu : Bundle) : List (Nat × Instr × Option Sticky) :=
  if bu.ops.isEmpty then [(7, .idleBundle bu.r bu.halt, none)] else []

/-- Whether an operation has stopped the issue: a cause raised, or a freeze. -/
def State.stopped (s : State) (r n : Nat) : Bool :=
  match s.region? r with
  | none => true
  | some g => decide (g.raised.length ≠ n) || g.frozen != .no

/-- Run the operations in slot order. The first that stops decides (19 R432), unless a later one holds the stream
(19 R431): then only what its presentation leaves stands. -/
def runOps (cu : Cursor) (n : Nat) (s0 : State) :
    List (Nat × Instr × Option Sticky) → State → Option State → Out
  | [], s, stop => .next (stop.getD s)
  | (slot, i, ag) :: rest, s, stop =>
    let at_ (s : State) : State := { s with cur := some { cu with slot := slot, again := ag } }
    match exec i (at_ s) with
    | .next s' =>
      if (s'.cur.map (·.held)).getD false then exec i (at_ s0)
      else if s'.stopped cu.r n then runOps cu n s0 rest s (some (stop.getD s'))
      else runOps cu n s0 rest s' stop
    | o => o

/-! ### After an issue (07 R180; 08 R211, R212) -/

/-- The back-edge rule at offset pc: the loop state after it and where the back-edge goes. -/
def backEdge : Nat → Nat → Loops → Bank → Loops × Bank × Option Word
  | 0, _, l, k => (l, k, none)
  | f + 1, pc, l, k =>
    if l.depth = 0 then (l, k, none)
    else
      let i := l.depth - 1
      if (l.ends[i]?.getD 0).toNat ≠ pc then (l, k, none)
      else
        let c := k.lc[i]?.getD 0
        if c ≠ 0 then (l, { k with lc := k.lc.setIfInBounds i (c - 1) }, some (l.starts[i]?.getD 0))
        else backEdge f pc { l with depth := i } k

/-- One bundle of a pending transfer's delay has issued. -/
def Pend.tick (p : Pend) : Pend := { p with left := p.left - 1 }

/-- Go on to the next bundle: code order, a back-edge, or the target of a transfer whose delay bundles have issued. Where
a zero-trip LOOP stands in the end bundle of an outer level, R210's next bundle is taken, and the outer level's counter
still changes as R211 has it (Assumption 62). -/
def Stream.advance (x : Stream) (pc len : Nat) : Stream :=
  let (l, k, back) := backEdge 5 pc x.loops x.bank
  let pend := x.pend.map Pend.tick
  let go := pend.find? fun p => p.left = 0
  { x with
    done := match go with
      | some p => p.done
      | none => 0
    loops := l
    bank := k
    pend := pend.filter fun p => decide (p.left ≠ 0)
    pc := match go with
      | some p => p.target
      | none => back.getD (BitVec.ofNat 64 (pc + 4 * len))
    skip := match go with
      | some p => p.after
      | none => false }

/-- One issue of the bundle is over; after the last one the stream goes on. -/
def Stream.issued (x : Stream) (pc : Nat) (bu : Bundle) : Stream :=
  let x := { x with waitFrom := none, arrived := false }
  if x.done < bu.r.toNat then { x with done := x.done + 1, pc := BitVec.ofNat 64 pc, skip := false }
  else x.advance pc bu.len

/-! ### Stream B in twin mode (02 R43, R44; 19 R435) -/

/-- What an effect with a fixed sc adds to the signature: register, predicate and counter writes, memory addresses and
stored data. Values count; whether they are poisoned does not. -/
def Flight.words : Flight → List Nat
  | .scalar d la x => [1, (d.map fun d => (encSD d).toNat + 1).getD 0, (la.map fun l => (encS (.latch l)).toNat).getD 0, x.bits.toNat]
  | .pred d la x => [2, d.toNat, (encS (.latch la)).toNat, x.bit.toNat]
  | .mask d bits wr _ => [3, d.toNat, bits.toNat, wr.toNat]
  | .vec .. => []
  | .mxmask c d x => [4, c.toNat, d.toNat, x.bits.toNat]
  | .tb d x => [5, d.toNat, x.bits.toNat]
  | .handle n h => [6, n.toNat, h.va]
  | .store t ps => 7 :: t :: ps.flatMap fun p => p.1 :: p.2.map (·.1.toNat)
  | .sample t a n _ _ _ => [8, t, a, n]
  | .arrive b _ => [9, b.toNat]
  | .phase b => [10, b.toNat]
  | .inc t n amt => [11, t, n.toNat, amt.toNat]

/-- What an effect at the end of the sc adds. -/
def EndOp.words : EndOp → List Nat
  | .jset n => [1, n.toNat]
  | .jclr n => [2, n.toNat]
  | .exit => [3]
  | .fork p ks => 4 :: p.toNat :: ks.toList.map (·.bits.toNat)
  | .barInit b sc n => [5, b.toNat, sc.code.toNat, n]
  | .tabLoad t a => [6, t.toNat, a]
  | .tabCfg t c => [7, t.toNat, c.lowPol.toNat, c.highPol.toNat, c.consts.toNat]
  | .mset n v => [8, n.toNat, v.bits.toNat]
  | .descSet d p a b => [9, d.toNat, p.toNat, a.bits.toNat, b.bits.toNat]

/-- What the stream itself adds: where it goes next, its loops, its address operands. -/
def Stream.words (x : Stream) : List Nat :=
  [x.pc.toNat, x.skip.toNat, x.done] ++ (x.pend.flatMap fun p => [p.left, p.target.toNat, p.after.toNat]) ++
    (x.loops.depth :: x.loops.starts.toList.map (·.toNat)) ++ x.loops.ends.toList.map (·.toNat) ++
    x.bank.lc.toList.map (·.toNat) ++
    [x.ls, x.va, x.mx].flatMap fun k => (k.map fun k => k.n :: k.addrs.map (·.bits.toNat)).getD [0]

/-- A causes words: the outcome of the issue checks (19 R435). -/
def causeWords (ras : List Raise) : List Nat := ras.flatMap fun ra => [ra.cause, ra.slot]

/-- The committed effects of one issue of stream A of a tile, between the region before it and after it (02 R44): results,
items, commands, matrix commands, awaited results, causes, effects at the end of the sc, the stream. -/
def Region.effects (g g' : Region) (t : Nat) : List Nat :=
  ((g'.flights.drop g.flights.length).flatMap fun f => keySlot f.key :: f.what.words) ++
  ((g'.items.filter fun i => !g.items.any fun x => x.id = i.id).flatMap fun i => i.va :: i.bytes.map (·.toNat)) ++
  ((g'.cmds.filter fun c => !g.cmds.any fun x => x.id = c.id).flatMap fun c =>
    [c.ctr, c.a.toNat, c.b.toNat] ++ c.desc.toList.map (·.bits.toNat)) ++
  (((g'.tile t).mxq.drop (g.tile t).mxq.length).flatMap fun c => [c.addrA.toNat, c.addrB.toNat]) ++
  ((g'.awaits.filter fun a => !g.awaits.any fun x => x.id = a.id).map (·.addr)) ++
  causeWords (g'.raised.drop g.raised.length) ++
  ((g'.endEffs.drop g.endEffs.length).flatMap fun e => e.op.words) ++
  (g'.str t false).words

/-- Stream A has issued a bundle in twin mode: its effects join its signature, and stream B issues the bundle 2 sc
later. `s` is the state the issue met. -/
def State.trace (s' s : State) (g : Region) (t pc : Nat) (bu : Bundle) : State :=
  match s'.region? g.rid with
  | none => s'
  | some g' =>
    let sig := Config.foldSig (g'.str t false).sig (g.effects g' t)
    { s'.setRegion (g'.modStr t false fun x => { x with sig := sig }) with
      twins := s'.twins ++ [{ due := g.now + 2, tile := t, pc := pc, bu := bu, sig := sig, env := g, wall := s.dev.wall, fresh := s.fresh }] }

/-- Stream B in stream A's place: its own scalar registers, predicates, lane masks, loops, latches, handles, bases and
address operands; the vector registers and matrix masks, which it has none of, are A's. -/
def Stream.standIn (b a : Stream) : Stream :=
  { a with
    bank := { b.bank with v := a.bank.v, mr := a.bank.mr, mc := a.bank.mc }
    loops := b.loops, pend := b.pend, done := b.done, ls := b.ls, va := b.va, mx := b.mx, sig := b.sig }

/-- Stream B after an issue made in stream A's place. -/
def Stream.steppedOut (a b : Stream) : Stream :=
  { a with
    bank := { a.bank with v := b.bank.v, mr := b.bank.mr, mc := b.bank.mc }
    bankNo := b.bankNo, running := b.running, startAt := b.startAt, presented := none, waitFrom := none, arrived := false
    srpos := b.srpos, srNext := b.srNext }

/-! ### The issue of a stream -/

/-- The bundle is rejected whole: the region is as before but for the cause or the freeze (07 R192; 19 R433). -/
def rejected (g0 : Region) (s0 s : State) : State :=
  match s.region? g0.rid with
  | none => s0
  | some g => s0.setRegion { g0 with raised := g.raised, frozen := g.frozen }

def presence (bu : Bundle) : BitVec 7 := BitVec.ofNat 7 ((bu.ops.map fun p => 2 ^ p.1).sum)

def cursorOf (bu : Bundle) (r t : Nat) (b : Bool) (pc : Nat) : Cursor where
  r := r
  t := t
  b := b
  slot := 7
  again := none
  offset := BitVec.ofNat 64 pc
  len := 4 * bu.len
  present := presence bu
  held := false

/-- Issue a fetched bundle. -/
def issueBundle (s : State) (g : Region) (t : Nat) (b : Bool) (pc : Nat) (bu : Bundle) : Out :=
  let cu := cursorOf bu g.rid t b pc
  let g1 := if (g.str t b).done = 0 then g.modStr t b fun x => x.halts bu.halt else g
  let s1 := s.setRegion g1
  match runOps cu g.raised.length s ((g1.str t b).acting bu ++ idleOf bu) s1 none with
  | .next s2 =>
    let s3 := { s2 with cur := none }
    if (s2.cur.map (·.held)).getD false then .next s3
    else if s2.stopped g.rid g.raised.length then .next (rejected g s s3)
    else
      let s4 := s3.modRegion g.rid fun g => g.modStr t b fun x => x.issued pc bu
      .next (if g.pat.split then s4 else s4.trace s g t pc bu)
  | o => o

/-- Stream B makes the issue (02 R43): A's bundle, on B's own copies, in what A's issue met; nothing it would send to
another unit is sent. What A0, A1 and CT write goes to B's registers; a signature that then differs from A's is noted,
and so is any cause B's checks would raise (19 R435). -/
def State.twinIssue (s : State) (r : Nat) (k : TwinRec) : State :=
  match s.region? r with
  | none => s
  | some g =>
    let b := g.str k.tile true
    let e : Region := { k.env.modStr k.tile false b.standIn with awaits := [], raised := [], frozen := .no }
    let s0 : State := { s.setRegion e with fresh := k.fresh, dev := { s.dev with wall := k.wall }, cur := none }
    match issueBundle s0 e k.tile false k.pc k.bu with
    | .next s1 =>
      match s1.region? r with
      | none => s
      | some e' =>
        let a := e'.str k.tile false
        let sig := if e'.raised.isEmpty then a.sig else Config.foldSig b.sig (causeWords e'.raised)
        let own := (e'.flights.drop e.flights.length).filter fun f => f.what.isReg && twinSlot (keySlot f.key)
        let flights := own.map fun f => { f with due := k.due + (f.due - e.now), iss := k.due, strB := true }
        let g := g.modStr k.tile true fun b => { a.steppedOut b with sig := sig }
        let g := if sig = k.sig then g else g.modTile k.tile fun x => { x with twinBad := true }
        s.setRegion { g with flights := g.flights ++ flights }
    | _ => s

/-- The issues of stream B that are due by a sc, in their order. -/
def State.twinIssues (s : State) (r due : Nat) : State :=
  let now := s.twins.filter fun k => k.env.rid = r && isDue due k.due
  let s : State := { s with twins := s.twins.filter fun k => !(k.env.rid = r && isDue due k.due) }
  now.foldl (fun s k => s.twinIssue r k) s

/-- One sc of a stream: its next bundle issues, or raises the cause of its decoding, or nothing happens. -/
def issueStream (s : State) (r t : Nat) (b : Bool) : Out :=
  match s.region? r with
  | none => .next s
  | some g =>
    if !g.issues t b then .next s
    else
      match g.fetch t b with
      | .bundle pc bu => issueBundle s g t b pc bu
      | .illegal pc c slot =>
        .next (s.setRegion { g with raised := g.raised ++ [⟨c, true, t, b, slot, pc, 0, none, none⟩] })
      | .lost => .next (s.setRegion (g.raiseEvent t b 0x30C 0 none none))

end Sys2Proof.Machine
end

