-- ==== Sys2Proof/Machine/Acts.lean ====
section
/-! DEFINITION. What may happen next between two tile clock cycles: outside events still to come, hardware errors,
and the acts of engines, homes, walks, the scheduler and the region manager (02 R39; 05 R121). Which comes next is
open (Assumption 2). -/

namespace Sys2Proof.Machine

/-- An act, built from what is left of the number that chose it. -/
abbrev Act := Nat → Instr

def plain (i : Instr) : Act := fun _ => i

def placeNo (n : Nat) : Place := allPlaces.getD (n % allPlaces.length) ⟨0, 0, 0⟩

def mkPlacement (c : CandRef) (dual : Bool) : Act := fun n =>
  .launchPlacement c (placeNo n) (if dual then some (placeNo (n / allPlaces.length)) else none)

/-! ### Acts of one region -/

def awaitActs (r : Nat) (a : Await) : List Act :=
  [plain (.gldDataArrival r a.id), plain (.xlateWalkComplete r a.id), plain (.atomrResultArrival r a.id),
   plain (.itemRefusal r ⟨a.id, none⟩), plain (.synthesisedReply r a.id), plain (.pelaroRequestResend r a.id)]

def itemActs (r : Nat) (i : Item) : List Act :=
  [plain (.globalStorePerformed r i.id), plain (.homeAtomicApply r i.id), plain (.itemRefusal r ⟨i.id, none⟩),
   plain (.synthesisedReply r i.id), plain (.pelaroRequestResend r i.id)]

def cmdActs (r : Nat) (c : Cmd) : List Act :=
  [plain (.copyCommandCounted r c.id), plain (.collectiveCounted r c.id []), plain (.colQAnswer r c.id none),
   plain (.tableLoadCounted r c.id), plain (.schedulerFunctionApplied r c.id),
   plain (.engineContextCause r ⟨c.id, none⟩), plain (.synthesisedReply r c.id), plain (.pelaroRequestResend r c.id)]

def regionActs (g : Region) : List Act :=
  let r := g.rid
  (g.awaits.filter fun a => a.st == .waiting).flatMap (awaitActs r) ++
    (g.items.filter (·.released)).flatMap (itemActs r) ++ g.cmds.flatMap (cmdActs r) ++
    (match g.status with
     | .final | .killed _ => [plain (.launchCompletionPost r), plain (.dualRunVerdict r), plain (.majorityDecision r),
         mkPlacement (.third r) false, mkPlacement (.rerun r) false]
     | .interrupted _ => [plain (.handlerDisposition r), mkPlacement (.handler r) false]
     | .saved => [fun n => .resumption r (placeNo n)]
     | _ => [])

/-! ### Acts of one queue -/

def nodeActs (q : Nat) (n : Node) (i : Nat) : List Act :=
  match n.st with
  | .idle => []
  | .runnable => [plain (.graphNodeRun q i)]
  | .running => [plain (.waitSatisfied q (some i)), plain (.graphNodeRun q i),
      mkPlacement (.node q i) (Packet.dual ⟨.launch, n.pkt⟩)]

def queueActs (q : Nat) (u : Queue) : List Act :=
  [plain (.pad q), plain (.launch q), plain (.wait q), plain (.waitSatisfied q none), plain (.signalTimeline q),
   plain (.signalStore q), plain (.signalAdd q), plain (.signalPost q), plain (.graph q), plain (.load q), plain (.unload q)] ++
    (if u.head == .launch then [mkPlacement (.head q) (Packet.dual ⟨.launch, u.pkt⟩)] else []) ++
    (match u.graph with
     | some r => (r.nodes.zipIdx).flatMap fun (n, i) => nodeActs q n i
     | none => [])

def partActs (s : State) (p : Part) : List Act :=
  p.conf.queues.flatMap (fun q => queueActs q (s.queue q)) ++ (p.invals.map fun _ => plain (.invalidationComplete p.conf.num)) ++
    p.conf.margin.flatMap fun q => s.parts.map fun b => plain (.quadLend q b.conf.num)

/-- The acts of a device that is up; in the fatal state only what was released goes on. -/
def State.acts (s : State) : List Act :=
  match s.dev.stage with
  | .up =>
    s.regions.flatMap regionActs ++ s.parts.flatMap (partActs s) ++ (s.jobs.map fun j => plain (.bankClearDone j.x j.y)) ++
      (s.dev.waking.map fun q => plain (.quadWakeDone q)) ++ (s.lent.map fun l => plain (.quadReclaim l.quad))
  | .fatal .. => s.regions.flatMap fun g => (g.items.filter (·.released)).flatMap (itemActs g.rid)
  | _ => []

/-! ### Outside events -/

/-- The rows that come from outside the device or from its management; a home's refusal of its own comes from the home
(19 R437). -/
def isOutside : Instr → Bool
  | .itemRefusal _ ⟨_, some _⟩ | .engineContextCause _ ⟨_, some _⟩ => true
  | .collectiveCounted .. | .colQAnswer .. | .queueDoorbell .. | .queueEnable .. | .queueRestart .. | .mailboxWrite ..
  | .preemptAll .. | .pageAnswerSuccess .. | .pageAnswerRefused .. | .invalidateAddress .. | .invalidateAll ..
  | .globalReplay .. | .registerWrite .. | .quadReclaim .. | .peerRequest .. | .hostMemAccess .. | .peerUnresponsive ..
  | .pelaroPortDown .. | .hostLinkDown .. | .patrolScrub .. | .deviceReset .. | .quoteRequest .. | .turnoverStart ..
  | .clockCapWrite .. | .clockStepChange .. | .quadPowerGate .. | .errorOverflowClear .. | .errorCounterClear ..
  | .aerStatusClear .. | .deviceReadmission .. | .hostCompletionTimeout .. | .controlStateLost .. => true
  | _ => false

/-- The management plane takes quads from a partition. -/
def takesQuads : Instr → Bool
  | .quadReclaim .. | .turnoverStart .. => true
  | .registerWrite 0 0 off _ => off == 0x0100
  | _ => false

/-- The next outside event may come: what the management plane does to quads comes before what the scheduler does in the
same instant, and so in an instant in which nothing has been placed yet (01 R25). -/
def State.inputDue (s : State) : Bool :=
  match s.inputs with
  | [] => false
  | i :: _ => !(s.dev.placed && takesQuads i)

/-- What can be chosen between two cycles; `piece` is a part of an access or of a command's transfer (05 R122). -/
inductive Pick
  | tick
  | input
  | strike
  | act (i : Instr)
  | piece (r id n : Nat)
  deriving DecidableEq, Repr

/-- The accesses of a region that are made piece by piece. -/
def regionPieces (g : Region) : List (Nat → Pick) :=
  let ids := ((g.awaits.filter fun a => a.st == .waiting).map (·.id)) ++ ((g.items.filter (·.released)).map (·.id)) ++
    g.cmds.map (·.id)
  ids.map fun id n => .piece g.rid id n

def State.pieces (s : State) : List (Nat → Pick) :=
  match s.dev.stage with
  | .up | .fatal .. => s.regions.flatMap regionPieces
  | _ => []

def State.menu (s : State) : List (Nat → Pick) :=
  (if s.inputDue then [fun _ => .input] else []) ++ (if s.strikes.isEmpty then [] else [fun _ => .strike]) ++
    (s.acts.map fun a n => .act (a n)) ++ s.pieces

/-- Number 0, or any number where nothing else can be chosen, is the tile clock's next cycle. -/
def pickOf (m : List (Nat → Pick)) (n : Nat) : Pick :=
  match n % (m.length + 1) with
  | 0 => .tick
  | k + 1 => match m[k]? with
    | some f => f (n / (m.length + 1))
    | none => .tick

/-- The choice: the model's own list first, then the oracle; where only a tick is left nothing is asked. -/
def State.choose (s : State) : Pick × State :=
  let m := s.menu
  if m.isEmpty then (.tick, s) else
  match s.choices with
  | n :: rest => (pickOf m n, { s with choices := rest })
  | [] => (pickOf m (Config.act s.seq), { s with seq := s.seq + 1 })

end Sys2Proof.Machine
end

