-- ==== Sys2Proof/Machine/Cycle.lean ====
section
/-! DEFINITION. A tile clock cycle: what comes between two of them, and a region's part in one: what takes effect in
its sc, whether it freezes or meets a cause, the issue of its streams, its commit (02 R36 to R40, R46 to R53; 05 R117,
R118; 09 R240; 18 R407, R411, R415, R423). -/

namespace Sys2Proof.Machine

/-! ### The order of regions within a cycle -/

def leastAbove (r : Nat) : List Nat → Option Nat
  | [] => none
  | n :: l =>
    match leastAbove r l with
    | none => if r < n then some n else none
    | some m => if r < n ∧ n < m then some n else some m

/-- The region's part of the cycle is over. -/
def State.goOn (s : State) (r : Nat) : State :=
  { s with phase := match leastAbove r (s.regions.map (·.rid)) with
      | some n => .land n
      | none => .idle }

def State.firstRegion (s : State) : Phase :=
  match s.regions.map (·.rid) with
  | [] => .idle
  | n :: l => .land (l.foldl min n)

/-! ### Between two cycles -/

/-- A queue's deficit over one cycle: each region that holds its tiles is charged (13 R350). -/
def State.drain (s : State) : State :=
  let cost (q : Nat) : Nat := ((s.regions.filter fun g => g.holds && g.launch.queue = q).map fun g => g.pat.w * g.pat.h).sum
  let wants : List Nat := s.parts.flatMap fun p => (s.cands p).map (·.queue)
  let busy (q : Nat) : Bool := wants.contains q || s.regions.any fun g => g.holds && g.launch.queue = q
  { s with queues := s.queues.mapFinIdx fun q u _ =>
      { u with deficit := if busy q then u.deficit - (cost q : Int) else 0 } }

/-- A parked region that is to be pre-empted is saved at once (18 R417; Assumption 61). -/
def State.convert (s : State) : State :=
  let ask (g : Region) : Bool := g.preempt && (match g.status with | .parked _ => true | _ => false)
  (s.regions.filter ask).foldl (fun s g => s.startSave g.rid none) s

/-- The next tile clock cycle begins. -/
def State.tick (s : State) : State :=
  let s := { s with dev := { s.dev with wall := s.dev.wall + s.dev.period, placed := false } }
  if s.dev.stage == .up then
    let s := (s.convert.preemptDone.returnLent.finishTurn).drain
    { s with phase := s.firstRegion }
  else s

/-- An act or outside event that is not due does nothing. -/
def settleOut (s : State) : Out → Out
  | .refused _ => .next s
  | o => o

def idleStep (s0 : State) : Out :=
  let (p, s) := s0.choose
  match p with
  | .tick => .next s.tick
  | .input =>
    match s.inputs with
    | [] => .next s
    | i :: rest =>
      let s := { s with inputs := rest }
      if isOutside i then settleOut s (exec i s) else .next s
  | .strike =>
    match s.strikes with
    | [] => .next s
    | k :: rest => .next (({ s with strikes := rest } : State).strike k)
  | .act i => settleOut s (exec i s)
  | .piece r id n => .next (s.piece r id n)

/-! ### What is due in an sc -/

/-- The matrix command that completes next: its completion sc, its place in the order, its tile. -/
def Region.nextDone (g : Region) : Option (Nat × Nat × Nat) :=
  if g.stub then none else
  ((List.range g.tiles.length).filterMap fun t => (g.mxDone t).map fun c => (c.fin, c.key, t)).foldl
    (fun m x => match m with
      | none => some x
      | some y => if x.1 < y.1 ∨ (x.1 = y.1 ∧ x.2.1 < y.2.1) then some x else some y) none

/-- Writes to storage of the sc: stores and matrix completions, in the order of their issue (02 R37). -/
def Region.dueWrite (g : Region) : Option Instr :=
  match g.dueFly Flight.isStore, g.nextDone with
  | some f, some (fin, key, t) =>
    if f.due < fin ∨ (f.due = fin ∧ f.key < key) then some (.storePerform g.rid) else some (.matrixCommandComplete g.rid t)
  | some _, none => some (.storePerform g.rid)
  | none, some (_, _, t) => some (.matrixCommandComplete g.rid t)
  | none, none => none

/-- What takes effect at the start of the sc, one at a time. -/
def Region.dueNow (g : Region) : Option Instr :=
  match g.dueWrite with
  | some i => some i
  | none =>
    if (g.dueFly Flight.isReg).isSome || g.dueAwait.isSome then some (.resultLanding g.rid)
    else if (g.dueFly Flight.isPhase).isSome then some (.barrierPhaseComplete g.rid)
    else if (g.dueFly Flight.isArrive).isSome then some (.barArrivalEffect g.rid)
    else if (g.dueFly Flight.isInc).isSome then some (.tlincEffect g.rid)
    else none

/-- What reads in the sc, once it is known that the region does not freeze in it. -/
def Region.dueRead (g : Region) : Option Instr :=
  if !g.stub && !g.mailPend.isEmpty then some (.mailboxApply g.rid)
  else if (g.dueFly Flight.isSample).isSome then some (.remoteLoadSample g.rid)
  else if g.stub then none
  else ((List.range g.tiles.length).find? fun t => (g.mxDue t).isSome).map fun t => .matrixCommandStart g.rid t

/-! ### Freezing (02 R38; 11 R285; 18 R415, R423) -/

/-- The head of a matrix queue waits on a counter: the parked command it waits for, if it is parked. -/
def Region.headWait (g : Region) : Option (Option Raise) :=
  if g.stub then none else
  (List.range g.tiles.length).findSome? fun t =>
    match (g.tile t).mxHead with
    | some c => if (g.tile t).mxWaitMet c then none else some (c.wait.bind fun w => g.nextParked t w.1)
    | none => none

/-- A commit of this sc waits for a result from outside. -/
def Region.commitWaits (g : Region) : Bool :=
  g.raised.isEmpty && (g.commitDue || g.finished) &&
    g.commitAwaits

/-- One more frozen cycle. -/
def Region.stayFrozen (g : Region) (period : Nat) : Region :=
  { g with frozen := match g.frozen with
      | .wait n => .wait (n + period)
      | _ => .wait period }

/-- Stream B's results up to a sc land. -/
def Region.landTwin (g : Region) (due : Nat) : Region :=
  let mine := g.flights.filter fun f => f.strB && f.what.isReg && isDue due f.due
  (mine.foldr insertFly []).foldl (fun g f => g.landReg f) g

/-- Within a commit's freeze stream B completes its comparison of every bundle through the commit's sc (20 R444): its
results and issues of the next 2 sc. -/
def State.twinComplete (s : State) (g : Region) : State :=
  [0, 1, 2].foldl (fun s i => (s.modRegion g.rid fun g => g.landTwin (g.now + i)).twinIssues g.rid (g.now + i)) s

/-- The commit of the sc, or the final commit. -/
def Region.atCommit (g : Region) : Bool := g.commitDue || g.finished

/-- The end of the issue of an sc: in twin mode stream B's issue, then the effects at the end of the sc, and at a commit
the rest of stream B's comparison. -/
def State.closeSc (s : State) (g : Region) : State :=
  let s := (if g.pat.split then s else s.twinIssues g.rid g.now).modRegion g.rid Region.endSc
  if !g.pat.split && ((s.region? g.rid).getD g).atCommit then s.twinComplete g else s

/-- The issue of the sc, tried: what it would raise, whether it would freeze. -/
def State.trial (s : State) (g : Region) : Region :=
  let s' := g.streams.foldl (fun s p => match issueStream s g.rid p.1 p.2 with | .next s' => s' | _ => s)
    (s.setRegion { g with frozen := .no })
  ((s'.closeSc g).region? g.rid).getD g

def Region.twinFound (g : Region) : Bool := !g.pat.split && g.tiles.any (·.twinBad)

/-- A commit's twin check comes before the datapath causes of its own sc (20 R444): where only such causes stand and the
signatures disagree, the commit raises the cause. -/
def Region.twinFirst (g : Region) : Bool :=
  g.atCommit && g.twinFound && g.raised.all fun ra => ra.cause = 0x382 || ra.cause = 0x383

/-- Why the region does not count this cycle: a wait from outside, or a parked command to park on. -/
def Region.freezes (g t : Region) : Frozen :=
  match t.frozen, g.headWait with
  | .parked c, _ => .parked c
  | _, some (some c) => .parked c
  | .wait _, _ => .wait 0
  | .no, some none => .wait 0
  | .no, none => if t.commitWaits then .wait 0 else .no

/-- A region that would freeze on a parked command frogs and parks under its cause, and is released with it. -/
def State.parkOn (s : State) (g : Region) (c : Raise) : State :=
  let s := if c.cause = 0x101 then
      s.pageRequest g.launch.part c.va g.launch.gen (.region g.rid) 1 0xFF g.launch.ordinal.toNat c.tile
    else s
  (s.frog g.rid (some c.cause)).act g.rid c .park 0

/-- A frozen cycle: counted against the budget, or past it. -/
def State.frozenCycle (s : State) (g : Region) : Out :=
  if s.frozenOut g then exec (.freezeBudgetExpiry g.rid) s
  else .next ((s.setRegion (g.stayFrozen s.dev.period)).goOn g.rid)

/-! ### The region's part of a cycle -/

/-- A region starts once its banks are cleared and its quads are awake (03 R72; 17 R403). -/
def State.ready (s : State) (g : Region) : Bool :=
  !(bankJobs g).any (fun j => s.jobs.contains j) && !g.quads.any fun q => s.dev.gate.getLsbD q

/-- One sc is counted; the first of a stitch follows its commit (02 R36, R53). -/
def Region.advance (g : Region) : Region :=
  if g.sc < g.ckpt.sc then { g with sc := g.ckpt.sc, gaugeN := 0, frozen := .no }
  else { g with sc := g.sc + 1, gaugeN := g.gaugeN + 1, frozen := .no }

def Region.firstIssue (g : Region) : Phase := .issue g.rid 0 false

/-- A reclaim has waited its 100 us (14 R373). -/
def State.reclaimDue (s : State) (g : Region) : Bool :=
  match g.reclaimAt with
  | some t => g.committing == .none && decide (t + reclaimWait ≤ s.dev.wall)
  | none => false

/-- After everything due has taken effect: causes that stand raised, a freeze, the sc's reads, the issue. -/
def State.enterSc (s : State) (g : Region) : Out :=
  let t := s.trial g
  if !g.raised.isEmpty && !t.twinFirst then
    .next ((match pickRaise t.raised with | some ra => s.takeCause g.rid ra | none => s).goOn g.rid)
  else match g.freezes t with
    | .parked c => .next ((s.parkOn g c).goOn g.rid)
    | .wait _ => s.frozenCycle g
    | .no =>
      match if t.twinFirst then none else pickRaise t.raised with
      | some ra => .next ((s.takeCause g.rid ra).goOn g.rid)
      | none =>
        let s := s.setRegion { g with frozen := .no }
        match g.dueRead with
        | some i => exec i s
        | none => .next { s with phase := g.firstIssue }

def landStep (r : Nat) (s : State) : Out :=
  match s.region? r with
  | none => .next (s.goOn r)
  | some g =>
    if !g.runs || s.dev.stage != .up then .next (s.goOn r)
    else if s.reclaimDue g then exec (.reclaimTimeout r) s
    else if g.committing != .none then
      match g.applied, pickRaise g.raised with
      | true, some ra => .next ((s.takeCause r ra).goOn r)
      | _, _ => s.frozenCycle g
    else if g.sc < g.ckpt.sc then .next (s.setRegion g.advance)
    else if !s.ready g then .next (s.goOn r)
    else match g.dueNow with
      | some i => exec i s
      | none => if g.late then exec (.deadlineFault r) s else s.enterSc g

/-- The stream that issues after another in the same sc. -/
def nextStream : List (Nat × Bool) → Nat × Bool → Option (Nat × Bool)
  | a :: b :: l, p => if a = p then some b else nextStream (b :: l) p
  | _, _ => none

/-- The phase after a stream has issued. -/
def State.afterIssue (s : State) (r t : Nat) (b : Bool) : State :=
  { s with phase := match (s.region? r).bind fun g => nextStream g.streams (t, b) with
      | some (t, b) => .issue r t b
      | none => .close r }

def issueStep (r t : Nat) (b : Bool) (s : State) : Out :=
  match issueStream s r t b with
  | .next s' => .next (s'.afterIssue r t b)
  | o => o

/-! ### The end of an sc -/

/-- Every participant has ended its rebuild stub. -/
def Region.stubDone (g : Region) : Bool := g.participants.all fun p => (g.str p.1 p.2).resumeAt.isNone

/-- The stub ends: what it left in flight keeps its remaining latency, and lands before what the stitch issues. -/
def Region.leaveStub (g : Region) : Region :=
  let next := g.stubSc + 1
  let conv (d : Nat) : Nat := if stubBase ≤ d then g.sc + (d - next) else d
  let keys : List Nat := (g.flights.filter fun f => decide (stubBase ≤ f.iss)).map (·.key) ++
    (g.awaits.filter fun a => decide (stubBase ≤ a.iss)).map (·.key)
  let rank (k : Nat) : Nat := (keys.filter fun x => decide (x < k)).length
  let fly (f : Fly) : Fly :=
    if stubBase ≤ f.iss then
      { f with due := conv f.due, iss := if f.what.isInc then g.sc else 0, key := 8 * rank f.key + keySlot f.key }
    else f
  let await (a : Await) : Await := if stubBase ≤ a.iss then { a with due := conv a.due, iss := 0, key := 8 * rank a.key } else a
  let stream (x : Stream) : Stream := { x with startAt := conv x.startAt, waitFrom := none }
  { g with
    stub := false, stubSc := 0, flights := g.flights.map fly, awaits := g.awaits.map await
    tiles := g.tiles.map fun x => { x with a := stream x.a, b := stream x.b } }

/-- Stream B's issues of the stub keep their distance too. -/
def State.leaveStub (s : State) (g : Region) : State :=
  let conv (d : Nat) : Nat := if stubBase ≤ d then g.sc + (d - (g.stubSc + 1)) else d
  { s.setRegion g.leaveStub with
    twins := s.twins.map fun k => if k.env.rid = g.rid then { k with due := conv k.due } else k }

def State.endStubSc (s : State) (g : Region) : State :=
  if g.stubDone then s.leaveStub g else s.setRegion { g with stubSc := g.stubSc + 1 }

/-- After a commit was carried out, or was refused by its checks. -/
def afterCommitStep (r : Nat) (s : State) : Out → Out
  | .next s' =>
    match s'.region? r with
    | none => .next (s'.goOn r)
    | some g =>
      if !g.runs then .next (s'.goOn r)
      else if !g.raised.isEmpty then .next ((s'.takeRaised r).goOn r)
      else if g.committing != .none then .next (s'.goOn r)
      else .next ((s'.setRegion g.advance).goOn r)
  | .refused _ => .next (s.goOn r)
  | o => o

/-- The end of an sc. A commit that an EXIT of this sc makes possible is taken in this sc (Assumption 60). -/
def closeStep (r : Nat) (s : State) : Out :=
  match s.region? r with
  | none => .next (s.goOn r)
  | some g =>
    if !g.runs then .next (s.goOn r)
    else if (g.dueFly Flight.isArrive).isSome then exec (.barArrivalEffect r) s
    else
      let s := s.closeSc g
      let g := (s.region? r).getD g
      if !g.raised.isEmpty && !g.twinFirst then .next ((s.takeRaised r).goOn r)
      else if g.stub then .next ((s.endStubSc g).goOn r)
      else if g.commitDue then afterCommitStep r s (exec (.commit r) s)
      else if g.finished then afterCommitStep r s (exec (.finalCommit r) s)
      else .next ((s.setRegion g.advance).goOn r)

end Sys2Proof.Machine
end

