-- ==== Sys2Proof/Machine/Step.lean ====
section
/-! DEFINITION. The step, and the placing of an instruction where the next step fetches. -/

namespace Sys2Proof.Machine

/-- One step: a choice between two tile clock cycles, or the next part of a region's sc. -/
def step (s : State) : Host.Outcome State Fault Refusal :=
  match s.phase with
  | .idle => idleStep s
  | .land r => landStep r s
  | .issue r t b => issueStep r t b s
  | .close r => closeStep r s

/-- The words of code that hold an instruction: bit 0 of w is bit 0 of the first word. -/
def codeOf (nbits w : Nat) : List Word32 := (List.range 17).map fun k => BitVec.ofNat 32 (w % 2 ^ nbits / 2 ^ (32 * k))

/-- The pattern that holds it: 2 x 2, split mode with every slot but those of stream B's own at stream A. -/
def fetchPattern (code : List Word32) : Pattern where
  num := 0
  digest := 0
  level := 0
  w := 2
  h := 2
  colSeam := 0
  rowSeam := 0
  split := true
  own := 0
  ng := 64
  nv := 32
  nb := 32
  acc := 0xFF
  code := code
  recs := [⟨0, 16384, none, 0, 0, 0, 0, 0, 0, 0, 0, 0, 0, 0, [], [], 0⟩]
  matrix := true
  addr := 0
  refs := []

def fetchLaunch : Launch where
  part := 0
  queue := 0
  node := none
  epoch := 0
  level := 0
  dual := false
  desc := 0
  seed := 0
  args := []
  mail := Vector.replicate 16 0
  ordinal := 0
  gen := 1

/-- A launch of that pattern stands at its first sc, and its stream A on tile 0 issues next: what loading the pattern
and launching it comes to (Assumption 16). -/
def State.withFetchWord (s : State) (nbits w : Nat) : State :=
  let g := s.newRegion (fetchPattern (codeOf nbits w)) fetchLaunch .single ⟨0, 0, 0⟩ none
  { s with regions := [g], nextRid := s.nextRid + 1, phase := .issue g.rid 0 false, cur := none }

end Sys2Proof.Machine
end

