-- ==== Sys2Proof/Safety.lean ====
section
/-! DEFINITION. What counts as a safe run, in the terms the statements use: the storage of the device keeps its
canonical form, and no run ends in a fault. -/

namespace Sys2Proof

open Machine

/-- An outcome is a next state. -/
def Completes (o : Out) : Prop := ∃ t, o = .next t

/-- Every storage outside the tiles is in canonical form: HBM4, host memory, the peers' memories. -/
def StorageForm (s : State) : Prop :=
  s.hbm.wf = true ∧ s.host.wf = true ∧ ∀ p ∈ s.peers, p.mem.wf = true

/-- A run from `s` never ends in a fault. -/
def SafeRun (s : State) : Prop := ∀ k r, Host.Core.run core k s ≠ .fault r

end Sys2Proof
end

