-- ==== Sys2Proof/Certificates/Slice0/Obligations.lean ====
section
/-! DEFINITION. The statements for the provers. First the words they are stated in (namespace `Claims`): who issues,
what a guard reads, the state an operation leaves; then, by family, the tables the manual gives and the statements. -/

namespace Sys2Proof.Claims

open Sys2Proof.Machine

/-! ### Issuing -/

/-- The issue under way is `cu`'s, on region `g`. -/
structure Issuing (s : State) (cu : Cursor) (g : Region) : Prop where
  cur : s.cur = some cu
  reg : s.region? cu.r = some g

/-- A scalar guard reads true: its predicate, inverted where it is negated (07 R173). -/
structure On (g : Region) (cu : Cursor) (gd : Guard) : Prop where
  sound : ((g.cur cu).bank.getP gd.p).bad = false
  yes : (((g.cur cu).bank.getP gd.p).bit ^^ gd.neg) = true

/-- A scalar guard reads false. -/
structure Off (g : Region) (cu : Cursor) (gd : Guard) : Prop where
  sound : ((g.cur cu).bank.getP gd.p).bad = false
  no : (((g.cur cu).bank.getP gd.p).bit ^^ gd.neg) = false

/-- A lane-mask guard can be read, and admits the lanes of `mask` (10 R258). -/
structure Lanes (g : Region) (cu : Cursor) (gd : VGuard) (mask : BitVec 32) : Prop where
  sound : ((g.cur cu).bank.getM gd.m).bad = false
  eq : mask = if gd.neg then ~~~((g.cur cu).bank.getM gd.m).bits else ((g.cur cu).bank.getM gd.m).bits

/-! ### What an operation leaves -/

/-- The state after an operation that leaves region `g'`: nothing else changes but the model's counter of free values. -/
def left (s : State) (g' : Region) : State :=
  { s with fresh := s.fresh + 1, regions := s.regions.map fun x => if x.rid = g'.rid then g' else x }

/-- One more effect in flight, due in sc `due`. -/
def sending (g : Region) (cu : Cursor) (due : Nat) (w : Flight) : Region :=
  { g with flights := g.flights ++
      [{ due := due, iss := g.now, key := orderKey g.now cu.t cu.b cu.slot, tile := cu.t, strB := cu.b, what := w }] }

/-- A result of `lat` sc for a scalar destination and the issuing slot's latch: A0 writes la0, A1 writes la1 (03 R62; 08 R193). -/
def result (g : Region) (cu : Cursor) (lat : Nat) (d : SDst) (bits : Word) (bad : Bool) : Region :=
  sending g cu (g.now + lat)
    (.scalar (some d) (if cu.slot = 0 then some .la0 else if cu.slot = 1 then some .la1 else none) ⟨bits, bad⟩)

/-- The cause of an operation is recorded precisely, at its slot and offset (18 R407, R425). -/
def raising (g : Region) (cu : Cursor) (c : Cause) : Region :=
  { g with raised := g.raised ++ [⟨c, true, cu.t, cu.b, cu.slot, cu.offset.toNat, 0, none, none⟩] }

/-- The same with the virtual address of the fault (18 R425). -/
def raisingAt (g : Region) (cu : Cursor) (c : Cause) (va : Nat) : Region :=
  { g with raised := g.raised ++ [⟨c, true, cu.t, cu.b, cu.slot, cu.offset.toNat, va, none, none⟩] }

/-- An event cause of the issuing stream (18 R425: slot 7, offset 0xFFFF_FFFF). -/
def raisingEventAt (g : Region) (cu : Cursor) (c : Cause) (va : Nat) : Region :=
  { g with raised := g.raised ++ [⟨c, false, cu.t, cu.b, 7, 0xFFFF_FFFF, va, none, none⟩] }

/-- One effect put off to the end of the sc. -/
def later (g : Region) (cu : Cursor) (e : EndOp) : Region := { g with endEffs := g.endEffs ++ [⟨cu.t, cu.b, e⟩] }

/-- A change of the issuing stream. -/
def ofStream (g : Region) (cu : Cursor) (f : Stream → Stream) : Region :=
  { g with tiles := g.tiles.modify cu.t fun x => if cu.b then { x with b := f x.b } else { x with a := f x.a } }

/-- A change of the issuing tile. -/
def ofTile (g : Region) (cu : Cursor) (f : Tile → Tile) : Region := { g with tiles := g.tiles.modify cu.t f }

/-! ### Operands (03 R61, R64) -/

/-- No result from wall time that is due is still missing for the issuing stream. -/
def NoneMissing (g : Region) (cu : Cursor) : Prop :=
  ∀ a ∈ g.awaits, a.tile = cu.t → a.strB = cu.b → a.missing g.now = false

/-- The identifier values of 03 R64. -/
def identValue (s : State) (g : Region) (cu : Cursor) : Ident → Nat
  | .x => cu.t % g.pat.w
  | .y => cu.t / g.pat.w
  | .w => g.pat.w
  | .h => g.pat.h
  | .stream => if cu.b then 1 else 0
  | .quad => (cu.t / g.pat.w / 2) * (g.pat.w / 2) + cu.t % g.pat.w / 2
  | .qpos => cu.t % g.pat.w % 2 + 2 * (cu.t / g.pat.w % 2)
  | .part => g.launch.part
  | .launch => g.launch.ordinal.toNat
  | .dev => s.dev.id.toNat

/-- The value of a scalar operand: register, latch, identifier or immediate (03 R61). -/
def operandValue (s : State) (g : Region) (cu : Cursor) : SSrc → Val
  | .g n => if n = 0 then ⟨0, false⟩ else (g.cur cu).bank.g[n.toNat]'n.isLt
  | .k n => (g.cur cu).bank.k[n.toNat]'n.isLt
  | .latch .la0 => (g.cur cu).bank.la.la0
  | .latch .la1 => (g.cur cu).bank.la.la1
  | .latch .lm => (g.cur cu).bank.la.lm
  | .latch .lv => (g.cur cu).bank.la.lv
  | .latch .lx => (g.cur cu).bank.la.lx
  | .ident i => ⟨BitVec.ofNat 64 (identValue s g cu i), false⟩
  | .imm v => ⟨v.signExtend 64, false⟩

/-- The second source: operand B, or SEXT(imm16, 64) (08 R194). -/
def secondValue (s : State) (g : Region) (cu : Cursor) : SrcB → Val
  | .op a => operandValue s g cu a
  | .imm16 v => ⟨v.signExtend 64, false⟩

/-- A predicate source after its inversion (08 R195). -/
def predValue (g : Region) (cu : Cursor) (p : PSrc) : PredV :=
  ⟨((g.cur cu).bank.getP p.p).bit ^^ p.inv, ((g.cur cu).bank.getP p.p).bad⟩

/-! ### Sticky slots (07 R167) -/

/-- The sticky slot's state in this issue: at the initiating issue the operation, index 0 and the address operands `as`
computed now; at a re-issue what the slot holds. -/
def slotState (cu : Cursor) (op : Instr) (as : List Val) : Sticky :=
  match cu.again with
  | none => ⟨op, 0, as⟩
  | some k => k

/-- The region once the slot is active with that state. -/
def active (g : Region) (cu : Cursor) (k : Sticky) : Region :=
  ofStream g cu fun x =>
    match cu.slot with
    | 2 => { x with ls := some k }
    | 3 => { x with va := some k }
    | 4 => { x with mx := some k }
    | _ => x

/-- The issue's one address operand: a_0 + n·S, sound (07 R167; 20 R443). `now` is what the initiating issue computes. -/
structure Address (cu : Cursor) (op : Instr) (now : Val) (step : Int) (addr : Word) : Prop where
  one : ∀ k, cu.again = some k → ∃ a, k.addrs = [a]
  sound : ((slotState cu op [now]).addrs.headD {}).bad = false
  eq : addr = ((slotState cu op [now]).addrs.headD {}).bits +
    BitVec.ofInt 64 ((slotState cu op [now]).n * step)

/-- The sum of operand values, poisoned where one is. -/
def sumOf : List Val → Val
  | [] => ⟨0, false⟩
  | x :: r => ⟨x.bits + (sumOf r).bits, x.bad || (sumOf r).bad⟩

end Sys2Proof.Claims
namespace Sys2Proof.Claims

open Sys2Proof.Machine

/-! ### Scalar families (08 R196 to R204) -/

/-- The signed value of the low n bits (08 R196: sx and sy). -/
def signedLow (n : Nat) (v : Word) : Int :=
  let x := v.toNat % 2 ^ n
  if 2 ^ (n - 1) ≤ x then (x : Int) - 2 ^ n else x

/-- res taken modulo 2^n and sign-extended to 64 bits (08 R196). -/
def extended (n : Nat) (res : Int) : Word :=
  let u := res % 2 ^ n
  BitVec.ofInt 64 (if 2 ^ (n - 1) ≤ u then u - 2 ^ n else u)

/-- A row of the table of 08 R196: the latency of 08 R193 and res, of n, x, y, sx and sy. -/
structure AluRow where
  op : Alu2 → Instr
  lat : Nat
  res : Nat → Nat → Nat → Int → Int → Int

/-- The table of 08 R196. -/
def aluRows : List AluRow :=
  [ ⟨.add, 1, fun _ x y _ _ => x + y⟩,
    ⟨.sub, 1, fun _ x y _ _ => (x : Int) - y⟩,
    ⟨.and, 1, fun _ x y _ _ => (x &&& y : Nat)⟩,
    ⟨.or, 1, fun _ x y _ _ => (x ||| y : Nat)⟩,
    ⟨.xor, 1, fun _ x y _ _ => (x ^^^ y : Nat)⟩,
    ⟨.andn, 1, fun n x y _ _ => (x &&& (y ^^^ (2 ^ n - 1)) : Nat)⟩,
    ⟨.shl, 1, fun n x y _ _ => (x : Int) * 2 ^ (y % n)⟩,
    ⟨.shr, 1, fun n x y _ _ => (x / 2 ^ (y % n) : Nat)⟩,
    ⟨.sar, 1, fun n _ y sx _ => sx.fdiv (2 ^ (y % n))⟩,
    ⟨.min, 1, fun _ _ _ sx sy => if sx ≤ sy then sx else sy⟩,
    ⟨.max, 1, fun _ _ _ sx sy => if sx ≥ sy then sx else sy⟩,
    ⟨.minu, 1, fun _ x y _ _ => if x ≤ y then x else y⟩,
    ⟨.maxu, 1, fun _ x y _ _ => if x ≥ y then x else y⟩,
    ⟨.mul, 3, fun _ x y _ _ => (x : Int) * y⟩,
    ⟨.mulh, 3, fun n _ _ sx sy => (sx * sy).fdiv (2 ^ n)⟩,
    ⟨.mulhu, 3, fun n x y _ _ => (x * y / 2 ^ n : Nat)⟩,
    ⟨.div, 18, fun n _ y sx sy => if y = 0 then -1 else if sx = -2 ^ (n - 1) ∧ sy = -1 then sx else sx.tdiv sy⟩,
    ⟨.divu, 18, fun n x y _ _ => if y = 0 then 2 ^ n - 1 else (x / y : Nat)⟩,
    ⟨.rem, 18, fun n _ y sx sy =>
      if y = 0 then sx else if sx = -2 ^ (n - 1) ∧ sy = -1 then 0 else sx - sy * sx.tdiv sy⟩,
    ⟨.remu, 18, fun _ x y _ _ => if y = 0 then x else (x % y : Nat)⟩ ]

/-- A row of the table of 08 R197: the relation, of x, y, sx and sy. -/
structure CmpRow where
  op : Cmp2 → Instr
  rel : Nat → Nat → Int → Int → Bool

def cmpRows : List CmpRow :=
  [ ⟨.cmpeq, fun x y _ _ => x == y⟩,
    ⟨.cmpne, fun x y _ _ => x != y⟩,
    ⟨.cmplt, fun _ _ sx sy => decide (sx < sy)⟩,
    ⟨.cmple, fun _ _ sx sy => decide (sx ≤ sy)⟩,
    ⟨.cmpltu, fun x y _ _ => decide (x < y)⟩,
    ⟨.cmpleu, fun x y _ _ => decide (x ≤ y)⟩ ]

/-- A row of the table of 08 R198. -/
structure PlogRow where
  op : PLog → Instr
  fn : Bool → Bool → Bool

def plogRows : List PlogRow :=
  [ ⟨.pand, fun x y => x && y⟩, ⟨.por, fun x y => x || y⟩, ⟨.pxor, fun x y => x ^^ y⟩, ⟨.pandn, fun x y => x && !y⟩ ]

/-- n of 08 R196. -/
def widthOf (w : Bool) : Nat := if w then 32 else 64

/-- A predicate result, with the slot's latch: it lands at issue + 1 (08 R193, R197). -/
def predicate (g : Region) (cu : Cursor) (d : BitVec 4) (bit bad : Bool) : Region :=
  sending g cu (g.now + 1) (.pred d (if cu.slot = 1 then .la1 else .la0) ⟨bit, bad⟩)

/-- BITS(v, p + l − 1, p), as a number. -/
def fieldBits (v : Word) (p l : Nat) : Nat := v.toNat / 2 ^ p % 2 ^ l

/-- The position, the length and the poison of a bit field's sources (08 R200). -/
def fieldValue (s : State) (g : Region) (cu : Cursor) : FieldSel → Nat × Nat × Bool
  | .imm p lm1 => (p.toNat, lm1.toNat + 1, false)
  | .reg p l => ((operandValue s g cu p).bits.toNat, (operandValue s g cu l).bits.toNat,
      (operandValue s g cu p).bad || (operandValue s g cu l).bad)

/-- A row of the table of 08 R201: the count, of n and x. -/
structure CntRow where
  op : CntA → Instr
  count : Nat → Nat → Nat

def cntRows : List CntRow :=
  [ ⟨.clz, fun n x => ((List.range n).find? fun i => x.testBit (n - 1 - i)).getD n⟩,
    ⟨.ctz, fun n x => ((List.range n).find? fun i => x.testBit i).getD n⟩,
    ⟨.popc, fun n x => ((List.range n).filter fun i => x.testBit i).length⟩ ]

/-- sr.accst: the committed-copy bits, and the overflow flag of the copy of each slot that is read now (03 R70, R82). -/
def accStatus (x : Tile) : Nat :=
  x.accCom.toNat + ((List.range 8).map fun i =>
    if x.ovf.getLsbD (2 * i + (x.accCom.getLsbD i ^^ x.accWr.getLsbD i).toNat) then 2 ^ (8 + i) else 0).sum

/-- The special registers as RDSR reads them (03 R70). -/
def specialValue (s : State) (g : Region) (cu : Cursor) : SReg → Word
  | .cyc => BitVec.ofNat 64 g.sc
  | .wall => BitVec.ofNat 64 (s.dev.wall / wallUnit)
  | .bank => if (g.cur cu).bankNo then 1 else 0
  | .reentry => BitVec.ofNat 64 (g.reentry % 16 + 2 ^ 16 * (g.lastCause % 1024))
  | .stitch => BitVec.ofNat 64 g.stitch
  | .gauge => BitVec.ofNat 64 g.gaugeN
  | .srpos => (g.cur cu).srpos
  | .seed => g.launch.seed
  | .level => BitVec.ofNat 64 g.pat.level.toNat
  | .accst => BitVec.ofNat 64 (accStatus (g.tile cu.t))

end Sys2Proof.Claims

open Sys2Proof Sys2Proof.Machine Sys2Proof.Claims

/-- 03 R61, R64: what every scalar operand specifier delivers; g0 reads as zero. -/
def Obligations.ScalarOperandsDeliver : Prop :=
  ∀ (s : State) (g : Region) (cu : Cursor) (a : SSrc), NoneMissing g cu → g.readS s cu a = .ok (operandValue s g cu a)

/-- 08 R193, R194, R196: every two-source family leaves SEXT(res, 64) in flight for its destination and its slot's latch,
lands it at its latency, raises nothing and changes nothing else. -/
def Obligations.TwoSourceArithmeticResult : Prop :=
  ∀ row ∈ aluRows, ∀ (o : Alu2) (s : State) (cu : Cursor) (g : Region),
    Issuing s cu g → On g cu o.gd → NoneMissing g cu →
      exec (row.op o) s = .next (left s (result g cu row.lat o.d
        (extended (widthOf o.w) (row.res (widthOf o.w)
          ((operandValue s g cu o.a).bits.toNat % 2 ^ widthOf o.w) ((secondValue s g cu o.b).bits.toNat % 2 ^ widthOf o.w)
          (signedLow (widthOf o.w) (operandValue s g cu o.a).bits) (signedLow (widthOf o.w) (secondValue s g cu o.b).bits)))
        ((operandValue s g cu o.a).bad || (secondValue s g cu o.b).bad)))

/-- 08 R193, R195, R197, R198: the compares and the predicate-logic families leave their bit in flight, for the predicate
and for the slot's latch. -/
def Sys2Proof.Claims.CompareAndPredicateLogicResult : Prop :=
  (∀ row ∈ cmpRows, ∀ (o : Cmp2) (s : State) (cu : Cursor) (g : Region),
    Issuing s cu g → On g cu o.gd → NoneMissing g cu →
      exec (row.op o) s = .next (left s (predicate g cu o.d
        (row.rel ((operandValue s g cu o.a).bits.toNat % 2 ^ widthOf o.w) ((secondValue s g cu o.b).bits.toNat % 2 ^ widthOf o.w)
          (signedLow (widthOf o.w) (operandValue s g cu o.a).bits) (signedLow (widthOf o.w) (secondValue s g cu o.b).bits))
        ((operandValue s g cu o.a).bad || (secondValue s g cu o.b).bad)))) ∧
  (∀ row ∈ plogRows, ∀ (o : PLog) (s : State) (cu : Cursor) (g : Region),
    Issuing s cu g → On g cu o.gd →
      exec (row.op o) s = .next (left s (predicate g cu o.d (row.fn (predValue g cu o.a).bit (predValue g cu o.b).bit)
        ((predValue g cu o.a).bad || (predValue g cu o.b).bad))))

/-- 08 R199 to R203: SEL, BFX, BFXS, BFI, CLZ, CTZ, POPC, AGEN2, LI and LI.HI write the value of their page at issue + 1;
BFX and BFXS with a register pair outside the 64 bits raise 0x083 and write nothing. -/
def Sys2Proof.Claims.SelectFieldCountAndConstantResult : Prop :=
  ∀ (s : State) (cu : Cursor) (g : Region), Issuing s cu g → NoneMissing g cu →
    (∀ o : SelA, On g cu o.gd → exec (.sel o) s = .next (left s (result g cu 1 o.d
      (if (predValue g cu o.c).bit then (operandValue s g cu o.a).bits else (secondValue s g cu o.b).bits)
      ((operandValue s g cu o.a).bad || (secondValue s g cu o.b).bad || (predValue g cu o.c).bad)))) ∧
    (∀ (o : BfxA) (p l : Nat) (bad : Bool), On g cu o.gd → o.ok = true → fieldValue s g cu o.f = (p, l, bad) →
      (p ≤ 63 ∧ 1 ≤ l ∧ l ≤ 64 - p →
        exec (.bfx o) s = .next (left s (result g cu 1 o.d (BitVec.ofNat 64 (fieldBits (operandValue s g cu o.a).bits p l))
          ((operandValue s g cu o.a).bad || bad))) ∧
        exec (.bfxs o) s = .next (left s (result g cu 1 o.d
          (extended l (fieldBits (operandValue s g cu o.a).bits p l)) ((operandValue s g cu o.a).bad || bad)))) ∧
      (¬(p ≤ 63 ∧ 1 ≤ l ∧ l ≤ 64 - p) →
        exec (.bfx o) s = .next (left s (raising g cu 0x083)) ∧ exec (.bfxs o) s = .next (left s (raising g cu 0x083)))) ∧
    (∀ o : BfiA, On g cu o.gd → bitFieldOk o.p o.lm1 = true →
      exec (.bfi o) s = .next (left s (result g cu 1 o.d
        (((operandValue s g cu o.a).bits &&& ~~~(BitVec.ofNat 64 (2 ^ (o.lm1.toNat + 1) - 1) <<< o.p.toNat)) |||
          (((operandValue s g cu o.b).bits &&& BitVec.ofNat 64 (2 ^ (o.lm1.toNat + 1) - 1)) <<< o.p.toNat))
        ((operandValue s g cu o.a).bad || (operandValue s g cu o.b).bad)))) ∧
    (∀ row ∈ cntRows, ∀ o : CntA, On g cu o.gd → exec (row.op o) s = .next (left s (result g cu 1 o.d
      (BitVec.ofNat 64 (row.count (widthOf o.w) ((operandValue s g cu o.a).bits.toNat % 2 ^ widthOf o.w)))
      (operandValue s g cu o.a).bad))) ∧
    (∀ o : AgenA, On g cu o.gd → exec (.agen2 o) s = .next (left s (result g cu 1 o.d
      ((operandValue s g cu o.a).bits + (operandValue s g cu o.b).bits * BitVec.ofNat 64 (2 ^ o.s1.toNat) +
        (operandValue s g cu o.c).bits * BitVec.ofNat 64 (2 ^ o.s2.toNat))
      ((operandValue s g cu o.a).bad || (operandValue s g cu o.b).bad || (operandValue s g cu o.c).bad)))) ∧
    (∀ gd d (v : BitVec 45), On g cu gd → exec (.li gd d v) s = .next (left s (result g cu 1 d (v.signExtend 64) false))) ∧
    (∀ gd d a (v : BitVec 19), On g cu gd → exec (.liHi gd d a v) s = .next (left s (result g cu 1 d
      (BitVec.ofNat 64 ((operandValue s g cu a).bits.toNat % 2 ^ 45 + v.toNat * 2 ^ 45)) (operandValue s g cu a).bad)))

/-- 08 R193, R195, R197 to R203: compares, predicate logic, SEL, bit fields, counts, AGEN2 and LI. -/
def Obligations.ComparesSelectionsAndConstantsResult : Prop :=
  CompareAndPredicateLogicResult ∧ SelectFieldCountAndConstantResult

/-- 03 R69, R70; 08 R204: RDSR reads the register the number names, RDMB the mailbox; WRSR sets the generator's position
for the sc after this one. -/
def Obligations.SpecialRegisterAndMailboxAccess : Prop :=
  ∀ (s : State) (cu : Cursor) (g : Region), Issuing s cu g →
    (∀ gd d n, On g cu gd → exec (.rdsr gd d n) s = .next (left s (result g cu 1 d (specialValue s g cu n) false))) ∧
    (∀ gd d (n : BitVec 4), On g cu gd →
      exec (.rdmb gd d n) s = .next (left s (result g cu 1 d ((g.tile cu.t).mb[n.toNat]'n.isLt) false))) ∧
    (∀ gd a, On g cu gd → NoneMissing g cu → (operandValue s g cu a).bad = false →
      exec (.wrsr gd a) s = .next (left s (ofStream g cu fun x => { x with srNext := some (operandValue s g cu a).bits }))) ∧
    (∀ g' : Region, ∀ t b, t < g'.tiles.length → ∀ v, (g'.str t b).srNext = some v → g'.endEffs = [] →
      (g'.endSc.str t b).srpos = v)

namespace Sys2Proof.Claims

open Sys2Proof.Machine

/-! ### Control class (08 R205 to R219; 09 R239 to R251) -/

/-- A taken transfer: two delay bundles still to issue after its own (07 R180). -/
def jumping (g : Region) (cu : Cursor) (target : Word) (after : Bool) : Region :=
  ofStream g cu fun x => { x with pend := x.pend ++ [⟨3, target, after, 0⟩] }

/-- P + 4·disp (08 R205). -/
def branchTarget (cu : Cursor) (disp : BitVec 18) : Word := cu.offset + 4 * disp.signExtend 64

/-- The stream is held: its bundle does not issue in this sc (02 R40). -/
def heldWith (s : State) (cu : Cursor) (g' : Region) : State := { left s g' with cur := some { cu with held := true } }

/-- The level's counter, written whole and clean. -/
def counted (k : Bank) (n : BitVec 2) (c : BitVec 32) : Bank :=
  { k with lc := k.lc.set n.toNat c n.isLt, lcBad := k.lcBad &&& ~~~(1#4 <<< n.toNat) }

/-- The effect of 08 R210 with trip count c, where its checks hold. -/
def looping (g : Region) (cu : Cursor) (o : LoopA) (c : Nat) : Region :=
  ofStream g cu fun x =>
    if c = 0 then
      { x with
        bank := counted x.bank o.n 0
        pend := x.pend ++ [⟨1, BitVec.ofNat 64 (cu.offset.toNat + 4 * o.e.toNat), true, 0⟩] }
    else
      { x with
        bank := counted x.bank o.n (BitVec.ofNat 32 (c - 1))
        loops :=
          { depth := x.loops.depth + 1
            starts := x.loops.starts.set o.n.toNat (cu.offset + BitVec.ofNat 64 cu.len) o.n.isLt
            ends := x.loops.ends.set o.n.toNat (BitVec.ofNat 64 (cu.offset.toNat + 4 * o.e.toNat)) o.n.isLt } }

/-- SAT_U32 of a register taken as s64 (08 R210). -/
def tripCount (v : Word) : Nat := if v.toInt < 0 then 0 else min v.toNat (2 ^ 32 - 1)

/-- The barrier as the issuing tile holds it. -/
def barrier (g : Region) (cu : Cursor) (b : BitVec 7) : Barrier := (g.tile cu.t).bars[b.toNat]'b.isLt

/-- A change of the issuing tile's copy of a barrier. -/
def ofBarrier (g : Region) (cu : Cursor) (b : BitVec 7) (f : Barrier → Barrier) : Region :=
  ofTile g cu fun x => { x with bars := x.bars.set b.toNat (f (x.bars[b.toNat]'b.isLt)) b.isLt }

/-- The stream's pending flag and target phase (09 R243). -/
def pendingFlag (x : Barrier) (b : Bool) : Bool := if b then x.pendB else x.pendA
def targetPhase (x : Barrier) (b : Bool) : BitVec 32 := if b then x.targetB else x.targetA

/-- The flag clears when a wait ends (09 R247). -/
def waited (g : Region) (cu : Cursor) (b : BitVec 7) : Region :=
  ofBarrier g cu b fun x => if cu.b then { x with pendB := false } else { x with pendA := false }

/-- The largest expected count of a scope (09 R245). -/
def countLimit (g : Region) : BarScope → Nat
  | .tile => if g.pat.split then 2 else 1
  | .quad => if g.pat.split then 8 else 4
  | .region => if g.pat.split then 2 * (g.pat.w * g.pat.h) else g.pat.w * g.pat.h

/-- A commit instruction is accepted: no rebuild stub, a record of the pattern other than 0, no active sticky slot (09 R239). -/
structure MayCommit (g : Region) (cu : Cursor) (id : BitVec 16) : Prop where
  stub : g.stub = false
  record : id ≠ 0 ∧ (g.pat.recs.find? fun r => r.id = id).isSome = true
  idle : (g.cur cu).ls = none ∧ (g.cur cu).va = none ∧ (g.cur cu).mx = none

/-- The counters that advance in wall time (09 R248). -/
def wallCounter (n : BitVec 5) : Bool := n.toNat ≤ 19 || n == 22 || n == 23

/-- v of a wait: tbN + delta (09 R248). -/
def waitTarget (g : Region) (cu : Cursor) (n : BitVec 5) (delta : Nat) : Word :=
  ((g.cur cu).bank.tb[n.toNat]'n.isLt).bits + BitVec.ofNat 64 delta

/-- The counter of the issuing tile. -/
def timeline (g : Region) (cu : Cursor) (n : BitVec 5) : Word := (g.tile cu.t).tl[n.toNat]'n.isLt

/-- A gated command of the counter, at or below the target, is still unsent (12 R311). -/
def coversGated (g : Region) (cu : Cursor) (n : Nat) (v : Word) : Prop :=
  ∃ c ∈ g.cmds, c.tile = cu.t ∧ c.ctr = n ∧ c.num ≤ v.toNat ∧ c.st = .gated

/-- What a wait acquires leaves the list of what is not acquired (05 R133). -/
def acquired (g : Region) (cu : Cursor) (n : BitVec 5) (v : Word) : Region :=
  { g with unacq := g.unacq.filter fun u => !(decide (u.ctr = cu.t * 32 + n.toNat) && decide (u.num ≤ v.toNat)) }

/-- L of 05 R118: the latest performing sc of the stores the stream issued in an earlier sc and that have not performed. -/
def latestStore (g : Region) (cu : Cursor) : Nat :=
  g.flights.foldl (fun m f => match f.what with
    | .store .. => if f.tile = cu.t ∧ f.strB = cu.b ∧ f.iss < g.now then max m f.due else m
    | _ => m) 0

end Sys2Proof.Claims

open Sys2Proof Sys2Proof.Machine Sys2Proof.Claims

/-- 07 R173: an operation of a slot that is not sticky, with a scalar guard that reads false, changes nothing. The
instructions with such a guard are named one by one. -/
def Obligations.FalseGuardHasNoEffect : Prop :=
  ∀ (s : State) (cu : Cursor) (g : Region) (gd : Guard), Issuing s cu g → Off g cu gd →
    (∀ row ∈ aluRows, ∀ o : Alu2, o.gd = gd → exec (row.op o) s = .next (left s g)) ∧
    (∀ row ∈ cmpRows, ∀ o : Cmp2, o.gd = gd → exec (row.op o) s = .next (left s g)) ∧
    (∀ row ∈ plogRows, ∀ o : PLog, o.gd = gd → exec (row.op o) s = .next (left s g)) ∧
    (∀ row ∈ cntRows, ∀ o : CntA, o.gd = gd → exec (row.op o) s = .next (left s g)) ∧
    (∀ o : SelA, o.gd = gd → exec (.sel o) s = .next (left s g)) ∧
    (∀ o : BfxA, o.gd = gd → exec (.bfx o) s = .next (left s g) ∧ exec (.bfxs o) s = .next (left s g)) ∧
    (∀ o : BfiA, o.gd = gd → exec (.bfi o) s = .next (left s g)) ∧
    (∀ o : AgenA, o.gd = gd → exec (.agen2 o) s = .next (left s g)) ∧
    (∀ i ∈ ([.nop gd, .lexit gd, .join gd, .exit gd] : List Instr), exec i s = .next (left s g)) ∧
    (∀ d v, exec (.li gd d v) s = .next (left s g)) ∧ (∀ d a v, exec (.liHi gd d a v) s = .next (left s g)) ∧
    (∀ d n, exec (.rdsr gd d n) s = .next (left s g)) ∧ (∀ a, exec (.wrsr gd a) s = .next (left s g)) ∧
    (∀ d n, exec (.rdmb gd d n) s = .next (left s g)) ∧
    (∀ disp, exec (.br gd disp) s = .next (left s g) ∧ exec (.fork gd disp) s = .next (left s g)) ∧
    (∀ a imm, exec (.bri gd a imm) s = .next (left s g)) ∧ (∀ d disp, exec (.call gd d disp) s = .next (left s g)) ∧
    (∀ a, exec (.ret gd a) s = .next (left s g)) ∧
    (∀ o c, o.gd = gd → exec (.loop o c) s = .next (left s g)) ∧ (∀ o a, o.gd = gd → exec (.loopr o a) s = .next (left s g)) ∧
    (∀ n, exec (.jset gd n) s = .next (left s g) ∧ exec (.jclr gd n) s = .next (left s g) ∧
      exec (.jwait gd n) s = .next (left s g)) ∧
    (∀ e, exec (.trap gd e) s = .next (left s g)) ∧ (∀ b sc n, exec (.barInit gd b sc n) s = .next (left s g)) ∧
    (∀ b, exec (.barArr gd b) s = .next (left s g) ∧ exec (.barWait gd b) s = .next (left s g) ∧
      exec (.barAw gd b) s = .next (left s g)) ∧
    (∀ n dl, exec (.tlwait gd n dl) s = .next (left s g)) ∧ (∀ n a r, exec (.tlinc gd n a r) s = .next (left s g)) ∧
    (∀ d n, exec (.tlrd gd d n) s = .next (left s g)) ∧ (∀ n ad a, exec (.tlbase gd n ad a) s = .next (left s g)) ∧
    (∀ ds p a b, exec (.descSet gd ds p a b) s = .next (left s g)) ∧
    (∀ d ds w, exec (.descGet gd d ds w) s = .next (left s g)) ∧ (∀ d n, exec (.engStat gd d n) s = .next (left s g)) ∧
    (∀ o : EngA, o.gd = gd → ∀ i ∈ ([.ceIn o, .ceOut o, .ceB o, .ceWin o, .ceGath o, .ceScat o, .ceXfer o, .ceFill o,
      .colAg o, .colBc o] : List Instr), exec i s = .next (left s g)) ∧
    (∀ (o : EngA) op, o.gd = gd → exec (.ceOutr o op) s = .next (left s g) ∧ exec (.colRed o op) s = .next (left s g)) ∧
    (∀ o : ColqA, o.gd = gd → exec (.colQ o) s = .next (left s g) ∧ exec (.colQFree o) s = .next (left s g)) ∧
    (∀ rpl tab a b, exec (.teLoad gd rpl tab a b) s = .next (left s g)) ∧
    (∀ tab lo hi a, exec (.teCfg gd tab lo hi a) s = .next (left s g)) ∧
    (∀ o : SchA, o.gd = gd → exec (.schEnq o) s = .next (left s g) ∧ exec (.schRaise o) s = .next (left s g) ∧
      exec (.schPost o) s = .next (left s g))

/-- 07 R180; 08 R205, R206, R208: BR, BRI, CALL and RET taken leave their target pending behind two delay bundles; CALL's
link lands at issue + 1; in a rebuild stub RET ends the stub, and the bundle it resumes from is next, at the issue it had
reached. -/
def Obligations.TakenTransferLeavesItsTarget : Prop :=
  ∀ (s : State) (cu : Cursor) (g : Region) (gd : Guard), Issuing s cu g → On g cu gd →
    (∀ disp, exec (.br gd disp) s = .next (left s (jumping g cu (branchTarget cu disp) false))) ∧
    (∀ a imm, NoneMissing g cu → (operandValue s g cu a).bad = false →
      exec (.bri gd a imm) s = .next (left s (jumping g cu ((operandValue s g cu a).bits + imm.signExtend 64) false))) ∧
    (∀ d disp, ∃ link, exec (.call gd d disp) s =
        .next (left s (jumping (sending g cu (g.now + 1) (.scalar (some d) none ⟨link, false⟩)) cu (branchTarget cu disp) false)) ∧
      ∀ p q, g.nextOffset (cu.offset.toNat + cu.len) = some p → g.nextOffset p = some q → link = BitVec.ofNat 64 q) ∧
    (∀ a, g.stub = false → NoneMissing g cu → (operandValue s g cu a).bad = false →
      exec (.ret gd a) s = .next (left s (jumping g cu (operandValue s g cu a).bits false))) ∧
    (∀ a pc skip done pend, g.stub = true → (g.cur cu).resumeAt = some (pc, skip, done, pend) →
      ∃ g', exec (.ret gd a) s = .next (left s g') ∧ (g'.cur cu).resumeAt = none ∧
        (g'.cur cu).pend.head? = some ⟨1, pc, skip, done⟩)

/-- 08 R208 to R210, R213: LOOP and LOOPR enter a level, or skip its body for a count of 0; LEXIT ends the level and is a
taken transfer behind its end; of both a wrong level raises 0x086, an end outside the code 0x088, no level 0x087. -/
def Obligations.LoopEntryAndExit : Prop :=
  ∀ (s : State) (cu : Cursor) (g : Region), Issuing s cu g → g.stub = false → cu.t < g.tiles.length →
    (∀ (o : LoopA) (cnt : BitVec 16) (a : SSrc), On g cu o.gd →
      ((g.cur cu).loops.depth = o.n.toNat → o.e ≠ 0 → cu.offset.toNat + 4 * o.e.toNat < 4 * g.pat.code.length →
        exec (.loop o cnt) s = .next (left s (looping g cu o cnt.toNat)) ∧
        (NoneMissing g cu → (operandValue s g cu a).bad = false →
          exec (.loopr o a) s = .next (left s (looping g cu o (tripCount (operandValue s g cu a).bits))))) ∧
      ((g.cur cu).loops.depth ≠ o.n.toNat →
        exec (.loop o cnt) s = .next (left s (raising g cu 0x086)) ∧
        (NoneMissing g cu → (operandValue s g cu a).bad = false →
          exec (.loopr o a) s = .next (left s (raising g cu 0x086)))) ∧
      ((g.cur cu).loops.depth = o.n.toNat → (o.e = 0 ∨ 4 * g.pat.code.length ≤ cu.offset.toNat + 4 * o.e.toNat) →
        exec (.loop o cnt) s = .next (left s (raising g cu 0x088)) ∧
        (NoneMissing g cu → (operandValue s g cu a).bad = false →
          exec (.loopr o a) s = .next (left s (raising g cu 0x088))))) ∧
    (∀ gd, On g cu gd →
      ((g.cur cu).loops.depth = 0 → exec (.lexit gd) s = .next (left s (raising g cu 0x087))) ∧
      (∀ l (h : l < 4), (g.cur cu).loops.depth = l + 1 →
        exec (.lexit gd) s = .next (left s
          (jumping (ofStream g cu fun x => { x with loops := { x.loops with depth := l } }) cu
            ((g.cur cu).loops.ends[l]'h) true))))

/-- 02 R40, R46, R47, R52; 08 R208, R214 to R216, R218, R219: TRAP raises 0x3C0 + e precisely; FORK, EXIT, JSET and JCLR
act at the end of the sc; JOIN and JWAIT issue, or hold their stream; FORK out of place raises 0x084; in a rebuild stub what
it may not issue raises 0x089; NOP does nothing; an idle bundle only clears the slots its halt bits name. That FORK takes
the poison of the k registers is the model's reading (Assumption 21), that 0x089 comes first its choice (Assumption 63). -/
def Obligations.StreamsAndSyncBits : Prop :=
  ∀ (s : State) (cu : Cursor) (g : Region), Issuing s cu g →
    (∀ gd, On g cu gd →
      exec (.nop gd) s = .next (left s g) ∧
      (∀ n, exec (.jset gd n) s = .next (left s (later g cu (.jset n))) ∧
        exec (.jclr gd n) s = .next (left s (later g cu (.jclr n)))) ∧
      (g.stub = false →
        (∀ e : BitVec 6, exec (.trap gd e) s = .next (left s (raising g cu (0x3C0 + e.toNat)))) ∧
        exec (.exit gd) s = .next (left s (later g cu .exit)) ∧
        (∀ disp, NoneMissing g cu → cu.b = false → (g.tile cu.t).b.running = false →
          exec (.fork gd disp) s = .next (left s (later g cu (.fork (branchTarget cu disp) (g.cur cu).bank.k)))) ∧
        (∀ disp, (cu.b = true ∨ (g.tile cu.t).b.running = true) →
          exec (.fork gd disp) s = .next (left s (raising g cu 0x084))) ∧
        exec (.join gd) s =
          (if (if cu.b then (g.tile cu.t).a else (g.tile cu.t).b).running then .next (heldWith s cu g) else .next (left s g)) ∧
        (∀ n : BitVec 4, exec (.jwait gd n) s =
          if (g.tile cu.t).j.getLsbD n.toNat then .next (left s (later g cu (.jclr n))) else .next (heldWith s cu g))) ∧
      (g.stub = true → ∀ e n disp o cnt a, ∀ i ∈ ([.trap gd e, .exit gd, .fork gd disp, .join gd, .jwait gd n, .lexit gd] :
          List Instr), exec i s = .next (left s (raising g cu 0x089)) ∧
        (o.gd = gd → exec (.loop o cnt) s = .next (left s (raising g cu 0x089)) ∧
          exec (.loopr o a) s = .next (left s (raising g cu 0x089))))) ∧
    (∀ r h, exec (.idleBundle r h) s = .next (left s (ofStream g cu fun x =>
      { x with
        ls := if h.getLsbD 0 then none else x.ls
        va := if h.getLsbD 1 then none else x.va
        mx := if h.getLsbD 2 then none else x.mx })))

/-- 02 R49; 09 R239: MARK, MARK.D and BAR.ARR.REL present their record; a bad record raises 0x0B0, an active sticky slot
0x0B1, a rebuild stub 0x089. -/
def Obligations.CommitInstructionsPresentTheirRecord : Prop :=
  ∀ (s : State) (cu : Cursor) (g : Region) (id : BitVec 16) (b : BitVec 7), Issuing s cu g →
    ∀ row ∈ ([(.mark id, .mark), (.markD id, .markD), (.barArrRel b id, .arrRel b)] : List (Instr × CommitKind)),
      (MayCommit g cu id →
        exec row.1 s = .next (left s (ofStream g cu fun x => { x with presented := some ⟨row.2, id, g.now⟩ }))) ∧
      (g.stub = false → (id = 0 ∨ (g.pat.recs.find? fun r => r.id = id) = none) →
        exec row.1 s = .next (left s (raising g cu 0x0B0))) ∧
      (g.stub = false → id ≠ 0 → (g.pat.recs.find? fun r => r.id = id).isSome = true →
        ((g.cur cu).ls.isSome = true ∨ (g.cur cu).va.isSome = true ∨ (g.cur cu).mx.isSome = true) →
        exec row.1 s = .next (left s (raising g cu 0x0B1))) ∧
      (g.stub = true → exec row.1 s = .next (left s (raising g cu 0x089)))

/-- 05 R118; 09 R245 to R247: BAR.INIT checks its count and acts at the end of the sc; an arrival takes effect in sc
max(T, L); a wait ends when its phase has completed and clears the flag, and until then holds its stream; BAR.AW arrives,
and waits while its arrival is on its way or its phase has not completed. That BAR.WAIT reads its flag anew in every sc is
the model's choice (Assumption 64). -/
def Obligations.BarrierInstructions : Prop :=
  ∀ (s : State) (cu : Cursor) (g : Region) (gd : Guard) (b : BitVec 7), Issuing s cu g → On g cu gd →
    (∀ sc a, NoneMissing g cu → (operandValue s g cu a).bad = false →
      let n := (operandValue s g cu a).bits.toNat
      (1 ≤ n → n ≤ countLimit g sc → (barrier g cu b).a = 0 →
        exec (.barInit gd b sc a) s = .next (left s (later g cu (.barInit b sc n)))) ∧
      (¬(1 ≤ n ∧ n ≤ countLimit g sc) → exec (.barInit gd b sc a) s = .next (left s (raising g cu 0x0A1))) ∧
      (1 ≤ n → n ≤ countLimit g sc → (barrier g cu b).a ≠ 0 →
        exec (.barInit gd b sc a) s = .next (left s (raising g cu 0x0A3)))) ∧
    exec (.barArr gd b) s = .next (left s (sending g cu (max g.now (latestStore g cu)) (.arrive b false))) ∧
    (pendingFlag (barrier g cu b) cu.b = true →
      exec (.barWait gd b) s =
        if (barrier g cu b).phase ≠ targetPhase (barrier g cu b) cu.b then .next (left s (waited g cu b))
        else .next (heldWith s cu (ofStream g cu fun x => { x with waitFrom := some ((g.cur cu).waitFrom.getD g.now) }))) ∧
    (pendingFlag (barrier g cu b) cu.b = false →
      exec (.barWait gd b) s =
        if (∃ d, (barrier g cu b).lastDone = some d ∧ (g.cur cu).waitFrom.getD g.now ≤ d) then .next (left s (waited g cu b))
        else .next (heldWith s cu (ofStream g cu fun x => { x with waitFrom := some ((g.cur cu).waitFrom.getD g.now) }))) ∧
    ((g.cur cu).arrived = false →
      exec (.barAw gd b) s = .next (heldWith s cu
        (ofStream (sending g cu (max g.now (latestStore g cu)) (.arrive b false)) cu fun x => { x with arrived := true }))) ∧
    ((g.cur cu).arrived = true →
      (∀ f ∈ g.flights, f.what = .arrive b false → f.tile = cu.t → f.strB = cu.b → False) →
      pendingFlag (barrier g cu b) cu.b = true → (barrier g cu b).phase ≠ targetPhase (barrier g cu b) cu.b →
      exec (.barAw gd b) s = .next (left s (waited g cu b))) ∧
    ((g.cur cu).arrived = true →
      ((∃ f ∈ g.flights, f.what = .arrive b false ∧ f.tile = cu.t ∧ f.strB = cu.b) ∨
        pendingFlag (barrier g cu b) cu.b = false ∨ (barrier g cu b).phase = targetPhase (barrier g cu b) cu.b) →
      exec (.barAw gd b) s = .next (heldWith s cu g))

/-- 05 R118, R133; 09 R248 to R251; 12 R311: TLWAIT goes on at its target and acquires, freezes the region on a wall-time
counter and holds its stream on the others; TLINC lands at max(T, L); TLRD and TLBASE land at issue + 1. That a target is
taken modulo 2^64 is the model's reading (Assumption 46). -/
def Obligations.TimelineInstructions : Prop :=
  ∀ (s : State) (cu : Cursor) (g : Region) (gd : Guard), Issuing s cu g → On g cu gd →
    (∀ (n : BitVec 5) (delta : BitVec 16),
      let v := waitTarget g cu n delta.toNat
      (¬coversGated g cu n.toNat v → v ≤ timeline g cu n →
        exec (.tlwait gd n delta) s = .next (left s (acquired g cu n v))) ∧
      (¬coversGated g cu n.toNat v → ¬v ≤ timeline g cu n → wallCounter n = false →
        exec (.tlwait gd n delta) s = .next (heldWith s cu g)) ∧
      (¬coversGated g cu n.toNat v → ¬v ≤ timeline g cu n → wallCounter n = true → g.frozen = .no →
        (∀ c ∈ g.cmds, c.parked? = false) →
        exec (.tlwait gd n delta) s = .next (left s { g with frozen := .wait 0 })) ∧
      (coversGated g cu n.toNat v → exec (.tlwait gd n delta) s = .next (left s (raising g cu 0x188)))) ∧
    (∀ (n : BitVec 3) a, NoneMissing g cu → (operandValue s g cu a).bad = false →
      let amt := (operandValue s g cu a).bits.setWidth 32
      exec (.tlinc gd n a none) s = .next (left s (sending g cu (max (g.now + 1) (latestStore g cu))
        (.inc cu.t (BitVec.ofNat 5 (24 + n.toNat)) amt))) ∧
      (∀ dx dy u d k, g.remote cu.t dx dy = some (u, d, k) →
        exec (.tlinc gd n a (some (dx, dy))) s = .next (left s (sending g cu
          (max (g.now + (6 + 2 * d + 8 * k)) (latestStore g cu)) (.inc u (BitVec.ofNat 5 (24 + n.toNat)) amt)))) ∧
      (∀ dx dy, g.remote cu.t dx dy = none →
        exec (.tlinc gd n a (some (dx, dy))) s = .next (left s (raising g cu 0x092)))) ∧
    (∀ d n, exec (.tlrd gd d n) s =
      .next (left s (sending g cu (g.now + 1) (.scalar (some d) none ⟨timeline g cu n, false⟩)))) ∧
    (∀ (n : BitVec 5) a, NoneMissing g cu → (operandValue s g cu a).bad = false →
      exec (.tlbase gd n false a) s =
        .next (left s (sending g cu (g.now + 1) (.tb n ⟨(operandValue s g cu a).bits, false⟩))) ∧
      exec (.tlbase gd n true a) s = .next (left s (sending g cu (g.now + 1) (.tb n
        ⟨((g.cur cu).bank.tb[n.toNat]'n.isLt).bits + (operandValue s g cu a).bits, ((g.cur cu).bank.tb[n.toNat]'n.isLt).bad⟩))))

namespace Sys2Proof.Claims

open Sys2Proof.Machine

/-! ### Memory class (09 R223 to R238) -/

/-- A row of the load table of 09 R225. -/
structure LoadRow where
  op : LdA → Instr
  z : Nat
  sx : Bool

def loadRows : List LoadRow :=
  [⟨.ldB, 1, false⟩, ⟨.ldH, 2, false⟩, ⟨.ldW, 4, false⟩, ⟨.ldD, 8, false⟩, ⟨.ldsB, 1, true⟩, ⟨.ldsH, 2, true⟩, ⟨.ldsW, 4, true⟩]

/-- A row of the store table of 09 R225. -/
structure StoreRow where
  op : StA → Instr
  z : Nat

def storeRows : List StoreRow := [⟨.stB, 1⟩, ⟨.stH, 2⟩, ⟨.stW, 4⟩, ⟨.stD, 8⟩]

/-- The little-endian number of bytes (00 R4). -/
def numberOf : List PByte → Nat
  | [] => 0
  | b :: r => b.1.toNat + 256 * numberOf r

/-- The value z loaded bytes give, zero- or sign-extended, poisoned where one is. -/
def loaded (sx : Bool) (bs : List PByte) : Val :=
  ⟨if sx then extended (8 * bs.length) (numberOf bs) else BitVec.ofNat 64 (numberOf bs), bs.any (·.2)⟩

/-- The low z bytes of a register, little-endian, each with the register's poison. -/
def storedBytes : Nat → Val → List PByte
  | 0, _ => []
  | z + 1, v => (v.bits.setWidth 8, v.bad) :: storedBytes z ⟨v.bits >>> 8, v.bad⟩

/-- The check of 09 R225: a is a multiple of z and a + z ≤ 0x8000·Nb. -/
def InScratchpad (g : Region) (a : Word) (z : Nat) : Prop := a.toNat % z = 0 ∧ a.toNat + z ≤ 0x8000 * g.pat.nb

/-- The cause of a failed check. -/
def scratchpadCause (a : Word) (z : Nat) : Cause := if a.toNat % z ≠ 0 then 0x091 else 0x090

/-- The address operand the initiating issue computes. -/
def loadAddress (s : State) (g : Region) (cu : Cursor) (a b c : SSrc) (imm : BitVec 16) : Val :=
  sumOf [operandValue s g cu a, operandValue s g cu b, operandValue s g cu c, ⟨imm.signExtend 64, false⟩]

def storeAddress (s : State) (g : Region) (cu : Cursor) (a c : SSrc) (imm : BitVec 16) : Val :=
  sumOf [operandValue s g cu a, operandValue s g cu c, ⟨imm.signExtend 64, false⟩]

def bytesOf : Wid → Nat
  | .b => 1
  | .h => 2
  | .w => 4
  | .d => 8

/-- An awaited result of the LS slot. -/
def awaiting (g : Region) (cu : Cursor) (id due : Nat) (k : AwaitKind) (st : AwaitSt) (d : Option SDst) (h : Option (BitVec 4))
    (p : Option Page) (addr : Nat) : Region :=
  { g with awaits := g.awaits ++
      [{ id := id, kind := k, st := st, tile := cu.t, strB := cu.b, due := due, iss := g.now
         key := orderKey g.now cu.t cu.b cu.slot, dst := d, hnd := h, live := true, latch := h.isNone
         page := p, addr := addr, landed := false, lost := false, got := [], sends := 0 }] }

/-- g0 is no destination: its GLD still writes lm (09 R231). -/
def realDst (d : SDst) : Option SDst := if d = .g 0 then none else some d

/-- What an access needs (09 R230): a valid handle, an offset inside its page, the permission, for an atomic alignment. -/
structure Accessible (g : Region) (cu : Cursor) (h : BitVec 4) (off : Word) (z : Nat) (rd wr atomic : Bool)
    (va : Nat) (p : Page) : Prop where
  handle : ∃ x, (g.cur cu).bank.h[h.toNat]'h.isLt = some x ∧ va = (BitVec.ofNat 64 x.va + off).toNat ∧ p = x.page
  inside : p.base ≤ va ∧ va + z ≤ p.base + p.size
  readable : rd = true → p.rd = true
  writable : wr = true → p.wr = true
  aligned : atomic = true → va % z = 0

/-- The cause of an access that is not so, and its address, in the order of 09 R230. -/
def accessFault (g : Region) (cu : Cursor) (h : BitVec 4) (off : Word) (z : Nat) (rd wr atomic : Bool) : Option (Cause × Nat) :=
  match (g.cur cu).bank.h[h.toNat]'h.isLt with
  | none => some (0x104, 0)
  | some x =>
    let va := (BitVec.ofNat 64 x.va + off).toNat
    if va < x.page.base ∨ x.page.base + x.page.size < va + z then some (0x105, va)
    else if (rd && !x.page.rd) || (wr && !x.page.wr) then some (0x106, va)
    else if atomic ∧ va % z ≠ 0 then some (0x107, va)
    else none

/-- A new entry of the LS slot stands last, but before the EC slot's of the same sc (05 R119). -/
def beforeLate {α : Type} (late : α → Bool) (e : α) (l : List α) : List α :=
  (l.reverse.dropWhile late).reverse ++ e :: (l.reverse.takeWhile late).reverse

/-- The access joins its tile's order of global accesses (05 R119, R127). -/
def ordering (g : Region) (cu : Cursor) (id : Nat) (load item acq rel : Bool) (cls : BitVec 4) (p : Page) (va z : Nat) : Region :=
  let e : Acc :=
    { id := id, load := load, item := item, engine := false, fence := none, cls := cls, acq := acq, rel := rel
      stitch := g.stitch, iss := g.now, spans := [(p.target, p.dev, p.place + (va - p.base), z)] }
  ofTile g cu fun x => { x with order := beforeLate (fun f => f.engine && f.iss == g.now) e x.order }

/-- Fewer than 256 items are gated in the stitch (09 R242). -/
def RoomForItem (g : Region) : Prop := (g.items.filter fun i => !i.released).length < 256

/-- An item of the tile's EC slot, issued in this sc. -/
def engineItemNow (g : Region) (cu : Cursor) (i : Item) : Bool :=
  (match i.kind with | .cmd _ => true | _ => false) && decide (i.tile = cu.t ∧ i.key / 65536 = g.now)

/-- A gated item of the LS slot (05 R124). -/
def gating (g : Region) (cu : Cursor) (id : Nat) (k : ItemKind) (code : BitVec 8) (va z : Nat) (p : Page) (v : Val) (att : GAtt) :
    Region :=
  let i : Item :=
    { id := id, kind := k, tile := cu.t, key := orderKey g.now cu.t cu.b cu.slot, stitch := g.stitch, released := false
      va := va, page := some p, bytes := (storedBytes z v).map (·.1), bad := v.bad, cls := att.cls
      scope := att.scope.code, flav := att.flav.code, wcode := code, tag := none, lost := false, moved := [], sends := 0 }
  { g with items := beforeLate (engineItemNow g cu) i g.items }

/-- The width code and the operation code of an item's record (13 R358). -/
def widthCode (wid : Wid) : BitVec 8 :=
  match wid with
  | .b => 0
  | .h => 1
  | .w => 2
  | .d => 3

def wordBytes (dw : Bool) : Nat := if dw then 8 else 4

/-- The two families of atomic items. -/
structure UpdateRow where
  op : AtomA → Instr
  kind : AOp → Bool → Word → ItemKind

def updateRows : List UpdateRow := [⟨.atom, .atom⟩, ⟨.red, .red⟩]

end Sys2Proof.Claims

open Sys2Proof Sys2Proof.Machine Sys2Proof.Claims

/-- 03 R62, R75; 09 R223 to R225; 20 R445: a local load samples its z bytes now and lands at issue + 4 in its destination and
in lm; a misaligned address raises 0x091, any other bad one 0x090; poison in a clean-filled segment is the event cause 0x302;
a re-issue uses a_0 + n·S. That 0x091 comes before 0x090 is the model's reading (Assumption 46). -/
def Sys2Proof.Claims.LocalLoadResult : Prop :=
  ∀ row ∈ loadRows, ∀ (o : LdA) (s : State) (cu : Cursor) (g : Region) (a : Word),
    Issuing s cu g → On g cu o.gd → NoneMissing g cu →
    Address cu (row.op o) (loadAddress s g cu o.a o.b o.c o.imm) o.step.toInt a →
      (InScratchpad g a row.z → (g.tile cu.t).cleanHit a.toNat row.z = false →
        exec (row.op o) s = .next (left s (sending
          (active g cu (slotState cu (row.op o) [loadAddress s g cu o.a o.b o.c o.imm])) cu (g.now + 4)
          (.scalar (some o.d) (some .lm) (loaded row.sx (g.spRead s.fresh cu.t a.toNat row.z)))))) ∧
      (InScratchpad g a row.z → (g.tile cu.t).cleanHit a.toNat row.z = true →
        ∃ va, exec (row.op o) s = .next (left s (raisingEventAt g cu 0x302 va))) ∧
      (¬InScratchpad g a row.z → exec (row.op o) s = .next (left s (raising g cu (scratchpadCause a row.z))))

/-- 05 R117; 09 R224, R225: a local store puts its z low bytes in flight to perform at issue + 2 at its address, and stores
nowhere else; a bad address raises its cause. -/
def Sys2Proof.Claims.LocalStoreResult : Prop :=
  ∀ row ∈ storeRows, ∀ (o : StA) (s : State) (cu : Cursor) (g : Region) (a : Word),
    Issuing s cu g → On g cu o.gd → NoneMissing g cu →
    Address cu (row.op o) (storeAddress s g cu o.a o.c o.imm) o.step.toInt a →
      (InScratchpad g a row.z →
        exec (row.op o) s = .next (left s (sending
          (active g cu (slotState cu (row.op o) [storeAddress s g cu o.a o.c o.imm])) cu (g.now + 2)
          (.store cu.t [(a.toNat, storedBytes row.z (operandValue s g cu o.b))])))) ∧
      (¬InScratchpad g a row.z → exec (row.op o) s = .next (left s (raising g cu (scratchpadCause a row.z))))

/-- 03 R62, R75; 05 R117; 09 R224, R225: local loads and stores. -/
def Obligations.LocalLoadAndStoreResult : Prop := LocalLoadResult ∧ LocalStoreResult

/-- 02 R34, R35; 09 R226: LDX samples its target at issue + 3 + d + 4·s and lands at issue + 6 + 2·d + 8·s; STX performs at
issue + 6 + 2·d + 8·s; a target outside the region raises 0x092, a bad address 0x090 or 0x091. -/
def Obligations.RemoteLoadAndStoreResult : Prop :=
  ∀ (s : State) (cu : Cursor) (g : Region) (a : Word), Issuing s cu g → NoneMissing g cu →
    (∀ o : LdxA, On g cu o.gd → Address cu (.ldx o) (storeAddress s g cu o.a o.c 0) o.step.toInt a →
      (∀ u d k, g.remote cu.t o.dx o.dy = some (u, d, k) → InScratchpad g a (bytesOf o.w) →
        exec (.ldx o) s = .next (left s (sending (active g cu (slotState cu (.ldx o) [storeAddress s g cu o.a o.c 0])) cu
          (g.now + (3 + d + 4 * k)) (.sample u a.toNat (bytesOf o.w) o.s o.d (g.now + (6 + 2 * d + 8 * k)))))) ∧
      (∀ u d k, g.remote cu.t o.dx o.dy = some (u, d, k) → ¬InScratchpad g a (bytesOf o.w) →
        exec (.ldx o) s = .next (left s (raising g cu (scratchpadCause a (bytesOf o.w))))) ∧
      (g.remote cu.t o.dx o.dy = none → exec (.ldx o) s = .next (left s (raising g cu 0x092)))) ∧
    (∀ o : StxA, On g cu o.gd → Address cu (.stx o) (storeAddress s g cu o.a o.c 0) o.step.toInt a →
      (∀ u d k, g.remote cu.t o.dx o.dy = some (u, d, k) → InScratchpad g a (bytesOf o.w) →
        exec (.stx o) s = .next (left s (sending (active g cu (slotState cu (.stx o) [storeAddress s g cu o.a o.c 0])) cu
          (g.now + (6 + 2 * d + 8 * k)) (.store u [(a.toNat, storedBytes (bytesOf o.w) (operandValue s g cu o.b))])))) ∧
      (∀ u d k, g.remote cu.t o.dx o.dy = some (u, d, k) → ¬InScratchpad g a (bytesOf o.w) →
        exec (.stx o) s = .next (left s (raising g cu (scratchpadCause a (bytesOf o.w))))) ∧
      (g.remote cu.t o.dx o.dy = none → exec (.stx o) s = .next (left s (raising g cu 0x092))))

/-- 02 R38; 05 R130; 09 R227, R229, R231, R238: XLATE's handle is due at issue + 24, from the translation store or from a
walk, and an address of more than 57 bits raises 0x100; HREL clears the handle and discards an XLATE to it on its way; GLD's
value is due at issue + 384, and a failing check raises 0x104, 0x105 or 0x106; FENCE.C takes its place in the tile's order. -/
def Obligations.HandlesLoadsAndFences : Prop :=
  ∀ (s : State) (cu : Cursor) (g : Region), Issuing s cu g →
    (∀ (o : XlateA) (v : Word), On g cu o.gd → NoneMissing g cu →
      Address cu (.xlate o) (loadAddress s g cu o.a o.b o.c o.imm) o.step.toInt v → v.toNat < 2 ^ 57 →
      exec (.xlate o) s = .next (left s (awaiting
        (active g cu (slotState cu (.xlate o) [loadAddress s g cu o.a o.b o.c o.imm])) cu s.fresh (g.now + 24) (.xlate v.toNat)
        (match g.trans.find? fun p => decide (p.base ≤ v.toNat) && decide (v.toNat < p.base + p.size) with
          | some p => .handle ⟨v.toNat, p⟩
          | none => .waiting)
        none (some o.h) none v.toNat))) ∧
    (∀ (o : XlateA) (v : Word), On g cu o.gd → NoneMissing g cu →
      Address cu (.xlate o) (loadAddress s g cu o.a o.b o.c o.imm) o.step.toInt v → 2 ^ 57 ≤ v.toNat →
      exec (.xlate o) s = .next (left s (raisingAt g cu 0x100 v.toNat))) ∧
    (∀ (gd : Guard) (h : BitVec 4), On g cu gd → cu.t < g.tiles.length →
      ∃ g', exec (.hrel gd h) s = .next (left s g') ∧ (g'.cur cu).bank.h[h.toNat]'h.isLt = none ∧
        g'.awaits = g.awaits.filter fun a => !(a.tile == cu.t && a.strB == cu.b && a.hnd == some h)) ∧
    (∀ (o : GldA) (off : Word) (va : Nat) (p : Page), On g cu o.gd → NoneMissing g cu →
      Address cu (.gld o) (sumOf [operandValue s g cu o.b, ⟨o.att.d7.signExtend 64, false⟩]) o.step.toInt off →
      Accessible g cu o.h off (bytesOf o.w) true false false va p →
      exec (.gld o) s = .next (left s (ordering (awaiting
        (active g cu (slotState cu (.gld o) [sumOf [operandValue s g cu o.b, ⟨o.att.d7.signExtend 64, false⟩]])) cu
          s.fresh (g.now + 384) (.gld (bytesOf o.w) o.s) .waiting (realDst o.d) none (some p) va) cu
        s.fresh true false (o.att.flav == .acq || o.att.flav == .ar) false o.att.cls p va (bytesOf o.w)))) ∧
    (∀ (o : GldA) (off : Word) (c : Cause) (va : Nat), On g cu o.gd → NoneMissing g cu →
      Address cu (.gld o) (sumOf [operandValue s g cu o.b, ⟨o.att.d7.signExtend 64, false⟩]) o.step.toInt off →
      accessFault g cu o.h off (bytesOf o.w) true false false = some (c, va) →
      exec (.gld o) s = .next (left s (raisingAt g cu c va))) ∧
    (∀ (gd : Guard) (m : BitVec 16), On g cu gd →
      exec (.fenceC gd m) s = .next (left s (ofTile (active g cu (slotState cu (.fenceC gd m) [])) cu fun x =>
        let e : Acc :=
          { id := s.fresh, load := false, item := false, engine := false, fence := some m, cls := 0, acq := false
            rel := false, stitch := g.stitch, iss := g.now, spans := [] }
        { x with order := beforeLate (fun f => f.engine && f.iss == g.now) e x.order })))

/-- 05 R124; 09 R230, R232 to R235, R242: GST, ATOM and RED fix address and data at issue and add one gated item; a full
stitch raises 0x098; the access checks raise 0x104, 0x105, 0x106 and, of an atomic, 0x107. -/
def Sys2Proof.Claims.GatedItemsOfTheLoadStoreSlot : Prop :=
  ∀ (s : State) (cu : Cursor) (g : Region) (off : Word) (va : Nat) (p : Page),
    Issuing s cu g → NoneMissing g cu → g.stub = false →
    (∀ o : GstA, On g cu o.gd →
      Address cu (.gst o) (sumOf [operandValue s g cu o.c, ⟨o.att.d7.signExtend 64, false⟩]) o.step.toInt off →
      (Accessible g cu o.h off (bytesOf o.w) false true false va p →
        (RoomForItem g → exec (.gst o) s = .next (left s (ordering (gating
          (active g cu (slotState cu (.gst o) [sumOf [operandValue s g cu o.c, ⟨o.att.d7.signExtend 64, false⟩]])) cu s.fresh .gst
            (widthCode o.w) va (bytesOf o.w) p (operandValue s g cu o.b) o.att) cu
          s.fresh false true false (o.att.flav == .rel || o.att.flav == .ar) o.att.cls p va (bytesOf o.w)))) ∧
        (¬RoomForItem g → exec (.gst o) s = .next (left s (raising g cu 0x098)))) ∧
      (∀ c, accessFault g cu o.h off (bytesOf o.w) false true false = some (c, va) →
        exec (.gst o) s = .next (left s (raisingAt g cu c va)))) ∧
    (∀ row ∈ updateRows, ∀ o : AtomA, On g cu o.gd →
      Address cu (row.op o) (sumOf [operandValue s g cu o.c, ⟨o.att.d7.signExtend 64, false⟩]) o.step.toInt off →
      (Accessible g cu o.h off (wordBytes o.dw) true true true va p →
        (RoomForItem g → exec (row.op o) s = .next (left s (ordering (gating
          (active g cu (slotState cu (row.op o) [sumOf [operandValue s g cu o.c, ⟨o.att.d7.signExtend 64, false⟩]])) cu s.fresh
            (row.kind o.op o.dw (operandValue s g cu o.b).bits) ((AOp.code o.op).setWidth 8) va (wordBytes o.dw) p
            (operandValue s g cu o.b) o.att) cu
          s.fresh false true false (o.att.flav == .rel || o.att.flav == .ar) o.att.cls p va (wordBytes o.dw)))) ∧
        (¬RoomForItem g → exec (row.op o) s = .next (left s (raising g cu 0x098)))) ∧
      (∀ c, accessFault g cu o.h off (wordBytes o.dw) true true true = some (c, va) →
        exec (row.op o) s = .next (left s (raisingAt g cu c va))))

/-- 02 R49; 07 R169; 09 R233, R236: ATOMR checks its access, adds its item, remembers its destination and presents the
commit of its record; without a record it raises 0x0B0, with another sticky slot active 0x0B1, and its access checks raise
0x104 to 0x107. -/
def Sys2Proof.Claims.AtomrPresentsItsCommit : Prop :=
  ∀ (s : State) (cu : Cursor) (g : Region) (o : AtomrA) (va : Nat) (p : Page),
    Issuing s cu g → NoneMissing g cu → g.stub = false → cu.t < g.tiles.length →
    let c := operandValue s g cu o.c
    let disp : Val := ⟨o.att.d7.signExtend 64, false⟩
    let off := if o.op = .cas then disp else sumOf [c, disp]
    off.bad = false →
    (∀ id, o.rid = some id → id ≠ 0 → (g.pat.recs.find? fun r => r.id = id).isSome = true →
      Accessible g cu o.h off.bits (wordBytes o.dw) true true true va p →
      ((g.cur cu).va = none → (g.cur cu).mx = none → cu.present.getLsbD 3 = false → cu.present.getLsbD 4 = false →
        RoomForItem g →
        ∃ g', exec (.atomr o) s = .next (left s g') ∧ (g'.cur cu).presented = some ⟨.atomr, id, g.now⟩ ∧
          (g'.cur cu).ls = none ∧ (g'.cur cu).bank = (g.cur cu).bank ∧
          g'.items = (gating g cu s.fresh (.atomr o.op o.dw (operandValue s g cu o.b).bits c.bits s.fresh)
            ((AOp.code o.op).setWidth 8) va (wordBytes o.dw) p
            ⟨(operandValue s g cu o.b).bits, (operandValue s g cu o.b).bad || (o.op == .cas && c.bad)⟩ o.att).items ∧
          g'.awaits.length = g.awaits.length + 1 ∧ g'.flights = g.flights) ∧
      (((g.cur cu).va.isSome = true ∨ (g.cur cu).mx.isSome = true) →
        exec (.atomr o) s = .next (left s (raising g cu 0x0B1)))) ∧
    (∀ id c, o.rid = some id → id ≠ 0 → (g.pat.recs.find? fun r => r.id = id).isSome = true →
      accessFault g cu o.h off.bits (wordBytes o.dw) true true true = some (c, va) →
      exec (.atomr o) s = .next (left s (raisingAt g cu c va))) ∧
    (o.rid = none → exec (.atomr o) s = .next (left s (raising g cu 0x0B0)))

/-- 05 R124; 09 R230, R232 to R236, R242: the items that a commit releases. -/
def Obligations.GatedItemsAndAtomr : Prop := GatedItemsOfTheLoadStoreSlot ∧ AtomrPresentsItsCommit

namespace Sys2Proof.Claims

open Sys2Proof.Machine

/-! ### Vector class (10 R255 to R279) -/

/-- Element e of a vector register, w bits wide, and whether a lane it lies in is poisoned. -/
def elementOf (w : Nat) (r : VReg) (e : Nat) : Nat × Bool :=
  (r.bits.toNat / 2 ^ (w * e) % 2 ^ w, r.bad.getLsbD (w * e / 32) || r.bad.getLsbD ((w * e + w - 1) / 32))

/-- Element e of a vector-class source: of a register, or the one a scalar broadcasts (07 R175). -/
def sourceElement (s : State) (g : Region) (cu : Cursor) (f : Fmt) (a : VSrc) (e : Nat) : Nat × Bool :=
  let all (x : Val) : Nat × Bool := (x.bits.toNat % 2 ^ f.width, x.bad)
  match a with
  | .v n => elementOf f.width ((g.cur cu).bank.v[n.toNat]'n.isLt) e
  | .g n => all (operandValue s g cu (.g n))
  | .k n => all (operandValue s g cu (.k n))
  | .latch l => all (operandValue s g cu (.latch l))
  | .imm v => (convert f .rne false 0 (.ofInt v.toInt), false)

/-- A vector-class source as a 64-bit scalar; a vector register is none. -/
def sourceScalar (s : State) (g : Region) (cu : Cursor) : VSrc → Val
  | .v _ => ⟨0, false⟩
  | .g n => operandValue s g cu (.g n)
  | .k n => operandValue s g cu (.k n)
  | .latch l => operandValue s g cu (.latch l)
  | .imm v => ⟨v.signExtend 64, false⟩

/-- The elements a mask admits: the mask bit of the lane that holds an element's bit 0 (10 R255). -/
def admittedElements (mask : BitVec 32) (f : Fmt) : List Nat :=
  (List.range f.count).filter fun e => mask.getLsbD (f.width * e / 32)

/-- A stochastic rounding takes one generator position (04 R104). -/
def positioned (g : Region) (cu : Cursor) (r : Rnd) : Region :=
  if r = .sr then ofStream g cu fun x => { x with srpos := x.srpos + 1 } else g

/-- The random word of element e in this issue (04 R103). -/
def randomWord (g : Region) (cu : Cursor) (e : Nat) : BitVec 32 :=
  srWord g.launch.seed (g.cur cu).srpos cu.t cu.b e

/-- A rounding to the operation's format under its rounding field. -/
def rounded (m : VMod) (rand : BitVec 32) (x : Exact) : Nat := convert m.fmt m.rnd m.sat rand x

/-- An integer element: signed, or unsigned with .U. -/
def elementInt (unsigned : Bool) (w x : Nat) : Int := if unsigned then (x % 2 ^ w : Nat) else signedOf w x

/-- The low w bits of an integer. -/
def lowBits (w : Nat) (i : Int) : Nat := (i % 2 ^ w).toNat

/-- A row for a family that works element by element: how many sources it reads, its latency, and what it computes. -/
structure ElementRow where
  op : VopA → Instr
  sources : Nat
  lat : Fmt → Nat
  value : VMod → BitVec 32 → Nat → Nat → Nat → Nat

/-- 4 sc for floating, 2 for integer elements. -/
def floatLatency (f : Fmt) : Nat := if f.isInt then 2 else 4

/-- Saturation to w bits (10 R265). -/
def saturated (unsigned : Bool) (w : Nat) (r : Int) : Nat :=
  if unsigned then lowBits w (max 0 (min (2 ^ w - 1) r)) else lowBits w (max (-2 ^ (w - 1)) (min (2 ^ (w - 1) - 1) r))

/-- The families of 10 R263 to R265, and VMOV of R268. -/
def elementRows : List ElementRow :=
  [ ⟨.vadd, 2, floatLatency, fun m r x y _ => if m.fmt.isInt then (x + y) % 2 ^ m.fmt.width
      else rounded m r (Exact.sum (m.rnd == .rdn) [fmtValue m.fmt x, fmtValue m.fmt y])⟩,
    ⟨.vsub, 2, floatLatency, fun m r x y _ => if m.fmt.isInt then lowBits m.fmt.width ((x : Int) - y)
      else rounded m r (Exact.sum (m.rnd == .rdn) [fmtValue m.fmt x, (fmtValue m.fmt y).negate])⟩,
    ⟨.vmul, 2, floatLatency, fun m r x y _ => if m.fmt.isInt then x * y % 2 ^ m.fmt.width
      else rounded m r ((fmtValue m.fmt x).mul (fmtValue m.fmt y))⟩,
    ⟨.vmin, 2, fun _ => 2, fun m _ x y _ =>
      if m.fmt.isInt then (if elementInt m.v4 m.fmt.width x ≤ elementInt m.v4 m.fmt.width y then x else y)
      else floatPick m.fmt false x y⟩,
    ⟨.vmax, 2, fun _ => 2, fun m _ x y _ =>
      if m.fmt.isInt then (if elementInt m.v4 m.fmt.width x ≥ elementInt m.v4 m.fmt.width y then x else y)
      else floatPick m.fmt true x y⟩,
    ⟨.vabs, 1, fun _ => 2, fun m _ x _ _ =>
      if m.fmt.isInt then lowBits m.fmt.width (signedOf m.fmt.width x).natAbs
      else if (fmtValue m.fmt x).isNan then fmtNan m.fmt else x % 2 ^ (m.fmt.width - 1)⟩,
    ⟨.vneg, 1, fun _ => 2, fun m _ x _ _ =>
      if m.fmt.isInt then lowBits m.fmt.width (-(x : Int))
      else if (fmtValue m.fmt x).isNan then fmtNan m.fmt else x ^^^ 2 ^ (m.fmt.width - 1)⟩,
    ⟨.vfma, 3, fun _ => 5, fun m r x y z =>
      rounded m r (Exact.sum (m.rnd == .rdn) [(fmtValue m.fmt x).mul (fmtValue m.fmt y), fmtValue m.fmt z])⟩,
    ⟨.vand, 2, fun _ => 2, fun _ _ x y _ => x &&& y⟩,
    ⟨.vor, 2, fun _ => 2, fun _ _ x y _ => x ||| y⟩,
    ⟨.vxor, 2, fun _ => 2, fun _ _ x y _ => x ^^^ y⟩,
    ⟨.vshl, 2, fun _ => 2, fun m _ x y _ => x * 2 ^ (y % m.fmt.width)⟩,
    ⟨.vshr, 2, fun _ => 2, fun m _ x y _ => x / 2 ^ (y % m.fmt.width)⟩,
    ⟨.vsar, 2, fun _ => 2, fun m _ x y _ => lowBits m.fmt.width (signedOf m.fmt.width x / 2 ^ (y % m.fmt.width))⟩,
    ⟨.vadds, 2, fun _ => 2, fun m _ x y _ =>
      saturated m.v4 m.fmt.width (elementInt m.v4 m.fmt.width x + elementInt m.v4 m.fmt.width y)⟩,
    ⟨.vsubs, 2, fun _ => 2, fun m _ x y _ =>
      saturated m.v4 m.fmt.width (elementInt m.v4 m.fmt.width x - elementInt m.v4 m.fmt.width y)⟩,
    ⟨.vmov, 1, fun _ => 2, fun _ _ x _ _ => x⟩ ]

/-- A vector operation has no address operand: its slot is active with this state (07 R167). -/
def vectorActive (g : Region) (cu : Cursor) (op : Instr) : Region := active g cu (slotState cu op [])

/-- The relations of 10 R266 on integers and on exact values. -/
structure RelationRow where
  op : VcmpA → Instr
  ints : Int → Int → Bool
  floats : Exact → Exact → Bool

def relationRows : List RelationRow :=
  [ ⟨.vcmpeq, fun x y => x == y, fun x y => x.eq y⟩,
    ⟨.vcmpne, fun x y => x != y, fun x y => !x.eq y⟩,
    ⟨.vcmplt, fun x y => decide (x < y), fun x y => x.lt y⟩,
    ⟨.vcmple, fun x y => decide (x ≤ y), fun x y => x.lt y || x.eq y⟩ ]

/-- The relation between elements x and y. -/
def related (r : RelationRow) (m : VMod) (x y : Nat) : Bool :=
  if m.fmt.isInt then r.ints (elementInt m.v4 m.fmt.width x) (elementInt m.v4 m.fmt.width y)
  else r.floats (fmtValue m.fmt x) (fmtValue m.fmt y)

/-- The index of VBCAST, VEXT and VINS (10 R268). -/
def elementIndex (s : State) (g : Region) (cu : Cursor) (m : VMod) (b : VSrc) : Nat :=
  ((sourceScalar s g cu b).bits.toNat + (m.x.extractLsb' 0 7).toNat) % m.fmt.count

/-- A source element is poisoned among the admitted ones. -/
def admittedPoison (mask : BitVec 32) (f : Fmt) (r : VReg) : Bool := (admittedElements mask f).any fun e => (elementOf f.width r e).2

/-- The reductions of 10 R270, of the format, the mask, the register and the random words. -/
structure ReductionRow where
  op : VscalA → Instr
  value : VMod → BitVec 32 → VReg → (Nat → BitVec 32) → Word

def reductionRows : List ReductionRow :=
  [⟨.vredsum, sumValue⟩, ⟨.vredmax, fun m k r _ => pickValue true m k r⟩, ⟨.vredmin, fun m k r _ => pickValue false m k r⟩]

/-- The elements of a conversion: index, source element, destination element (10 R272). -/
def converted (fd fs : Fmt) (q : Nat) : List (Nat × Nat × Nat) :=
  let n := min fs.count fd.count
  (List.range n).map fun e => if fs.count > fd.count then (e, q * n + e, e) else (e, e, q * n + e)

/-- The source format and the part of a conversion. -/
def sourceFmt (m : VMod) : Fmt := (Fmt.ofCode (m.x.extractLsb' 0 4)).getD .f32

/-- A conversion family: its latency, whether it reads scale words, its value from the scale word, the random word and the
source element. -/
structure ConversionRow where
  op : VopA → Instr
  lat : Nat
  scaled : Bool
  value : VMod → Nat → BitVec 32 → Nat → Nat

def conversionRows : List ConversionRow :=
  [ ⟨.vcvt, 3, false, fun m _ r x => rounded m r (fmtValue (sourceFmt m) x)⟩,
    ⟨.vquant, 4, true, fun m sc r x => rounded m r (quantOf (fmtValue (sourceFmt m) x) (f32Val sc))⟩,
    ⟨.vdq, 4, true, fun m sc r x => rounded m r ((fmtValue (sourceFmt m) x).mul (f32Val sc))⟩ ]

/-- The lane-mask families of 10 R276. -/
structure MaskRow where
  op : Lm2A → Instr
  fn : BitVec 32 → BitVec 32 → BitVec 32

def maskRows : List MaskRow :=
  [⟨.lmand, fun a b => a &&& b⟩, ⟨.lmor, fun a b => a ||| b⟩, ⟨.lmxor, fun a b => a ^^^ b⟩, ⟨.lmandn, fun a b => a &&& ~~~b⟩]

/-- The enabled lanes, ascending. -/
def enabledLanes (mask : BitVec 32) : List Nat := (List.range 32).filter fun l => mask.getLsbD l

/-- Lane l of a register. -/
def laneValue (r : VReg) (l : Nat) : Val := ⟨BitVec.ofNat 64 (r.bits.toNat / 2 ^ (32 * l) % 2 ^ 32), r.bad.getLsbD l⟩

/-- Each enabled lane's own address (10 R261). -/
def laneAddresses (base : Word) (x : VReg) (mask : BitVec 32) : List (Nat × Nat) :=
  (enabledLanes mask).map fun l => (l, (base + (laneValue x l).bits).toNat)

def gatherSize : GWid → Nat
  | .b => 1
  | .h => 2
  | .w => 4

/-- The enabled lanes whose own z bytes fail the check, ascending (10 R261). -/
def outsideLanes (g : Region) (z : Nat) (ps : List (Nat × Nat)) : List (Nat × Nat) :=
  ps.filter fun p => !(p.2 % z == 0 && decide (p.2 + z ≤ 0x8000 * g.pat.nb))

/-- The check of VLD and VST: 128 bytes in the scratchpad, whatever the mask (10 R260). -/
def InScratchpad128 (g : Region) (a : Word) : Prop := a.toNat % 4 = 0 ∧ a.toNat + 128 ≤ 0x8000 * g.pat.nb

end Sys2Proof.Claims

open Sys2Proof Sys2Proof.Machine Sys2Proof.Claims

/-- 10 R260, R261; 20 R445: VLD and VGATH sample their enabled lanes now, VST and VSCAT put them in flight; VLD lands at
issue + 5, VGATH at issue + 8, VST performs at issue + 2 and VSCAT at issue + 3; an address that fails its check raises 0x091 or
0x090 (the lowest failing lane decides), a poisoned index 0x301, poison in a clean-filled segment the event cause 0x302. -/
def Obligations.VectorMemoryAccess : Prop :=
  ∀ (s : State) (cu : Cursor) (g : Region) (a : Word), Issuing s cu g → NoneMissing g cu →
    (∀ (o : VldA) (mask : BitVec 32), On g cu o.gd → Lanes g cu ⟨o.lm, false⟩ mask →
      Address cu (.vld o) (loadAddress s g cu o.a o.b o.c o.imm) o.step.toInt a →
      (InScratchpad128 g a → (∀ l ∈ enabledLanes mask, (g.tile cu.t).cleanHit (a.toNat + 4 * l) 4 = false) →
        exec (.vld o) s = .next (left s (sending
          (active g cu (slotState cu (.vld o) [loadAddress s g cu o.a o.b o.c o.imm])) cu (g.now + 5)
          (elemWrite o.d 32 ((enabledLanes mask).map fun l =>
            (l, numberOf (g.spRead s.fresh cu.t (a.toNat + 4 * l) 4),
              (g.spRead s.fresh cu.t (a.toNat + 4 * l) 4).any (·.2))))))) ∧
      (InScratchpad128 g a → (∃ l ∈ enabledLanes mask, (g.tile cu.t).cleanHit (a.toNat + 4 * l) 4 = true) →
        ∃ va, exec (.vld o) s = .next (left s (raisingEventAt g cu 0x302 va))) ∧
      (¬InScratchpad128 g a →
        exec (.vld o) s = .next (left s (raising g cu (if a.toNat % 4 ≠ 0 then 0x091 else 0x090))))) ∧
    (∀ (o : VstA) (mask : BitVec 32), On g cu o.gd → Lanes g cu ⟨o.lm, false⟩ mask →
      Address cu (.vst o) (storeAddress s g cu o.a o.c o.imm) o.step.toInt a →
      (InScratchpad128 g a →
        exec (.vst o) s = .next (left s (sending
          (active g cu (slotState cu (.vst o) [storeAddress s g cu o.a o.c o.imm])) cu (g.now + 2)
          (.store cu.t ((enabledLanes mask).map fun l =>
            (a.toNat + 4 * l, storedBytes 4 (laneValue ((g.cur cu).bank.v[o.b.toNat]'o.b.isLt) l))))))) ∧
      (¬InScratchpad128 g a →
        exec (.vst o) s = .next (left s (raising g cu (if a.toNat % 4 ≠ 0 then 0x091 else 0x090))))) ∧
    (∀ (o : VgathA) (mask : BitVec 32), On g cu o.gd → Lanes g cu ⟨o.lm, false⟩ mask →
      Address cu (.vgath o) (storeAddress s g cu o.a o.c o.imm) o.step.toInt a →
      let x := (g.cur cu).bank.v[o.x.toNat]'o.x.isLt
      let z := gatherSize o.z
      ((∃ l ∈ enabledLanes mask, x.bad.getLsbD l = true) → exec (.vgath o) s = .next (left s (raising g cu 0x301))) ∧
      ((∀ l ∈ enabledLanes mask, x.bad.getLsbD l = false) → ∀ p rest, outsideLanes g z (laneAddresses a x mask) = p :: rest →
        exec (.vgath o) s = .next (left s (raising g cu (if p.2 % z ≠ 0 then 0x091 else 0x090)))) ∧
      ((∀ l ∈ enabledLanes mask, x.bad.getLsbD l = false) → outsideLanes g z (laneAddresses a x mask) = [] →
        (∃ p ∈ laneAddresses a x mask, (g.tile cu.t).cleanHit p.2 z = true) →
        ∃ va, exec (.vgath o) s = .next (left s (raisingEventAt g cu 0x302 va))) ∧
      ((∀ l ∈ enabledLanes mask, x.bad.getLsbD l = false) → outsideLanes g z (laneAddresses a x mask) = [] →
        (∀ p ∈ laneAddresses a x mask, (g.tile cu.t).cleanHit p.2 z = false) →
        exec (.vgath o) s = .next (left s (sending
          (active g cu (slotState cu (.vgath o) [storeAddress s g cu o.a o.c o.imm])) cu (g.now + 8)
          (elemWrite o.d 32 ((laneAddresses a x mask).map fun p =>
            (p.1, if o.s then lowBits 32 (signedOf (8 * z) (numberOf (g.spRead s.fresh cu.t p.2 z)))
              else numberOf (g.spRead s.fresh cu.t p.2 z), (g.spRead s.fresh cu.t p.2 z).any (·.2)))))))) ∧
    (∀ (o : VscatA) (mask : BitVec 32), On g cu o.gd → Lanes g cu ⟨o.lm, false⟩ mask →
      Address cu (.vscat o) (sumOf [operandValue s g cu o.c, ⟨o.imm.signExtend 64, false⟩]) o.step.toInt a →
      let x := (g.cur cu).bank.v[o.x.toNat]'o.x.isLt
      let z := gatherSize o.z
      ((∃ l ∈ enabledLanes mask, x.bad.getLsbD l = true) → exec (.vscat o) s = .next (left s (raising g cu 0x301))) ∧
      ((∀ l ∈ enabledLanes mask, x.bad.getLsbD l = false) → outsideLanes g z (laneAddresses a x mask) = [] →
        exec (.vscat o) s = .next (left s (sending
          (active g cu (slotState cu (.vscat o) [sumOf [operandValue s g cu o.c, ⟨o.imm.signExtend 64, false⟩]])) cu (g.now + 3)
          (.store cu.t ((laneAddresses a x mask).map fun p =>
            (p.2, storedBytes z (laneValue ((g.cur cu).bank.v[o.b.toNat]'o.b.isLt) p.1))))))) ∧
      ((∀ l ∈ enabledLanes mask, x.bad.getLsbD l = false) → ∀ p rest, outsideLanes g z (laneAddresses a x mask) = p :: rest →
        exec (.vscat o) s = .next (left s (raising g cu (if p.2 % z ≠ 0 then 0x091 else 0x090)))))

/-- 04 R103, R104; 10 R255, R263 to R265, R268: each elementwise family leaves, for every element its mask admits and for no
other, the value of its page; a stochastic rounding takes one position. -/
def Sys2Proof.Claims.ElementwiseVectorResult : Prop :=
  ∀ row ∈ elementRows, ∀ (o : VopA) (s : State) (cu : Cursor) (g : Region) (mask : BitVec 32),
    Issuing s cu g → NoneMissing g cu → Lanes g cu o.m.gd mask →
      exec (row.op o) s = .next (left s (sending (positioned (vectorActive g cu (row.op o)) cu o.m.rnd) cu
        (g.now + row.lat o.m.fmt)
        (elemWrite o.d o.m.fmt.width ((admittedElements mask o.m.fmt).map fun e =>
          let x := sourceElement s g cu o.m.fmt o.a e
          let y := if 1 < row.sources then sourceElement s g cu o.m.fmt o.b e else (0, false)
          let z := if 2 < row.sources then sourceElement s g cu o.m.fmt o.c e else (0, false)
          (e, row.value o.m (randomWord g cu e) x.1 y.1 z.1, x.2 || y.2 || z.2)))))

/-- 10 R255: when a vector result lands, each element it names holds its value, and every other element of the register, of
the same format, keeps its own. -/
def Sys2Proof.Claims.VectorResultWritesItsElementsOnly : Prop :=
  ∀ (f : Fmt) (d : BitVec 5) (es : List ElemOut) (k : Bank),
    (es.map (·.1)).Nodup → (∀ e ∈ es, e.1 < f.count) →
      (∀ e ∈ es, elemOf f.width ((Flight.apply (elemWrite d f.width es) k).getV d).bits e.1 = e.2.1 % 2 ^ f.width) ∧
      (∀ i, i < f.count → i ∉ es.map (·.1) →
        elemOf f.width ((Flight.apply (elemWrite d f.width es) k).getV d).bits i = elemOf f.width (k.getV d).bits i) ∧
      (∀ d', d' ≠ d → (Flight.apply (elemWrite d f.width es) k).getV d' = k.getV d')

/-- 04 R103, R104; 10 R255, R263 to R265, R268: elementwise vector operations and what their results write. -/
def Obligations.ElementwiseVectorResults : Prop := ElementwiseVectorResult ∧ VectorResultWritesItsElementsOnly

/-- 10 R266: bit l of a compare's destination is the AND, with .ANY the OR, of the relation over the elements of lane l;
bits the guard excludes are not written. -/
def Obligations.VectorCompareResult : Prop :=
  ∀ row ∈ relationRows, ∀ (o : VcmpA) (s : State) (cu : Cursor) (g : Region) (mask : BitVec 32),
    Issuing s cu g → NoneMissing g cu → Lanes g cu o.m.gd mask →
      ∃ bits bad, exec (row.op o) s =
          .next (left s (sending (vectorActive g cu (row.op o)) cu (g.now + 2) (.mask o.d bits mask bad))) ∧
        (∀ l, l < 32 → bits.getLsbD l =
          let rs := (List.range (32 / o.m.fmt.width)).map fun i =>
            related row o.m (sourceElement s g cu o.m.fmt o.a (32 / o.m.fmt.width * l + i)).1
              (sourceElement s g cu o.m.fmt o.b (32 / o.m.fmt.width * l + i)).1
          if o.m.v5 then rs.any id else rs.all id) ∧
        bad = (admittedElements mask o.m.fmt).any fun e =>
          (sourceElement s g cu o.m.fmt o.a e).2 || (sourceElement s g cu o.m.fmt o.b e).2

/-- 10 R267 to R269: VSEL, VBCAST, VPERM and VINS write the elements their pages name, VEXT a scalar and lv, or nothing
where its element's lane is masked out. Which poison a result takes where not every source element is used (VBCAST, VINS, VEXT:
the element taken; VPERM: the element its index names) is the model's reading (Assumption 21). -/
def Sys2Proof.Claims.VectorSelectionAndMovement : Prop :=
  ∀ (s : State) (cu : Cursor) (g : Region) (mask : BitVec 32), Issuing s cu g → NoneMissing g cu →
    (∀ o : VopA, Lanes g cu o.m.gd mask →
      let f := o.m.fmt
      let i := elementIndex s g cu o.m o.b
      exec (.vsel o) s = .next (left s (sending (vectorActive g cu (.vsel o)) cu (g.now + 2)
        (elemWrite o.d f.width ((admittedElements mask f).map fun e =>
          let x := sourceElement s g cu f o.a e
          let y := sourceElement s g cu f o.b e
          let sel := (g.cur cu).bank.getM (o.m.x.extractLsb' 0 3)
          (e, if sel.bits.getLsbD (f.width * e / 32) ^^ o.m.x.getLsbD 3 then x.1 else y.1, x.2 || y.2 || sel.bad))))) ∧
      ((sourceScalar s g cu o.b).bad = false →
        exec (.vbcast o) s = .next (left s (sending (vectorActive g cu (.vbcast o)) cu (g.now + 2)
          (elemWrite o.d f.width ((admittedElements mask f).map fun e => (e, sourceElement s g cu f o.a i))))) ∧
        exec (.vins o) s = .next (left s (sending (vectorActive g cu (.vins o)) cu (g.now + 2)
          (elemWrite o.d f.width
            (if mask.getLsbD (f.width * i / 32) then [(i, sourceElement s g cu f o.a i)] else []))))) ∧
      ((∀ e ∈ admittedElements mask f, (sourceElement s g cu f o.b e).2 = false) →
        exec (.vperm o) s = .next (left s (sending (vectorActive g cu (.vperm o)) cu (g.now + 2)
          (elemWrite o.d f.width ((admittedElements mask f).map fun e =>
            (e, sourceElement s g cu f o.a ((sourceElement s g cu f o.b e).1 % f.count)))))))) ∧
    (∀ o : VscalA, Lanes g cu o.m.gd mask → (sourceScalar s g cu o.b).bad = false →
      let f := o.m.fmt
      let i := elementIndex s g cu o.m o.b
      let x := elementOf f.width ((g.cur cu).bank.v[o.a.toNat]'o.a.isLt) i
      exec (.vext o) s = .next (left s
        (if mask.getLsbD (f.width * i / 32) then
          sending (vectorActive g cu (.vext o)) cu (g.now + 3) (.scalar (some o.d) (some .lv)
            ⟨if o.m.v4 then BitVec.ofInt 64 (signedOf f.width x.1) else BitVec.ofNat 64 x.1, x.2⟩)
        else vectorActive g cu (.vext o))))

/-- 10 R270: a reduction lands in its destination and in lv at issue + 8; an integer sum is the exact sum of the admitted
elements. -/
def Sys2Proof.Claims.VectorReductionResult : Prop :=
  (∀ row ∈ reductionRows, ∀ (o : VscalA) (s : State) (cu : Cursor) (g : Region) (mask : BitVec 32),
    Issuing s cu g → Lanes g cu o.m.gd mask →
      exec (row.op o) s = .next (left s (sending (positioned (vectorActive g cu (row.op o)) cu o.m.rnd) cu (g.now + 8)
        (.scalar (some o.d) (some .lv)
          ⟨row.value o.m mask ((g.cur cu).bank.v[o.a.toNat]'o.a.isLt) (randomWord g cu),
            admittedPoison mask o.m.fmt ((g.cur cu).bank.v[o.a.toNat]'o.a.isLt)⟩)))) ∧
  (∀ (m : VMod) (mask : BitVec 32) (r : VReg) (rand : Nat → BitVec 32), m.fmt.isInt = true →
    sumValue m mask r rand =
      BitVec.ofInt 64 ((admittedElements mask m.fmt).map fun e => signedOf m.fmt.width (elementOf m.fmt.width r e).1).sum)

/-- 10 R267 to R270: selection, movement and reduction of elements (Assumption 21 for the poison of a result). -/
def Obligations.VectorSelectionMovementAndReduction : Prop := VectorSelectionAndMovement ∧ VectorReductionResult

/-- 10 R271 to R275, R279: the conversions write the elements of their part; VQSCALE's scale words land in its destination
and in lv; VTBL writes at issue + 10, and a slot that holds no table raises 0x0C3. -/
def Obligations.ConversionScalingAndTable : Prop :=
  (∀ row ∈ conversionRows, ∀ (o : VopA) (s : State) (cu : Cursor) (g : Region) (mask : BitVec 32),
    Issuing s cu g → NoneMissing g cu → Lanes g cu o.m.gd mask →
      exec (row.op o) s = .next (left s (sending (positioned (vectorActive g cu (row.op o)) cu o.m.rnd) cu (g.now + row.lat)
        (elemWrite o.d o.m.fmt.width ((converted o.m.fmt (sourceFmt o.m) (o.m.x.extractLsb' 4 2).toNat).filterMap fun p =>
          if mask.getLsbD (o.m.fmt.width * p.2.2 / 32) then
            let x := sourceElement s g cu (sourceFmt o.m) o.a p.2.1
            let sc := sourceScalar s g cu o.b
            some (p.2.2, row.value o.m (if row.scaled then sc.bits.toNat / 2 ^ (32 * (p.1 / 32)) % 2 ^ 32 else 0)
              (randomWord g cu p.2.2) x.1, x.2 || (row.scaled && sc.bad))
          else none))))) ∧
  (∀ (o : VscalA) (s : State) (cu : Cursor) (g : Region) (mask : BitVec 32), Issuing s cu g → Lanes g cu o.m.gd mask →
    let fs := sourceFmt o.m
    let r := (g.cur cu).bank.v[o.a.toNat]'o.a.isLt
    let word (j : Nat) : Nat := qscale o.m.fmt o.m.v4
      (((admittedElements mask fs).filter fun e => e / 32 == j).map fun e => fmtValue fs (elementOf fs.width r e).1)
    exec (.vqscale o) s = .next (left s (sending (vectorActive g cu (.vqscale o)) cu (g.now + 8)
      (.scalar (some o.d) (some .lv) ⟨BitVec.ofNat 64 (word 0 + 2 ^ 32 * if fs.count = 64 then word 1 else 0),
        admittedPoison mask fs r⟩)))) ∧
  (∀ (o : VopA) (s : State) (cu : Cursor) (g : Region) (mask : BitVec 32),
    Issuing s cu g → NoneMissing g cu → Lanes g cu o.m.gd mask →
    ((g.tile cu.t).tabs[o.m.tab.toNat]'o.m.tab.isLt = none → exec (.vtbl o) s = .next (left s (raising g cu 0x0C3))) ∧
    (∀ k t, (g.tile cu.t).tabs[o.m.tab.toNat]'o.m.tab.isLt = some k → k.table = some t → g.tabPending cu.t o.m.tab = false →
      exec (.vtbl o) s = .next (left s (sending (positioned (vectorActive g cu (.vtbl o)) cu o.m.rnd) cu (g.now + 10)
        (elemWrite o.d o.m.fmt.width ((converted o.m.fmt (sourceFmt o.m) (o.m.x.extractLsb' 4 2).toNat).filterMap fun p =>
          if mask.getLsbD (o.m.fmt.width * p.2.2 / 32) then
            let x := sourceElement s g cu (sourceFmt o.m) o.a p.2.1
            let y := t.eval (convert .f32 .rne false 0 (fmtValue (sourceFmt o.m) x.1))
            some (p.2.2, rounded o.m (randomWord g cu p.2.2) (f32Val (rn32 y.1)), x.2 || y.2.any fun w => t.bad.contains w)
          else none))))))

/-- 10 R276: the lane-mask families write the bits their guard mask names; LMPOPC counts into a scalar and lv. -/
def Obligations.LaneMaskResult : Prop :=
  ∀ (s : State) (cu : Cursor) (g : Region) (mask : BitVec 32), Issuing s cu g →
    (∀ row ∈ maskRows, ∀ o : Lm2A, Lanes g cu o.gd mask →
      exec (row.op o) s = .next (left s (sending (vectorActive g cu (row.op o)) cu (g.now + 2)
        (.mask o.d (row.fn ((g.cur cu).bank.getM o.a).bits ((g.cur cu).bank.getM o.b).bits) mask
          (((g.cur cu).bank.getM o.a).bad || ((g.cur cu).bank.getM o.b).bad))))) ∧
    (∀ o : LmsetA, Lanes g cu o.gd mask → NoneMissing g cu →
      let v := sourceScalar s g cu o.a
      let c := (max 0 (min 32 v.bits.toInt)).toNat
      exec (.lmset o) s = .next (left s (sending (vectorActive g cu (.lmset o)) cu (g.now + 2)
        (.mask o.d (if o.first then BitVec.ofNat 32 (2 ^ c - 1) else v.bits.setWidth 32) mask v.bad)))) ∧
    (∀ o : LmpopcA, Lanes g cu o.gd mask →
      exec (.lmpopc o) s = .next (left s (sending (vectorActive g cu (.lmpopc o)) cu (g.now + 2)
        (.scalar (some o.d) (some .lv)
          ⟨BitVec.ofNat 64 ((List.range 32).filter fun l => ((g.cur cu).bank.getM o.a).bits.getLsbD l && mask.getLsbD l).length,
            ((g.cur cu).bank.getM o.a).bad⟩))))

namespace Sys2Proof.Claims

open Sys2Proof.Machine

/-! ### Checks made in order -/

/-- Checks in the order they are made, each with the cause it raises and the virtual address that cause names. -/
abbrev CheckList := List (Prop × Cause × Nat)

def AllPass (l : CheckList) : Prop := ∀ p ∈ l, p.1

/-- The first check that fails raises this. -/
def FirstFails : CheckList → Cause → Nat → Prop
  | [], _, _ => False
  | p :: r, c, va => (¬p.1 ∧ c = p.2.1 ∧ va = p.2.2) ∨ (p.1 ∧ FirstFails r c va)

/-! ### Matrix commands: when they start (11 R286, R295) -/

/-- A row of the pairing table of 11 R295: the formats of A and B, the slot kind, whether scale words are read, T. -/
structure PairingRow where
  formats : List Fmt
  int : Bool
  scales : Bool
  time : Fmt → Fmt → Nat → Nat

def pairingRows : List PairingRow :=
  [ ⟨[.e4m3, .e5m2, .e2m3, .e3m2, .e2m1], false, true, fun a b k => if a = .e2m1 ∧ b = .e2m1 then k / 2 else k⟩,
    ⟨[.bf16, .f16], false, false, fun _ _ k => 2 * k⟩,
    ⟨[.i8, .i4], false, true, fun a b k => if a = .i4 ∧ b = .i4 then k / 2 else k⟩,
    ⟨[.i8, .i4], true, false, fun a b k => if a = .i4 ∧ b = .i4 then k / 2 else k⟩ ]

/-- The row the captured mp.type names, if it names one. -/
def pairingOf (m : MxPar) : Option PairingRow :=
  pairingRows.find? fun r => r.formats.contains (MxPar.fmtA m) && r.formats.contains (MxPar.fmtB m) && r.int == MxPar.isInt m

/-- T. -/
def streamTime (m : MxPar) : Nat :=
  match pairingOf m with
  | some r => r.time (MxPar.fmtA m) (MxPar.fmtB m) (MxPar.k m)
  | none => 0

/-- A pairing that reads scale words. -/
def Scaled (m : MxPar) : Prop := ∃ r, pairingOf m = some r ∧ r.scales = true

/-- The interval O and the latency L of 11 R286. -/
def interval (m : MxPar) : MxOp → Nat
  | .mma .. => streamTime m
  | .mmas .. => max (streamTime m * MxPar.n m / 128) (streamTime m / 4)
  | .mzero _ => 1
  | .macc .. => 16
  | .tmmv .. => 16
  | .tmld _ => 32
  | .tmst _ => 32
  | .mdrain .. => 32

def latency (m : MxPar) : MxOp → Nat
  | .mma .. => streamTime m + 12
  | .mmas .. => max (streamTime m * MxPar.n m / 128) (streamTime m / 4) + 12
  | .mzero _ => 2
  | .macc .. => 20
  | .tmmv .. => 20
  | .tmld _ => 36
  | .tmst _ => 36
  | .mdrain .. => 64

/-- The resources of 11 R286 by number: slots 0 to 7, general blocks 8 to 23, the bypass 24, the scratchpad 25. -/
def tensorResource : TOp → Nat
  | .acc s => s.toNat
  | .blk n => 8 + n.toNat

/-- What a command uses, and whether it writes it. -/
def resources : MxOp → List (Nat × Bool)
  | .mma s _ byp => [(s.toNat, true), (if byp then 24 else 25, false)]
  | .mmas s _ => [(s.toNat, true), (25, false)]
  | .mzero s => [(s.toNat, true)]
  | .macc s x => [(s.toNat, true), (tensorResource x, false)]
  | .mdrain s byp => [(s.toNat, false), (if byp then 24 else 25, true)]
  | .tmld t => [(25, false), (tensorResource t, true)]
  | .tmst t => [(tensorResource t, false), (25, true)]
  | .tmmv t x => [(tensorResource t, true), (tensorResource x, false)]

/-- They share a resource that at least one of the two writes. -/
def Share (z y : MxOp) : Prop := ∃ p ∈ resources z, ∃ q ∈ resources y, p.1 = q.1 ∧ (p.2 = true ∨ q.2 = true)

/-- The slot an MMA or MMAS accumulates into. -/
def productSlot : MxOp → Option (BitVec 3)
  | .mma s _ _ => some s
  | .mmas s _ => some s
  | _ => none

/-- E(Z) for Y: the accumulation chain, where Z is the command before Y; the bypass; else Z's completion. -/
def earliest (z : MxCmd) (y : MxOp) (before : Bool) : Nat :=
  if before = true ∧ productSlot z.op ≠ none ∧ productSlot z.op = productSlot y then z.start + z.gap
  else match z.op, y with
    | .mdrain _ true, .mma _ _ true => z.start + z.gap
    | _, _ => z.fin

/-- Y, enqueued in sc q behind the commands `zs`, of which `last` is the key of the one before it, may start in sc s. A
command that has completed bounds nothing more: its completion is no later than q. -/
def MayStart (q : Nat) (last : Option Nat) (zs : List MxCmd) (y : MxOp) (s : Nat) : Prop :=
  q + 1 ≤ s ∧ ∀ z ∈ zs, (last = some z.key → z.start + z.gap ≤ s) ∧
    (Share z.op y → earliest z y (decide (last = some z.key)) ≤ s)

/-! ### Matrix commands: enqueueing (11 R282 to R303) -/

/-- What every matrix command needs at issue, whatever it computes: no rebuild stub, a free entry, captured parameters and
masks without poison, a wait that covers no gated command (11 R282, R283, R285, R289; 12 R311; 20 R443). -/
structure MatrixReady (g : Region) (cu : Cursor) (com : MxCom) : Prop where
  stub : g.stub = false
  tile : cu.t < g.tiles.length
  room : ((g.tile cu.t).mxq.filter fun c => !c.started || c.start == g.now).length < 16
  params : ∀ v ∈ (g.tile cu.t).mp.toList, v.bad = false
  rows : ((g.cur cu).bank.getMx false (MxPar.rowMask (g.tile cu.t).mp)).bad = false
  cols : ((g.cur cu).bank.getMx true (MxPar.colMask (g.tile cu.t).mp)).bad = false
  wait : com.wait ≠ 0 → ¬coversGated g cu (com.wait.toNat - 1) (waitTarget g cu (com.wait - 1) com.delta.toNat)
  code : com.wait.toNat ≤ 20

/-- The slot is one of the pattern's accumulators (11 R293). -/
def SlotDeclared (g : Region) (slot : BitVec 3) : Prop := g.pat.acc.getLsbD slot.toNat = true

/-- A slot must be declared; a general block must belong to no declared slot (11 R293). -/
def slotCheck (g : Region) (s : BitVec 3) : Prop × Cause × Nat := (SlotDeclared g s, 0x0D2, 0)

def operandCheck (g : Region) : TOp → Prop × Cause × Nat
  | .acc s => slotCheck g s
  | .blk n => (g.pat.acc.getLsbD (n.toNat / 2) = false, 0x0D3, 0)

/-- 64 rows of `len` bytes at pitch p from a on lie in the scratchpad (11 R301, R303). -/
def rowChecks (g : Region) (a : Word) (p len : Nat) : CheckList :=
  [ (a.toNat % 16 = 0, 0x091, 0), (p % 16 = 0 ∧ len ≤ p, 0x0D5, 0), (a.toNat + 63 * p + len ≤ 0x8000 * g.pat.nb, 0x090, 0) ]

/-- ⌈n·w/8⌉. -/
def bytesFor (n w : Nat) : Nat := (n * w + 7) / 8

/-- The length of a row of A: ⌈K·wa/8⌉, or ⌈(K/128)·N·wa/8⌉ for MMAS. -/
def lineLength (m : MxPar) (sparse : Bool) : Nat :=
  bytesFor (if sparse then MxPar.k m / 128 * MxPar.n m else MxPar.k m) (MxPar.fmtA m).width

/-- An address formed modulo 2^64. -/
def plus (a : Word) (d : Int) : Nat := (a + BitVec.ofInt 64 d).toNat

/-- The checks of a product in their order (11 R293, R295 to R297, R302): slot, pairing, depth, A and its scale and metadata
areas or the bypass, B and its scale words. -/
def productChecks (g : Region) (cu : Cursor) (m : MxPar) (slot : BitVec 3) (sparse byp : Bool) (a b : Word) : CheckList :=
  let top := 0x8000 * g.pat.nb
  let blocks := MxPar.k m / 32
  [ slotCheck g slot,
    (pairingOf m ≠ none, 0x0D5, 0),
    (32 ≤ MxPar.k m ∧ MxPar.k m ≤ 32768, 0x0D5, 0),
    (sparse = true → MxPar.k m % 128 = 0, 0x0D5, 0),
    (byp = false → a.toNat % 16 = 0, 0x091, 0),
    (byp = false → MxPar.pitchA m % 16 = 0 ∧ lineLength m sparse ≤ MxPar.pitchA m, 0x0D5, 0),
    (byp = false → a.toNat + 63 * MxPar.pitchA m + lineLength m sparse ≤ top, 0x090, 0),
    (byp = false → Scaled m → plus a (MxPar.soA m) % 4 = 0, 0x091, 0),
    (byp = false → Scaled m → plus a (MxPar.soA m) + 256 * blocks ≤ top, 0x090, 0),
    (sparse = true → plus a (MxPar.mo m) % 4 = 0, 0x091, 0),
    (sparse = true → plus a (MxPar.mo m) + 64 * (MxPar.k m / 128 * MxPar.n m) ≤ top, 0x090, 0),
    (b.toNat % 16 = 0 ∧ b.toNat + bytesFor (MxPar.k m) (MxPar.fmtB m).width ≤ 32768, 0x0D4, 0),
    (Scaled m → 0 ≤ (b.toNat : Int) + MxPar.soB m ∧ ((b.toNat : Int) + MxPar.soB m) % 4 = 0 ∧
      (b.toNat : Int) + MxPar.soB m + 4 * blocks ≤ 32768, 0x0D4, 0),
    (byp = true → (g.tile cu.t).bypFmt = some (MxPar.fmtA m) ∧ MxPar.k m = 64 ∧
      ¬(MxPar.fmtA m = .i8 ∧ MxPar.isInt m = false), 0x0D6, 0) ]

/-- The combinations mp.drain may give (11 R301). -/
def DrainLegal (byp : Bool) (m : MxPar) : Prop :=
  (if MxPar.isInt m then MxPar.fd m ∈ [Fmt.i32, .i16, .i8] ∧ MxPar.rnd m = .rne ∧ MxPar.sat m = false
   else MxPar.fd m ∈ [Fmt.f32, .bf16, .f16]) ∧
  (byp = true → MxPar.fd m ∈ [Fmt.bf16, .f16, .i8])

/-- The slot a command writes. -/
def writtenSlot : MxOp → Option (BitVec 3)
  | .mma s _ _ => some s
  | .mmas s _ => some s
  | .mzero s => some s
  | .macc s _ => some s
  | .tmld (.acc s) => some s
  | .tmmv (.acc s) _ => some s
  | _ => none

/-- The slot a command reads beside the one it writes. -/
def readSlot : MxOp → Option (BitVec 3)
  | .macc _ (.acc s) => some s
  | .mdrain s _ => some s
  | .tmst (.acc s) => some s
  | .tmmv _ (.acc s) => some s
  | _ => none

/-- The copy a slot is read in and the copy it is written in (03 R82). -/
def readCopy (x : Tile) (s : BitVec 3) : Bool :=
  if x.accWr.getLsbD s.toNat then !x.accCom.getLsbD s.toNat else x.accCom.getLsbD s.toNat

def writtenCopy (x : Tile) (s : BitVec 3) : Bool := !x.accCom.getLsbD s.toNat

/-- The command stands last in the tile's queue with all it captured, its start and completion sc are those of 11 R286, its
copies those of R292, its target's slot is marked written in the stitch, and nothing else of the tile's storage has changed. -/
structure Enqueued (g g' : Region) (cu : Cursor) (op : MxOp) (com : MxCom) (a b : Word) : Prop where
  queue : ∃ c : MxCmd, (g'.tile cu.t).mxq = (g.tile cu.t).mxq ++ [c] ∧ (g'.tile cu.t).mxLast = some c.key ∧
    c.op = op ∧ c.enq = g.now ∧ c.started = false ∧ c.sig = com.sig ∧ c.strB = cu.b ∧
    c.mp = (g.tile cu.t).mp ∧ c.addrA = a ∧ c.addrB = b ∧ c.srpos = (g.cur cu).srpos ∧
    c.rows = ((g.cur cu).bank.getMx false (MxPar.rowMask (g.tile cu.t).mp)).bits ∧
    c.cols = ((g.cur cu).bank.getMx true (MxPar.colMask (g.tile cu.t).mp)).bits ∧
    c.wait = (if com.wait = 0 then none
      else some (com.wait.toNat - 1, waitTarget g cu (com.wait - 1) com.delta.toNat)) ∧
    MayStart g.now (g.tile cu.t).mxLast (g.tile cu.t).mxq op c.start ∧
    (∀ s, MayStart g.now (g.tile cu.t).mxLast (g.tile cu.t).mxq op s → c.start ≤ s) ∧
    c.gap = interval (g.tile cu.t).mp op ∧ c.fin = c.start + latency (g.tile cu.t).mp op ∧
    (∀ k, writtenSlot op = some k → c.rdCopy = readCopy (g.tile cu.t) k ∧ c.wrCopy = writtenCopy (g.tile cu.t) k ∧
      c.fresh = !(g.tile cu.t).accWr.getLsbD k.toNat) ∧
    (∀ k, readSlot op = some k → c.srcCopy = readCopy (g.tile cu.t) k)
  written : (g'.tile cu.t).accWr = match writtenSlot op with
    | some k => (g.tile cu.t).accWr ||| (1#8 <<< k.toNat)
    | none => (g.tile cu.t).accWr
  bypass : (g'.tile cu.t).bypFmt = match op with
    | .mdrain _ true => some (MxPar.fd (g.tile cu.t).mp)
    | _ => (g.tile cu.t).bypFmt
  storage : (g'.tile cu.t).sp = (g.tile cu.t).sp ∧ (g'.tile cu.t).tm = (g.tile cu.t).tm ∧ (g'.tile cu.t).bs = (g.tile cu.t).bs
  flights : g'.flights = g.flights

/-- The command enqueues where every check passes, and raises the cause of the first that fails. -/
def Checked (s : State) (g : Region) (cu : Cursor) (i : Instr) (op : MxOp) (com : MxCom) (a b : Word) (l : CheckList) : Prop :=
  (AllPass l → ∃ g', exec i s = .next (left s g') ∧ Enqueued g g' cu op com a b) ∧
  (∀ c va, FirstFails l c va → exec i s = .next (left s (raisingAt g cu c va)))

/-- An address operand of a matrix command: a_0 + n·16·S, sound, the k-th of the slot's operands (11 R284). -/
structure TensorAddress (cu : Cursor) (op : Instr) (now : List Val) (k : Nat) (step : BitVec 14) (addr : Word) : Prop where
  two : ∀ q, cu.again = some q → q.addrs.length = 2
  sound : ((slotState cu op now).addrs.getD k ⟨0, false⟩).bad = false
  eq : addr = ((slotState cu op now).addrs.getD k ⟨0, false⟩).bits +
    BitVec.ofInt 64 ((slotState cu op now).n * (16 * step.toInt))

/-- The two address operands: src(A) + src(C), and src(B) (11 R284). -/
def tensorOperands (s : State) (g : Region) (cu : Cursor) (a b c : SSrc) : List Val :=
  [sumOf [operandValue s g cu a, operandValue s g cu c], operandValue s g cu b]

/-- A word lies within the bits its parameter defines, with legal format, N and rounding codes (11 R289). -/
def ParameterLegal (n : Nat) (v : Word) : Prop :=
  match n with
  | 0 => v.toNat < 2 ^ 9 ∧ v.toNat % 16 ≤ 12 ∧ v.toNat / 16 % 16 ≤ 12
  | 1 => v.toNat < 2 ^ 13 ∧ v.toNat / 2 ^ 11 ≠ 3
  | 2 => v.toNat < 2 ^ 20
  | 3 => v.toNat < 2 ^ 40
  | 4 => v.toNat < 2 ^ 16
  | 5 => v.toNat < 2 ^ 32 ∧ v.toNat / 2 ^ 8 % 16 = 0 ∧ v.toNat % 16 ≤ 12 ∧ v.toNat / 16 % 8 ≤ 4
  | 6 => v.toNat < 2 ^ 4
  | _ => v.toNat < 2 ^ 20

/-- The mask of .RANGE: bits lo to lo + c − 1, the bounds clamped (11 R291). -/
def rangeMask (f n : Word) : Word :=
  let lo := (max 0 (min 64 f.toInt)).toNat
  let c := (max 0 (min ((64 - lo : Nat) : Int) n.toInt)).toNat
  BitVec.ofNat 64 ((2 ^ c - 1) * 2 ^ lo)

end Sys2Proof.Claims

open Sys2Proof Sys2Proof.Machine Sys2Proof.Claims

/-- 03 R82; 11 R282 to R286, R292, R293, R299, R300, R303: MZERO, MACC, TMMV, TMLD and TMST enqueue with everything captured,
to start in the least sc R286 allows; an undeclared slot raises 0x0D2, a block of a declared slot 0x0D3; TMLD and TMST name 64
rows of 256 bytes, or raise 0x091, 0x0D5 or 0x090. -/
def Obligations.MatrixMoveCommandsEnqueue : Prop :=
  ∀ (s : State) (cu : Cursor) (g : Region) (com : MxCom), Issuing s cu g → On g cu com.gd → MatrixReady g cu com →
    (∀ slot, (∀ k, cu.again = some k → k.addrs = []) →
      Checked s g cu (.mzero com slot) (.mzero slot) com 0 0 [slotCheck g slot] ∧
      (∀ x, Checked s g cu (.macc com slot x) (.macc slot x) com 0 0 [slotCheck g slot, operandCheck g x])) ∧
    (∀ t x, (∀ k, cu.again = some k → k.addrs = []) →
      Checked s g cu (.tmmv com t x) (.tmmv t x) com 0 0 [operandCheck g t, operandCheck g x]) ∧
    (∀ (o : TmA) (a : Word), o.com = com → com.sb = 0 → NoneMissing g cu →
      (∀ k, cu.again = some k → (k.addrs.getD 1 ⟨0, false⟩) = ⟨0, false⟩) →
      (TensorAddress cu (.tmld o) (tensorOperands s g cu o.a (.g 0) o.c) 0 com.sa a →
        Checked s g cu (.tmld o) (.tmld o.t) com a 0
          (operandCheck g o.t :: rowChecks g a (MxPar.pitchT (g.tile cu.t).mp) 256)) ∧
      (TensorAddress cu (.tmst o) (tensorOperands s g cu o.a (.g 0) o.c) 0 com.sa a →
        Checked s g cu (.tmst o) (.tmst o.t) com a 0
          (operandCheck g o.t :: rowChecks g a (MxPar.pitchT (g.tile cu.t).mp) 256)))

/-- 11 R293 to R297, R301, R302: MMA, MMAS and MDRAIN enqueue where every check of their tables passes, and raise the cause of
the first that fails: an undeclared slot 0x0D2; an illegal pairing, depth, pitch or drain combination 0x0D5; a misaligned
scratchpad address 0x091, one past the limit 0x090; a B-stack place 0x0D4; an unfit bypass 0x0D6. The order of the checks
that stand in no common table is the model's reading (Assumption 22). -/
def Obligations.MatrixProductAndDrainEnqueue : Prop :=
  ∀ (s : State) (cu : Cursor) (g : Region), Issuing s cu g → NoneMissing g cu →
    (∀ (o : MmaA) (a b : Word), On g cu o.com.gd → MatrixReady g cu o.com →
      (TensorAddress cu (.mma o) (tensorOperands s g cu o.a o.b o.c) 0 o.com.sa a →
        TensorAddress cu (.mma o) (tensorOperands s g cu o.a o.b o.c) 1 o.com.sb b →
        Checked s g cu (.mma o) (.mma o.slot o.set o.byp) o.com a b
          (productChecks g cu (g.tile cu.t).mp o.slot false o.byp a b)) ∧
      (TensorAddress cu (.mmas o) (tensorOperands s g cu o.a o.b o.c) 0 o.com.sa a →
        TensorAddress cu (.mmas o) (tensorOperands s g cu o.a o.b o.c) 1 o.com.sb b →
        Checked s g cu (.mmas o) (.mmas o.slot o.set) o.com a b
          (productChecks g cu (g.tile cu.t).mp o.slot true false a b))) ∧
    (∀ (o : MdrainA) (a : Word), On g cu o.com.gd → MatrixReady g cu o.com →
      TensorAddress cu (.mdrain o) (tensorOperands s g cu o.a (.g 0) o.c) 0 o.com.sa a →
      Checked s g cu (.mdrain o) (.mdrain o.slot o.byp) o.com a 0
        ([slotCheck g o.slot, (DrainLegal o.byp (g.tile cu.t).mp, 0x0D5, 0)] ++
          if o.byp then [] else rowChecks g a (MxPar.pitchD (g.tile cu.t).mp) (8 * (MxPar.fd (g.tile cu.t).mp).width)))

/-- 11 R289 to R291: MSET writes a legal parameter value at the end of the sc and raises 0x0D1 for any other; MRSET and MCSET
write a mask register at issue + 1, from a source or from a range. -/
def Obligations.ShadowParametersAndMasks : Prop :=
  ∀ (s : State) (cu : Cursor) (g : Region), Issuing s cu g → NoneMissing g cu →
    (∀ (gd : Guard) (n : BitVec 3) (a : SSrc) (imm : BitVec 16), On g cu gd → (operandValue s g cu a).bad = false →
      let v := (operandValue s g cu a).bits + BitVec.ofNat 64 imm.toNat
      (ParameterLegal n.toNat v → exec (.mset gd n a imm) s =
        .next (left s (later (active g cu (slotState cu (.mset gd n a imm) [])) cu (.mset n ⟨v, false⟩)))) ∧
      (¬ParameterLegal n.toNat v → exec (.mset gd n a imm) s = .next (left s (raising g cu 0x0D1)))) ∧
    (∀ row ∈ ([(Instr.mrset, false), (Instr.mcset, true)] : List ((MaskA → Instr) × Bool)), ∀ o : MaskA, On g cu o.gd →
      (o.range = none → exec (row.1 o) s = .next (left s (sending (active g cu (slotState cu (row.1 o) [])) cu (g.now + 1)
        (.mxmask row.2 o.n (operandValue s g cu o.a))))) ∧
      (∀ b, o.range = some b → (operandValue s g cu o.a).bad = false → (operandValue s g cu b).bad = false →
        exec (row.1 o) s = .next (left s (sending (active g cu (slotState cu (row.1 o) [])) cu (g.now + 1)
          (.mxmask row.2 o.n ⟨rangeMask (operandValue s g cu o.a).bits (operandValue s g cu b).bits, false⟩)))))

namespace Sys2Proof.Claims

open Sys2Proof.Machine

/-! ### Matrix commands: what they compute (04 R106 to R109; 11 R292, R297 to R303) -/

/-- Element (i, j) of a block in tensor memory (03 R80). -/
def blockPlace (blk i j : Nat) : Nat := 4 * (256 * (64 * (blk / 4) + i) + 64 * (blk % 4) + j)

/-- The block of a slot's copy (03 R81). -/
def copyBlock (s : BitVec 3) (copy : Bool) : Nat := 2 * s.toNat + if copy then 1 else 0

/-- The block a command reads of an operand, and the one it writes. -/
def blockRead (c : MxCmd) : TOp → Nat
  | .acc s => copyBlock s c.srcCopy
  | .blk n => n.toNat

def blockWritten (c : MxCmd) : TOp → Nat
  | .acc s => copyBlock s c.wrCopy
  | .blk n => n.toNat

/-- The command admits element (i, j) (11 R291). -/
def Admits (c : MxCmd) (i j : Nat) : Prop := c.rows.getLsbD i = true ∧ c.cols.getLsbD j = true

/-- What a started command is going to write at a place of tensor memory or of scratchpad. -/
def willWrite (c : MxCmd) (tm : Bool) (a : Nat) : Option (List PByte) :=
  (c.out.find? fun w => w.tm == tm && w.addr == a).map (·.data)

/-- Four bytes of a word and its poison. -/
def wordBytesOf (w : Nat × Bool) : List PByte := storedBytes 4 ⟨BitVec.ofNat 64 w.1, w.2⟩

/-- A word of bytes. -/
def wordOf (bs : List PByte) : Nat × Bool := (numberOf bs, bs.any (·.2))

/-- Element k of densely packed bytes (04 R95). -/
def packedElement (w : Nat) (bs : List PByte) (k : Nat) : Nat := numberOf bs / 2 ^ (w * k) % 2 ^ w

/-- A row of A or a column of B as the products take it: elements by k, scale words by block, poison of any of it. -/
structure Side where
  elem : Nat → Nat
  scale : Nat → Nat
  bad : Bool

/-- The scale words of one row or column, at the places given, where the pairing reads any. -/
def scaleBytes (m : MxPar) (at_ : Nat → List PByte) : Nat → List PByte :=
  fun n => if (pairingOf m).any (·.scales) then at_ n else []

def anyBad (n : Nat) (f : Nat → List PByte) : Bool := (List.range n).any fun i => (f i).any (·.2)

/-- Row i of a dense A (11 R296). -/
def denseRow (g : Region) (fresh t : Nat) (m : MxPar) (a : Word) (i : Nat) : Side :=
  let bs := g.spRead fresh t (a.toNat + i * MxPar.pitchA m) (lineLength m false)
  let sc := scaleBytes m fun n => g.spRead fresh t (plus a (MxPar.soA m) + 256 * n + 4 * i) 4
  ⟨packedElement (MxPar.fmtA m).width bs, fun n => numberOf (sc n), bs.any (·.2) || anyBad (MxPar.k m / 32) sc⟩

/-- Row i of a sparse A made dense: where two stored elements of a group name one index, the higher-numbered one stands;
every other index holds zero (04 R109; 11 R297). -/
def sparseRow (g : Region) (fresh t : Nat) (m : MxPar) (a : Word) (i : Nat) : Side :=
  let n := MxPar.n m
  let groups := MxPar.k m / 128
  let bs := g.spRead fresh t (a.toNat + i * MxPar.pitchA m) (lineLength m true)
  let md := g.spRead fresh t (plus a (MxPar.mo m) + i * (groups * n)) (groups * n)
  let sc := scaleBytes m fun q => g.spRead fresh t (plus a (MxPar.soA m) + 256 * q + 4 * i) 4
  let index (e : Nat) : Nat := (md.getD e (0, false)).1.toNat % 128
  ⟨fun k => match (List.range n).reverse.find? fun e => index (k / 128 * n + e) == k % 128 with
    | some e => packedElement (MxPar.fmtA m).width bs (k / 128 * n + e)
    | none => 0,
    fun q => numberOf (sc q), bs.any (·.2) || md.any (·.2) || anyBad (MxPar.k m / 32) sc⟩

/-- Column j of B, in slice j (11 R296). -/
def columnOfB (g : Region) (fresh t : Nat) (m : MxPar) (b : Word) (j : Nat) : Side :=
  let bs := g.bsRead fresh t j b.toNat (bytesFor (MxPar.k m) (MxPar.fmtB m).width)
  let sc := scaleBytes m fun n => g.bsRead fresh t j (((b.toNat : Int) + MxPar.soB m).toNat + 4 * n) 4
  ⟨packedElement (MxPar.fmtB m).width bs, fun n => numberOf (sc n), bs.any (·.2) || anyBad (MxPar.k m / 32) sc⟩

/-- What a reader of the bypass finds: what the drain under way will write, else what the bypass holds (11 R287, R302). -/
def bypassNow (x : Tile) : Option Bypass :=
  match ((x.mxq.filter (·.started)).filterMap (·.byp)).getLast? with
  | some b => some b
  | none => x.byp

/-- Row i of the bypass. -/
def bypassRow (x : Tile) (i : Nat) : Side :=
  let es := match bypassNow x with
    | some b => (b.elems.drop (64 * i)).take 64
    | none => []
  ⟨fun k => (es.getD k (0, false)).1.toNat, fun _ => 0, es.any (·.2)⟩

/-- The exact sum of one run of 16 products. -/
def runOf (m : MxPar) (a b : Side) (run : Nat) : Exact :=
  Exact.sum false ((List.range 16).map fun i =>
    Exact.mul (fmtValue (MxPar.fmtA m) (a.elem (16 * run + i))) (fmtValue (MxPar.fmtB m) (b.elem (16 * run + i))))

/-- The scale of a block: the product of its two scale words, or exactly 1 (04 R106). -/
def blockScale (m : MxPar) (a b : Side) (n : Nat) : Exact :=
  if (pairingOf m).any (·.scales) then Exact.mul (f32Val (a.scale n)) (f32Val (b.scale n)) else .ofInt 1

/-- 04 R107: the runs in ascending K, each scaled, each added with one rounding. -/
def floatElement (m : MxPar) (a b : Side) (start : Nat) : Nat :=
  (List.range (MxPar.k m / 16)).foldl (fun acc run =>
    rn32 (Exact.sum false [f32Val acc, Exact.mul (runOf m a b run) (blockScale m a b (run / 2))])) start

/-- 04 R108: the same over integers, with the overflow of any addition. -/
def intElement (m : MxPar) (a b : Side) (start : Nat) : Int × Bool :=
  (List.range (MxPar.k m / 16)).foldl (fun acc run =>
    let t := acc.1 + ((List.range 16).map fun i =>
      signedOf (MxPar.fmtA m).width (a.elem (16 * run + i)) * signedOf (MxPar.fmtB m).width (b.elem (16 * run + i))).sum
    (signedOf 32 (lowBits 32 t), acc.2 || decide (t < -2 ^ 31 ∨ 2 ^ 31 - 1 < t))) (signedOf 32 start, false)

/-- The element of a product, and whether it overflowed. -/
def productElement (m : MxPar) (a b : Side) (start : Nat) : Nat × Bool :=
  if MxPar.isInt m then (lowBits 32 (intElement m a b start).1, (intElement m a b start).2)
  else (floatElement m a b start, false)

/-- A MACC element and whether it overflowed (11 R300). -/
def sumElement (m : MxPar) (y x : Nat) : Nat × Bool :=
  if MxPar.isInt m then
    let t := signedOf 32 y + signedOf 32 x
    (lowBits 32 t, decide (t < -2 ^ 31 ∨ 2 ^ 31 - 1 < t))
  else (rn32 (Exact.sum false [f32Val y, f32Val x]), false)

/-- A drained element (11 R301). -/
def drainElement (m : MxPar) (rand : BitVec 32) (x : Nat) : Nat :=
  if MxPar.isInt m then saturated false (MxPar.fd m).width (signedOf 32 x)
  else convert (MxPar.fd m) (MxPar.rnd m) (MxPar.sat m && MxPar.fd m != .f32) rand (f32Val x)

/-- A slot's written copy takes the values given where the command admits the element; on the first write of the stitch
every other element takes the committed copy's value, and on a later one keeps its own (11 R292). -/
def SlotTakes (x : Tile) (c c' : MxCmd) (s : BitVec 3) (val : Nat → Nat → Nat × Bool) : Prop :=
  ∀ i j, i < 64 → j < 64 →
    (Admits c i j → willWrite c' true (blockPlace (copyBlock s c.wrCopy) i j) = some (wordBytesOf (val i j))) ∧
    (¬Admits c i j → c.fresh = true → willWrite c' true (blockPlace (copyBlock s c.wrCopy) i j) =
      some (wordBytesOf (x.tmWord (blockPlace (copyBlock s c.rdCopy) i j)))) ∧
    (¬Admits c i j → c.fresh = false → willWrite c' true (blockPlace (copyBlock s c.wrCopy) i j) = none)

/-- The same for a tensor operand; of a general block only the admitted words are written (11 R303). -/
def OperandTakes (x : Tile) (c c' : MxCmd) (val : Nat → Nat → Nat × Bool) : TOp → Prop
  | .acc s => SlotTakes x c c' s val
  | .blk n => ∀ i j, i < 64 → j < 64 →
      (Admits c i j → willWrite c' true (blockPlace n.toNat i j) = some (wordBytesOf (val i j))) ∧
      (¬Admits c i j → willWrite c' true (blockPlace n.toNat i j) = none)

/-- The overflow flag of the command: any admitted element overflowed. -/
def Overflows (c : MxCmd) (flag : Nat → Nat → Bool) : Prop := ∃ i j, i < 64 ∧ j < 64 ∧ Admits c i j ∧ flag i j = true

/-- The start value of an element: zero for .SET, else the read copy's word. -/
def startElement (x : Tile) (c : MxCmd) (s : BitVec 3) (set : Bool) (i j : Nat) : Nat × Bool :=
  if set then (0, false) else x.tmWord (blockPlace (copyBlock s c.rdCopy) i j)

/-- A product over the rows and columns given. -/
def Multiplies (x : Tile) (c c' : MxCmd) (s : BitVec 3) (set : Bool) (rows cols : Nat → Side) : Prop :=
  let st := startElement x c s set
  SlotTakes x c c' s (fun i j => ((productElement c.mp (rows i) (cols j) (st i j).1).1,
    (st i j).2 || (rows i).bad || (cols j).bad)) ∧
  (c'.ovf = true ↔ Overflows c fun i j => (productElement c.mp (rows i) (cols j) (st i j).1).2) ∧
  (∀ a, willWrite c' false a = none)

/-- The words of 64 rows at a pitch in scratchpad. -/
def scratchWord (g : Region) (fresh t : Nat) (base : Word) (p i j : Nat) : Nat × Bool :=
  wordOf (g.spRead fresh t (base.toNat + i * p + 4 * j) 4)

end Sys2Proof.Claims

open Sys2Proof Sys2Proof.Machine Sys2Proof.Claims

/-- 04 R106 to R109; 11 R287, R292, R296 to R298, R302: what an MMA or MMAS that starts is going to write is, for every
admitted element, the sum of R107 or R108 over the runs of its row of A (dense, sparse made dense, or the bypass) and its
column of B, from its start value; no other element changes, and the overflow flag is any admitted element's. A product takes
the poison of all of its row and column (Assumption 21). -/
def Obligations.MatrixProductsComputeTheirElements : Prop :=
  ∀ (g : Region) (fresh t : Nat) (c : MxCmd),
    (∀ s set byp, c.op = .mma s set byp → (byp = true → MxPar.k c.mp = 64 ∧ ∃ b, bypassNow (g.tile t) = some b ∧ b.elems.length = 4096) →
      Multiplies (g.tile t) c (g.mxRun fresh t c) s set
        (fun i => if byp then bypassRow (g.tile t) i else denseRow g fresh t c.mp c.addrA i)
        (columnOfB g fresh t c.mp c.addrB)) ∧
    (∀ s set, c.op = .mmas s set → MxPar.k c.mp % 128 = 0 →
      Multiplies (g.tile t) c (g.mxRun fresh t c) s set (sparseRow g fresh t c.mp c.addrA) (columnOfB g fresh t c.mp c.addrB))

/-- 11 R292, R299 to R303; 03 R81: what a MZERO, MACC, TMLD, TMST, TMMV or MDRAIN that starts is going to write: zeros, sums,
words moved as bits, drained elements to scratchpad rows or to the bypass, whose other elements become zero. -/
def Obligations.MatrixMovesComputeTheirElements : Prop :=
  ∀ (g : Region) (fresh t : Nat) (c : MxCmd),
    let x := g.tile t
    let c' := g.mxRun fresh t c
    (∀ s, c.op = .mzero s → SlotTakes x c c' s (fun _ _ => (0, false))) ∧
    (∀ s src, c.op = .macc s src →
      let y := startElement x c s false
      let z (i j : Nat) : Nat × Bool := x.tmWord (blockPlace (blockRead c src) i j)
      SlotTakes x c c' s (fun i j => ((sumElement c.mp (y i j).1 (z i j).1).1, (y i j).2 || (z i j).2)) ∧
      (c'.ovf = true ↔ Overflows c fun i j => (sumElement c.mp (y i j).1 (z i j).1).2)) ∧
    (∀ d, c.op = .tmld d → OperandTakes x c c' (scratchWord g fresh t c.addrA (MxPar.pitchT c.mp)) d) ∧
    (∀ d src, c.op = .tmmv d src → OperandTakes x c c' (fun i j => x.tmWord (blockPlace (blockRead c src) i j)) d) ∧
    (∀ src, c.op = .tmst src → 256 ≤ MxPar.pitchT c.mp → ∀ i j, i < 64 → j < 64 →
      let a := c.addrA.toNat + i * MxPar.pitchT c.mp + 4 * j
      (Admits c i j → willWrite c' false a = some (wordBytesOf (x.tmWord (blockPlace (blockRead c src) i j)))) ∧
      (¬Admits c i j → willWrite c' false a = none)) ∧
    (∀ s byp, c.op = .mdrain s byp →
      let z (i j : Nat) : Nat × Bool := x.tmWord (blockPlace (copyBlock s c.srcCopy) i j)
      let v (i j : Nat) : Nat := drainElement c.mp (srWord g.launch.seed c.srpos t c.strB (64 * i + j)) (z i j).1
      let w := (MxPar.fd c.mp).width / 8
      (byp = false → DrainLegal false c.mp → 64 * w ≤ MxPar.pitchD c.mp → ∀ i j, i < 64 → j < 64 →
        let a := c.addrA.toNat + i * MxPar.pitchD c.mp + w * j
        (Admits c i j → willWrite c' false a = some (storedBytes w ⟨BitVec.ofNat 64 (v i j), (z i j).2⟩)) ∧
        (¬Admits c i j → willWrite c' false a = none)) ∧
      (byp = true → ∃ b, c'.byp = some b ∧ b.fmt = MxPar.fd c.mp ∧ c'.out = c.out ∧ ∀ i j, i < 64 → j < 64 →
        (Admits c i j → b.elems[64 * i + j]? = some (BitVec.ofNat 32 (v i j), (z i j).2)) ∧
        (¬Admits c i j → b.elems[64 * i + j]? = some (0, false))))
namespace Sys2Proof.Claims

open Sys2Proof.Machine

/-! ### Engine commands: issue (12 R306 to R326) -/

/-- The command an ECMD issues: the next number of its counter, everything captured, gated or sent (12 R308 to R310). -/
def issuedCmd (s : State) (g : Region) (cu : Cursor) (fn : EngFn) (ctr : Nat) (d : Desc) (a b : Word) : Cmd where
  id := s.fresh
  fn := fn
  ctr := ctr
  num := (g.tile cu.t).issued[ctr]?.getD 0 + 1
  desc := d
  a := a
  b := b
  key := orderKey g.now cu.t cu.b cu.slot
  stitch := g.stitch
  st := if EngFn.gated fn then .gated else .sent
  tag := none
  gen := 0
  touched := []
  dead := false
  lost := false
  rank := (g.cmds.filter fun x => x.tile = cu.t && x.ctr = ctr && x.stitch = g.stitch && x.st == .gated).length
  wrote := []
  moved := []
  sends := 0

/-- The fields a kind of descriptor lists outside word 1: word, high bit, low bit (12 R314). -/
def listedFields : Kind → List (Nat × Nat × Nat)
  | .linear => [(0, 56, 0), (2, 63, 0)]
  | .bstack => [(0, 56, 0), (2, 63, 0), (3, 5, 0), (3, 30, 16)]
  | .indexed => [(0, 56, 0), (2, 63, 0), (3, 51, 0)]
  | .transfer => [(2, 31, 0), (3, 55, 0)]
  | .fill => [(0, 63, 0), (2, 31, 0)]
  | .window => [(0, 56, 0), (2, 63, 0), (3, 63, 0), (4, 63, 24), (4, 15, 0)]
  | .collective => [(0, 31, 0), (2, 31, 0), (3, 51, 0)]

/-- The fields of word 1. -/
def wordOneFields : List (Nat × Nat × Nat) := [(1, 63, 57), (1, 55, 52), (1, 43, 24), (1, 19, 0)]

/-- Word w of a descriptor, and its bits [hi:lo]. -/
def descWord (d : Desc) (w : Nat) : Word := (d[w]?.getD {}).bits

def descField (d : Desc) (w hi lo : Nat) : Nat := (descWord d w).toNat / 2 ^ lo % 2 ^ (hi + 1 - lo)

/-- Every bit set lies in a listed field. -/
def ReservedClear (k : Kind) (d : Desc) : Prop :=
  ∀ w, w < 8 → ∀ b, b < 64 → (descWord d w).getLsbD b = true →
    ∃ f ∈ listedFields k ++ wordOneFields, f.1 = w ∧ f.2.2 ≤ b ∧ b ≤ f.2.1

/-- The kind of a function's descriptor; the functions of contexts 22 and 23 have none. -/
def kindOf : EngFn → Option Kind
  | .ceIn => some .linear
  | .ceOut => some .linear
  | .ceOutr _ => some .linear
  | .ceB => some .bstack
  | .ceGath => some .indexed
  | .ceScat => some .indexed
  | .ceXfer => some .transfer
  | .ceFill => some .fill
  | .ceWin => some .window
  | .colRed _ => some .collective
  | .colAg => some .collective
  | .colBc => some .collective
  | .colQ => some .collective
  | .colQFree => some .collective
  | _ => none

/-- The formats each COL.RED operation takes (12 R320). -/
def CollectiveFormat (op : AOp) (f : Fmt) : Prop :=
  (op ∈ [AOp.add, .min, .max] ∧ f ∈ [Fmt.f32, .bf16, .f16, .i32]) ∨ (op ∈ [AOp.and, .or, .xor, .minu, .maxu] ∧ f = .i32)

/-- The window fields of 12 R314 and R317, with the one that a stored size is less. -/
structure Window where
  ih : Nat
  iw : Nat
  c : Nat
  kp : Nat
  oy0 : Nat
  ox0 : Nat
  kh : Nat
  kw : Nat
  sh : Nat
  sw : Nat
  dh : Nat
  dw : Nat
  pt : Nat
  pl : Nat
  pb : Nat
  pr : Nat
  np : Nat

def windowOf (d : Desc) : Window :=
  { ih := descField d 2 31 16, iw := descField d 2 15 0, c := descField d 3 63 48, kp := descField d 3 47 32,
    oy0 := descField d 3 31 16, ox0 := descField d 3 15 0, kh := descField d 4 63 60 + 1, kw := descField d 4 59 56 + 1,
    sh := descField d 4 55 52 + 1, sw := descField d 4 51 48 + 1, dh := descField d 4 47 44 + 1, dw := descField d 4 43 40 + 1,
    pt := descField d 4 39 36, pl := descField d 4 35 32, pb := descField d 4 31 28, pr := descField d 4 27 24,
    np := descField d 4 15 0 }

/-- OW and OH of 12 R317: the division rounds down. -/
def Window.ow (w : Window) : Int := ((w.iw : Int) + w.pl + w.pr - w.dw * (w.kw - 1 : Nat) - 1) / w.sw + 1

def Window.oh (w : Window) : Int := ((w.ih : Int) + w.pt + w.pb - w.dh * (w.kh - 1 : Nat) - 1) / w.sh + 1

/-- A command's own fields (12 R314): rows, bytes per row, the pitches and the addresses, A and B added. -/
def rowsOf (c : Cmd) : Nat := descField c.desc 2 31 16

def rowBytesOf (c : Cmd) : Nat := descField c.desc 2 15 0

def localPitch (c : Cmd) : Nat := descField c.desc 1 43 24

def globalPitch (c : Cmd) : Int := ((descWord c.desc 2).extractLsb' 32 32).toInt

def globalBase (c : Cmd) : Nat := (descWord c.desc 0 + c.a).toNat

def localBase (c : Cmd) : Nat := (BitVec.ofNat 64 (descField c.desc 1 19 0) + c.b).toNat

def targetBase (c : Cmd) : Nat := (BitVec.ofNat 64 (descField c.desc 3 19 0) + c.a).toNat

/-- The width in bits of the descriptor's format. -/
def formatWidth (c : Cmd) : Nat := ((Fmt.ofCode ((descWord c.desc 1).extractLsb' 52 4)).getD .i8).width

/-- The scope code and the format a function accepts, and the shape it asks for (12 R314 check 1, R315, R317, R319, R320). -/
def ShapeLegal (c : Cmd) : Prop :=
  descField c.desc 1 59 57 < 6 ∧ ∃ f, Fmt.ofCode ((descWord c.desc 1).extractLsb' 52 4) = some f ∧
    match c.fn with
    | .ceOutr op => f = (if op = .fadd then .f32 else .i32) ∧ rowBytesOf c % 4 = 0 ∧
        ∀ i, i < rowsOf c → ((globalBase c : Int) + i * globalPitch c) % 4 = 0
    | .ceWin =>
      let w := windowOf c.desc
      f ≠ .e8m0 ∧ w.c * f.width % 8 = 0 ∧ w.kp * f.width % 8 = 0 ∧ w.kh * w.kw * w.c ≤ w.kp ∧ 1 ≤ w.ow ∧ 1 ≤ w.oh ∧
        w.ih ≠ 0 ∧ w.iw ≠ 0 ∧ w.c ≠ 0
    | .colRed op => descField c.desc 1 59 57 = 5 ∧ CollectiveFormat op f ∧ 8 * rowBytesOf c % f.width = 0
    | .colAg => descField c.desc 1 59 57 = 5
    | .colBc => descField c.desc 1 59 57 = 5
    | .colQ => descField c.desc 1 59 57 = 5
    | .colQFree => descField c.desc 1 59 57 = 5
    | _ => True

/-- Every byte of the rows lies in [0, top), tested exactly, with no wrap. -/
def RowsBelow (top : Nat) (base pitch : Int) (n len : Nat) : Prop :=
  ∀ i, i < n → ∀ k, k < len → 0 ≤ base + i * pitch + k ∧ base + i * pitch + k < top

/-- Check 2: every global byte the command names keeps bits [63:57] zero. -/
def GlobalBelow (c : Cmd) : Prop :=
  match c.fn with
  | .ceIn => RowsBelow (2 ^ 57) (globalBase c) (globalPitch c) (rowsOf c) (rowBytesOf c)
  | .ceOut => RowsBelow (2 ^ 57) (globalBase c) (globalPitch c) (rowsOf c) (rowBytesOf c)
  | .ceOutr _ => RowsBelow (2 ^ 57) (globalBase c) (globalPitch c) (rowsOf c) (rowBytesOf c)
  | .ceB => RowsBelow (2 ^ 57) (globalBase c) (globalPitch c) (rowsOf c) (rowBytesOf c)
  | .ceGath => rowsOf c ≠ 0 → RowsBelow (2 ^ 57) (globalBase c) (globalPitch c) (descField c.desc 3 51 20) (rowBytesOf c)
  | .ceScat => rowsOf c ≠ 0 → RowsBelow (2 ^ 57) (globalBase c) (globalPitch c) (descField c.desc 3 51 20) (rowBytesOf c)
  | .ceWin =>
    let w := windowOf c.desc
    w.np ≠ 0 → RowsBelow (2 ^ 57) (globalBase c) (globalPitch c) w.ih (bytesFor (w.iw * w.c) (formatWidth c))
  | .teLoad _ => (c.a + c.b).toNat + 3104 ≤ 2 ^ 57
  | _ => True

/-- Check 3: every scratchpad range lies below the limit; the packet's length is its own header's. -/
def ScratchpadBelow (top header : Nat) (c : Cmd) : Prop :=
  let n := rowsOf c
  let lb := rowBytesOf c
  let rows := RowsBelow top (localBase c) (localPitch c) n lb
  let table := descField c.desc 3 39 20 + 4 * n ≤ top
  match c.fn with
  | .ceIn => rows
  | .ceOut => rows
  | .ceOutr _ => rows
  | .ceFill => rows
  | .ceGath => rows ∧ descField c.desc 3 19 0 + 4 * n ≤ top
  | .ceScat => rows ∧ descField c.desc 3 19 0 + 4 * n ≤ top
  | .ceXfer => rows ∧ RowsBelow top (targetBase c) (descField c.desc 3 39 20) n lb
  | .ceWin =>
    RowsBelow top (localBase c) (localPitch c) (windowOf c.desc).np ((windowOf c.desc).kp * formatWidth c / 8)
  | .colRed _ => localBase c + lb ≤ top ∧ targetBase c + lb ≤ top ∧ table
  | .colBc => localBase c + lb ≤ top ∧ targetBase c + lb ≤ top ∧ table
  | .colAg => localBase c + lb ≤ top ∧ targetBase c + n * lb ≤ top ∧ table
  | .colQ => table
  | .colQFree => table
  | .schEnq => c.a.toNat + max 8 (8 * (header / 2 ^ 16 % 2 ^ 16)) ≤ top
  | _ => True

/-- Check 4: an index list or a group table is 4-aligned, a packet 8-aligned. -/
def PlacesAligned (c : Cmd) : Prop :=
  match c.fn with
  | .ceGath => descField c.desc 3 19 0 % 4 = 0
  | .ceScat => descField c.desc 3 19 0 % 4 = 0
  | .colRed _ => descField c.desc 3 39 20 % 4 = 0
  | .colAg => descField c.desc 3 39 20 % 4 = 0
  | .colBc => descField c.desc 3 39 20 % 4 = 0
  | .colQ => descField c.desc 3 39 20 % 4 = 0
  | .colQFree => descField c.desc 3 39 20 % 4 = 0
  | .schEnq => c.a.toNat % 8 = 0
  | _ => True

/-- The address a cause of a command names: of a table load, a scheduler function or a collective its own, else G. -/
def namedAddress (c : Cmd) : Nat :=
  match c.fn with
  | .teLoad _ => (c.a + c.b).toNat
  | .schEnq => c.a.toNat
  | .schRaise => c.a.toNat
  | .schPost => c.a.toNat
  | .colRed _ => targetBase c
  | .colAg => targetBase c
  | .colBc => targetBase c
  | .colQ => targetBase c
  | .colQFree => targetBase c
  | _ => globalBase c

/-- The checks of 12 R314 and R326 in their order. -/
def engineChecks (s : State) (g : Region) (cu : Cursor) (c : Cmd) : CheckList :=
  [ (∀ k, kindOf c.fn = some k → ReservedClear k c.desc ∧ ShapeLegal c, 0x184, 0),
    (c.fn = .schEnq → c.b.toNat ≤ 255 ∧ ∃ p, s.part? g.launch.part = some p ∧ p.hasQueue c.b.toNat = true, 0x18C, 0),
    (GlobalBelow c, 0x100, namedAddress c),
    (ScratchpadBelow (0x8000 * g.pat.nb) (numberOf (g.spRead s.fresh cu.t c.a.toNat 8)) c, 0x090, 0),
    (PlacesAligned c, 0x091, 0),
    (c.fn = .ceB → descField c.desc 3 5 0 + rowsOf c ≤ 64 ∧ descField c.desc 3 30 16 + rowBytesOf c ≤ 32768, 0x186, 0),
    (c.fn = .ceXfer → g.remote cu.t ((descWord c.desc 3).extractLsb' 40 8) ((descWord c.desc 3).extractLsb' 48 8) ≠ none,
      0x092, 0) ]

/-- What an ECMD needs before its checks: no stub, sound operands and descriptor (02 R52; 12 R307; 20 R443). -/
structure EngineOperands (g : Region) (cu : Cursor) (gd : Guard) (ctr : Nat) (d : Desc) (a b : Val) : Prop where
  guard : On g cu gd
  missing : NoneMissing g cu
  stub : g.stub = false
  tile : cu.t < g.tiles.length
  counter : ctr < 32
  sources : a.bad = false ∧ b.bad = false
  words : ∀ v ∈ d.toList, v.bad = false

/-- When an ECMD issues: its operands, every check, room among the gated items, a free entry of its pool (12 R307, R309,
R311, R314). -/
structure EngineReady (s : State) (g : Region) (cu : Cursor) (gd : Guard) (fn : EngFn) (ctr : Nat) (d : Desc) (a b : Val) :
    Prop where
  operands : EngineOperands g cu gd ctr d a b
  checks : AllPass (engineChecks s g cu (issuedCmd s g cu fn ctr d a.bits b.bits))
  items : EngFn.gated fn = true → RoomForItem g
  pool : (g.cmds.filter fun c => c.tile == cu.t && c.ctr == ctr).length < poolSize ctr

/-- The first check that fails raises its cause, and no number is consumed. -/
def EngineRejects (s : State) (g : Region) (cu : Cursor) (i : Instr) (fn : EngFn) (ctr : Nat) (d : Desc) (a b : Val) : Prop :=
  ∀ c va, FirstFails (engineChecks s g cu (issuedCmd s g cu fn ctr d a.bits b.bits)) c va →
    exec i s = .next (left s (raisingAt g cu c va))

/-- The command is outstanding with its number, counted as issued; a gated one has an item; the reply, where one is asked for,
is number − tb, in its destination and lx at issue + 2; what it will write is not acquired (12 R308 to R310, R313). -/
structure EngineIssued (g g' : Region) (cu : Cursor) (c : Cmd) (rpl : Option SDst) : Prop where
  cmds : g'.cmds = g.cmds ++ [c]
  number : (g'.tile cu.t).issued[c.ctr]? = some c.num
  consumed : (g'.tile cu.t).used[c.ctr]? = some ((g.tile cu.t).used[c.ctr]?.getD 0 + 1)
  items : g'.items.map (·.id) = g.items.map (·.id) ++ if EngFn.gated c.fn then [c.id] else []
  unacquired : g'.unacq.length = g.unacq.length + (g.dest c).length
  reply : g'.flights = match rpl with
    | none => g.flights
    | some d => (sending g cu (g.now + 2) (.scalar (some d) (some .lx)
        ⟨BitVec.ofNat 64 c.num - ((g.cur cu).bank.tb[c.ctr]?.getD {}).bits, false⟩)).flights

/-- A family of copy commands: its instruction and its function. -/
structure EngineRow where
  op : EngA → Instr
  fn : EngFn

def copyRows : List EngineRow :=
  [⟨.ceIn, .ceIn⟩, ⟨.ceOut, .ceOut⟩, ⟨.ceB, .ceB⟩, ⟨.ceWin, .ceWin⟩, ⟨.ceGath, .ceGath⟩, ⟨.ceScat, .ceScat⟩,
   ⟨.ceXfer, .ceXfer⟩, ⟨.ceFill, .ceFill⟩]

def collectiveRows : List EngineRow := [⟨.colAg, .colAg⟩, ⟨.colBc, .colBc⟩]

/-- The descriptor register named. -/
def descriptor (g : Region) (cu : Cursor) (n : BitVec 4) : Desc := (g.tile cu.t).ds[n.toNat]'n.isLt

/-- An ECMD of a copy or collective family: its instruction, function, counter, descriptor and operands. -/
structure EngineForm (s : State) (g : Region) (cu : Cursor) where
  op : Instr
  gd : Guard
  fn : EngFn
  ctr : Nat
  desc : Desc
  a : Val
  b : Val
  rpl : Option SDst

/-- The copies and collectives (12 R306). -/
def copyForms (s : State) (g : Region) (cu : Cursor) (o : EngA) : List (EngineForm s g cu) :=
  let form (op : Instr) (fn : EngFn) (ctr : Nat) : EngineForm s g cu :=
    ⟨op, o.gd, fn, ctr, descriptor g cu o.ds, operandValue s g cu o.a, operandValue s g cu o.b, o.rpl⟩
  let ctr := 16 + o.cx.toNat % 4
  (copyRows.map fun row => form (row.op o) row.fn o.cx.toNat) ++ (collectiveRows.map fun row => form (row.op o) row.fn ctr)

def reductionForms (s : State) (g : Region) (cu : Cursor) (o : EngA) (op : AOp) : List (EngineForm s g cu) :=
  [ ⟨.ceOutr o op, o.gd, .ceOutr op, o.cx.toNat, descriptor g cu o.ds, operandValue s g cu o.a, operandValue s g cu o.b, o.rpl⟩,
    ⟨.colRed o op, o.gd, .colRed op, 16 + o.cx.toNat % 4, descriptor g cu o.ds, operandValue s g cu o.a, operandValue s g cu o.b,
      o.rpl⟩ ]

def reservationForms (s : State) (g : Region) (cu : Cursor) (o : ColqA) : List (EngineForm s g cu) :=
  [ ⟨.colQ o, o.gd, .colQ, 16 + o.cx.toNat, descriptor g cu o.ds, ⟨0, false⟩, ⟨0, false⟩, o.rpl⟩,
    ⟨.colQFree o, o.gd, .colQFree, 16 + o.cx.toNat, descriptor g cu o.ds, ⟨0, false⟩, ⟨0, false⟩, o.rpl⟩ ]

def schedulerForms (s : State) (g : Region) (cu : Cursor) (o : SchA) : List (EngineForm s g cu) :=
  ([(.schEnq o, .schEnq), (.schRaise o, .schRaise), (.schPost o, .schPost)] : List (Instr × EngFn)).map fun row =>
    ⟨row.1, o.gd, row.2, 23, Vector.replicate 8 {}, operandValue s g cu o.a, operandValue s g cu o.b, o.rpl⟩

def tableForm (s : State) (g : Region) (cu : Cursor) (gd : Guard) (rpl : Option SDst) (tab : BitVec 3) (a b : SSrc) :
    EngineForm s g cu :=
  ⟨.teLoad gd rpl tab a b, gd, .teLoad tab, 22, Vector.replicate 8 {}, operandValue s g cu a, operandValue s g cu b, rpl⟩

/-- Every ECMD that takes a number. -/
inductive EngineCommand (s : State) (g : Region) (cu : Cursor) : EngineForm s g cu → Prop
  | copy (o : EngA) (f) (h : f ∈ copyForms s g cu o) : EngineCommand s g cu f
  | reduction (o : EngA) (op : AOp) (f) (h : f ∈ reductionForms s g cu o op) : EngineCommand s g cu f
  | reservation (o : ColqA) (f) (h : f ∈ reservationForms s g cu o) : EngineCommand s g cu f
  | scheduler (o : SchA) (f) (h : f ∈ schedulerForms s g cu o) : EngineCommand s g cu f
  | table (gd rpl tab a b) : EngineCommand s g cu (tableForm s g cu gd rpl tab a b)

/-- The form issues: it is ready, and its command is outstanding with its number. -/
def FormIssues (s : State) (g : Region) (cu : Cursor) (f : EngineForm s g cu) : Prop :=
  EngineReady s g cu f.gd f.fn f.ctr f.desc f.a f.b →
    ∃ g', exec f.op s = .next (left s g') ∧
      EngineIssued g g' cu (issuedCmd s g cu f.fn f.ctr f.desc f.a.bits f.b.bits) f.rpl

end Sys2Proof.Claims

open Sys2Proof Sys2Proof.Machine Sys2Proof.Claims

/-- 12 R308, R312, R313, R325, R327: DESC.SET and TE.CFG act at the end of the sc; DESC.GET and ENG.STAT reply at issue + 2 in their
destination and lx; TE.CFG of an empty slot raises 0x18E. -/
def Obligations.DescriptorsStatusAndTableConfiguration : Prop :=
  ∀ (s : State) (cu : Cursor) (g : Region) (gd : Guard), Issuing s cu g → On g cu gd → g.stub = false →
    (∀ ds p a b, NoneMissing g cu → (operandValue s g cu a).bad = false → (operandValue s g cu b).bad = false →
      exec (.descSet gd ds p a b) s = .next (left s (later g cu (.descSet ds p ⟨(operandValue s g cu a).bits, false⟩
        ⟨(operandValue s g cu b).bits, false⟩)))) ∧
    (∀ (d : SDst) (ds : BitVec 4) (w : BitVec 3), exec (.descGet gd d ds w) s =
      .next (left s (sending g cu (g.now + 2) (.scalar (some d) (some .lx)
        (((g.tile cu.t).ds[ds.toNat]'ds.isLt)[w.toNat]'w.isLt))))) ∧
    (∀ (d : SDst) (n : BitVec 5), exec (.engStat gd d n) s =
      .next (left s (sending g cu (g.now + 2) (.scalar (some d) (some .lx)
        ⟨(timeline g cu n).setWidth 32 ++
          BitVec.ofNat 32 (g.cmds.filter fun c => c.tile == cu.t && c.ctr == n.toNat).length, false⟩)))) ∧
    (∀ (tab : BitVec 3) lo hi a, NoneMissing g cu → (operandValue s g cu a).bad = false →
      ((g.tile cu.t).tabs[tab.toNat]'tab.isLt ≠ none → exec (.teCfg gd tab lo hi a) s =
        .next (left s (later g cu (.tabCfg tab ⟨lo, hi, (operandValue s g cu a).bits⟩)))) ∧
      ((g.tile cu.t).tabs[tab.toNat]'tab.isLt = none → exec (.teCfg gd tab lo hi a) s = .next (left s (raising g cu 0x18E))))

/-- 12 R306 to R311, R313: every copy and collective command takes the next number of its context's counter and is
outstanding, gated or sent; its reply is the number less the base. -/
def Obligations.CopyAndCollectiveCommandsIssue : Prop :=
  ∀ (s : State) (cu : Cursor) (g : Region), Issuing s cu g →
    (∀ (o : EngA), ∀ f ∈ copyForms s g cu o, FormIssues s g cu f) ∧
    (∀ (o : EngA) (op : AOp), ∀ f ∈ reductionForms s g cu o op, FormIssues s g cu f) ∧
    (∀ (o : ColqA), ∀ f ∈ reservationForms s g cu o, FormIssues s g cu f)

/-- 12 R306, R308, R324, R326: TE.LOAD takes a number of tl22 and loads its slot from its issue on; the scheduler functions
take a number of tl23 and are gated. That a slot takes its new address at the end of the sc is the model's reading
(Assumption 23). -/
def Obligations.TableLoadAndSchedulerFunctionsIssue : Prop :=
  ∀ (s : State) (cu : Cursor) (g : Region), Issuing s cu g →
    (∀ (gd : Guard) (rpl : Option SDst) (tab : BitVec 3) (a b : SSrc),
      let f := tableForm s g cu gd rpl tab a b
      EngineReady s g cu gd f.fn f.ctr f.desc f.a f.b →
      ∃ g', exec f.op s = .next (left s g') ∧
        EngineIssued g g' cu (issuedCmd s g cu f.fn f.ctr f.desc f.a.bits f.b.bits) rpl ∧
        g'.endEffs = g.endEffs ++ [⟨cu.t, cu.b,
          .tabLoad tab ((operandValue s g cu a).bits + (operandValue s g cu b).bits).toNat⟩]) ∧
    (∀ (o : SchA), ∀ f ∈ schedulerForms s g cu o, FormIssues s g cu f)

/-- 12 R314, R315, R317, R319, R320, R324, R326: the checks of an ECMD, in their order: reserved bits, scope, format and shape
0x184; a queue that is not the partition's 0x18C; a global byte beyond 57 bits 0x100; a scratchpad range past the limit 0x090;
a misaligned index list, group table or packet 0x091; a B-stack range outside the slices 0x186; a remote target outside the
region 0x092. The first that fails raises its cause, and no command is issued. Where the queue check stands, and that a command
of no rows names no global byte, are the model's reading (Assumption 23). -/
def Obligations.EngineChecksRaiseTheirCauses : Prop :=
  ∀ (s : State) (cu : Cursor) (g : Region), Issuing s cu g → ∀ f, EngineCommand s g cu f →
    EngineOperands g cu f.gd f.ctr f.desc f.a f.b → EngineRejects s g cu f.op f.fn f.ctr f.desc f.a f.b
namespace Sys2Proof.Claims

open Sys2Proof.Machine

/-! ### What takes effect on the region clock (02 R37, R38; 05 R117, R118; 07 R178, R179) -/

/-- Region `g'` takes its place; nothing else changes. -/
def put (s : State) (g' : Region) : State :=
  { s with regions := s.regions.map fun x => if x.rid = g'.rid then g' else x }

/-- Its sc has come, on the count that it belongs to: a rebuild stub's own count lies from 2^40 on. -/
def Come (g : Region) (due : Nat) : Prop := due ≤ g.now ∧ (2 ^ 40 ≤ g.now ↔ 2 ^ 40 ≤ due)

/-- The due effect of its kind that comes first: by its sc, then by the order of the issues. -/
structure Due (g : Region) (kind : Flight → Bool) (f : Fly) : Prop where
  mem : f ∈ g.flights
  ofKind : kind f.what = true
  come : Come g f.due
  first : ∀ x ∈ g.flights, x ≠ f → kind x.what = true → Come g x.due → f.due < x.due ∨ (f.due = x.due ∧ f.key < x.key)

def ofRegister : Flight → Bool
  | .scalar .. | .pred .. | .mask .. | .vec .. | .mxmask .. | .tb .. | .handle .. => true
  | _ => false

def ofStore : Flight → Bool
  | .store .. => true
  | _ => false

def ofSample : Flight → Bool
  | .sample .. => true
  | _ => false

def ofArrival : Flight → Bool
  | .arrive .. => true
  | _ => false

def ofPhase : Flight → Bool
  | .phase _ => true
  | _ => false

def ofIncrement : Flight → Bool
  | .inc .. => true
  | _ => false

/-- A result from wall time that has arrived and is due. -/
def arrivedNow (g : Region) (a : Await) : Bool :=
  a.missing g.now && (match a.st with | .value _ | .handle _ => true | _ => false)

/-- A write of a scalar register; g0 discards it (03 R66). -/
def written (k : Bank) : SDst → Val → Bank
  | .g n, x => if n = 0 then k else { k with g := k.g.set n.toNat x n.isLt }
  | .k n, x => { k with k := k.k.set n.toNat x n.isLt }

/-- A write of a latch. -/
def latched (k : Bank) (l : Latch) (x : Val) : Bank :=
  match l with
  | .la0 => { k with la := { k.la with la0 := x } }
  | .la1 => { k with la := { k.la with la1 := x } }
  | .lm => { k with la := { k.la with lm := x } }
  | .lv => { k with la := { k.la with lv := x } }
  | .lx => { k with la := { k.la with lx := x } }

/-- Only the bits of `wr` are written. -/
def merged {n : Nat} (old new wr : BitVec n) : BitVec n := (old &&& ~~~wr) ||| (new &&& wr)

/-- Poison after a write of the bits `wr` of one item: set by poison, cleared by a whole clean write (20 R441). -/
def poisonAfter {n : Nat} (old new : Bool) (wr : BitVec n) : Bool :=
  if wr = 0 then old else if new then true else if wr = BitVec.allOnes n then false else old

/-- The bank after a result lands: register 0 of p, m, mr and mc discards writes; a vector register's poison is kept by
lane. -/
inductive Lands (k : Bank) : Flight → Bank → Prop
  | scalar (d : Option SDst) (l : Option Latch) (x : Val) :
      Lands k (.scalar d l x)
        (let k1 := match d with | some d => written k d x | none => k
         match l with | some l => latched k1 l x | none => k1)
  | pred (d : BitVec 4) (l : Latch) (x : PredV) :
      Lands k (.pred d l x)
        (latched (if d = 0 then k else { k with p := k.p.set d.toNat x d.isLt }) l ⟨if x.bit then 1 else 0, x.bad⟩)
  | mask (d : BitVec 3) (bits wr : BitVec 32) (bad : Bool) :
      Lands k (.mask d bits wr bad)
        (if d = 0 then k else
          let y : MaskV := ⟨merged (k.m[d.toNat]'d.isLt).bits bits wr, poisonAfter (k.m[d.toNat]'d.isLt).bad bad wr⟩
          { k with m := k.m.set d.toNat y d.isLt })
  | vec (d : BitVec 5) (bits wr : BitVec 1024) (bad badAfter : BitVec 32)
      (lanes : ∀ l < 32, badAfter.getLsbD l =
        poisonAfter ((k.v[d.toNat]'d.isLt).bad.getLsbD l) (bad.getLsbD l) (wr.extractLsb' (32 * l) 32)) :
      Lands k (.vec d bits wr bad)
        { k with v := k.v.set d.toNat ⟨merged (k.v[d.toNat]'d.isLt).bits bits wr, badAfter⟩ d.isLt }
  | mxmask (col : Bool) (d : BitVec 2) (x : Val) :
      Lands k (.mxmask col d x)
        (if d = 0 then k else if col then { k with mc := k.mc.set d.toNat x d.isLt } else { k with mr := k.mr.set d.toNat x d.isLt })
  | tb (d : BitVec 5) (x : Val) : Lands k (.tb d x) { k with tb := k.tb.set d.toNat x d.isLt }
  | handle (n : BitVec 4) (h : Handle) : Lands k (.handle n h) { k with h := k.h.set n.toNat (some h) n.isLt }

/-- A change of one stream of one tile. -/
def ofStreamAt (g : Region) (t : Nat) (b : Bool) (f : Stream → Stream) : Region :=
  { g with tiles := g.tiles.modify t fun x => if b then { x with b := f x.b } else { x with a := f x.a } }

/-- Which results stream B receives in twin mode as stream A did, 2 sc later: those of a slot that B does not execute itself, for
a scalar register, a predicate or a lane mask (02 R43; Assumption 59). -/
def twinned (f : Fly) : Bool :=
  (match f.what with | .scalar .. | .pred .. | .mask .. => true | _ => false) && decide (f.key % 8 ≠ 0 ∧ f.key % 8 ≠ 1 ∧ f.key % 8 ≠ 6)

/-- The byte that the parts of a store leave at an address: the last part that covers it decides. -/
def storedAt : List (Nat × List PByte) → Nat → Option Byte
  | [], _ => none
  | (a, ps) :: r, x =>
    match storedAt r x with
    | some v => some v
    | none => if a ≤ x then (ps[x - a]?).map (·.1) else none

/-- An event cause recorded against a tile and stream (18 R407, R425). -/
def raisingEvent (g : Region) (t : Nat) (b : Bool) (c : Cause) (va : Nat) : Region :=
  { g with raised := g.raised ++ [⟨c, false, t, b, 7, 0xFFFF_FFFF, va, none, none⟩] }

/-- An engine command has written the byte, and its write is not acquired: what the region stores there is not ordered after
it (05 R138). -/
def EngineWrote (g : Region) (t a : Nat) : Prop :=
  ∃ u ∈ g.unacq, (∃ r, u.range = some r ∧ r.bstack = false ∧ r.tile = t ∧ r.start ≤ a ∧ a < r.start + r.len) ∧
    ∀ c, g.cmds.find? (fun c => c.tile * 32 + c.ctr = u.ctr && c.num = u.num) = some c →
      ∃ r ∈ c.wrote, r.bstack = false ∧ r.tile = t ∧ r.start ≤ a ∧ a < r.start + r.len

/-- Tile u is a member of a barrier of this scope with tile t (09 R243). -/
def Member (g : Region) (t u : Nat) : BarScope → Prop
  | .tile => u = t
  | .quad => g.quad u = g.quad t
  | .region => True

/-- The sc from the last arrival to the completion (09 R246). -/
def phaseDelay (g : Region) : BarScope → Nat
  | .tile => 2
  | .quad => 4
  | .region => 8 + 2 * (g.pat.w + g.pat.h)

/-- A tile's copy of a barrier. -/
def barrierAt (g : Region) (t : Nat) (b : BitVec 7) : Barrier := (g.tile t).bars[b.toNat]'b.isLt

/-- The least member tile with a failing copy (21 R469), and the event it raises: of the arriving stream where it is its own. -/
structure LeastFailing (g : Region) (t : Nat) (sc : BarScope) (bad : Nat → Prop) (u : Nat) : Prop where
  tile : u < g.tiles.length
  member : Member g t u sc
  found : bad u
  least : ∀ v < u, Member g t v sc → ¬bad v

/-- A member copy that does not match the arriver's, and one that is full (09 R246). -/
def Differs (g : Region) (t : Nat) (b : BitVec 7) (sc : BarScope) (u : Nat) : Prop :=
  (barrierAt g u b).scope ≠ some sc ∨ (barrierAt g u b).n ≠ (barrierAt g t b).n

def Full (g : Region) (b : BitVec 7) (u : Nat) : Prop := (barrierAt g u b).n ≤ (barrierAt g u b).a

/-- The last value written to a mailbox. -/
def lastFor (l : List (BitVec 4 × Word)) (n : BitVec 4) : Option Word :=
  ((l.filter fun p => p.1 = n).getLast?).map (·.2)

/-- The region as a command reads it: its own wait has acquired what it waited for (05 R133; 11 R285). -/
def readFor (g : Region) (t : Nat) (c : MxCmd) : Region :=
  match c.wait with
  | none => g
  | some (n, v) => { g with unacq := g.unacq.filter fun u => !(decide (u.ctr = t * 32 + n) && decide (u.num ≤ v.toNat)) }

/-- The writes of a matrix command to one storage. -/
def outputs (c : MxCmd) (tm : Bool) : List (Nat × List PByte) :=
  (c.out.filter fun w => w.tm == tm).map fun w => (w.addr, w.data)

end Sys2Proof.Claims

open Sys2Proof Sys2Proof.Machine Sys2Proof.Claims

/-- 02 R43; 03 R62, R66; 07 R178; 20 R441: RESULT_LANDING writes the first due result to its register and latch, and
nothing else of any bank or storage; in twin mode stream B's copies follow 2 sc later. -/
def Sys2Proof.Claims.ResultsLandInTheirRegisters : Prop :=
  ∀ (s : State) (r : Nat) (g : Region) (f : Fly), s.region? r = some g → Due g ofRegister f →
    (∀ a ∈ g.awaits, arrivedNow g a = false) → (g.tile f.tile).dataBad = false →
    ∃ k aw, Lands (g.str f.tile f.strB).bank f.what k ∧ aw.map (·.id) = g.awaits.map (·.id) ∧
      exec (.resultLanding r) s = .next (put s
        { ofStreamAt g f.tile f.strB (fun x => { x with bank := k }) with
          awaits := aw
          flights := g.flights.erase f ++
            (if g.pat.split = false ∧ f.strB = false ∧ twinned f = true then [{ f with due := f.due + 2, strB := true }]
             else []) })

/-- 02 R38, R43; 09 R228, R231: RESULT_LANDING of a result from wall time that is due and has arrived writes its value to its
destination and lm, or its handle to the handle register, unless a later write took its place; in twin mode stream B has it 2 sc
later. -/
def Sys2Proof.Claims.AwaitedResultsLand : Prop :=
  ∀ (s : State) (r : Nat) (g : Region) (a : Await), s.region? r = some g →
    g.awaits.find? (arrivedNow g) = some a → (∀ f ∈ g.flights, ofRegister f.what = true → ¬Come g f.due) →
    a.tile < g.tiles.length →
    ∃ g' twin, exec (.resultLanding r) s = .next (put s g') ∧ g'.flights = g.flights ++ twin ∧
      (g.pat.split = true → twin = []) ∧
      (∀ f ∈ twin, f.due = g.now + 2 ∧ f.tile = a.tile ∧ f.strB = true) ∧
      (g.pat.split = false → ∀ x, a.st = .value x →
        twin.map (·.what) = [.scalar (if a.live then a.dst else none) (if a.latch then some .lm else none) x]) ∧
      (∀ x, a.st = .value x → (g'.str a.tile a.strB).bank =
        (let k := (g.str a.tile a.strB).bank
         let k1 := match a.dst with | some d => if a.live then written k d x else k | none => k
         if a.latch then latched k1 .lm x else k1)) ∧
      (∀ h (n : BitVec 4), a.st = .handle h → a.hnd = some n → a.live = true →
        (g'.str a.tile a.strB).bank =
          { (g.str a.tile a.strB).bank with h := (g.str a.tile a.strB).bank.h.set n.toNat (some h) n.isLt }) ∧
      (∀ t, ∃ ka kb, g'.tile t =
        { g.tile t with a := { (g.tile t).a with bank := ka }, b := { (g.tile t).b with bank := kb } }) ∧
      (a.kind ≠ .atomr → ∀ x ∈ g'.awaits, x.id ≠ a.id)

/-- 05 R117, R138; 03 R75; 20 R445: STORE_PERFORM writes the bytes of the first due store in its tile's scratchpad and no other
byte (a byte that an engine command has written, not yet acquired, is open); REMOTE_LOAD_SAMPLE reads its target now, and the
value lands in its own sc in the destination and lm; poison in a clean-filled segment raises 0x302. -/
def Obligations.StoresPerformAndLoadsSample : Prop :=
  ∀ (s : State) (r : Nat) (g : Region) (f : Fly), s.region? r = some g →
    (∀ t parts, Due g ofStore f → f.what = .store t parts → (g.tile t).sp.wf = true → t < g.tiles.length →
      ∃ g', exec (.storePerform r) s = .next (put { s with fresh := s.fresh + 1 } g') ∧ g'.flights = g.flights.erase f ∧
        (∀ x, storedAt parts x = none → (g'.tile t).sp.byte x = (g.tile t).sp.byte x) ∧
        (∀ x v, storedAt parts x = some v → ¬EngineWrote g t x → (g'.tile t).sp.byte x = v) ∧
        (∃ sp clean free, g'.tile t = { g.tile t with sp := sp, clean := clean, free := free }) ∧
        (∀ u, u ≠ t → g'.tile u = g.tile u)) ∧
    (∀ t a n sx d due, Due g ofSample f → f.what = .sample t a n sx d due →
      ((g.tile t).cleanHit a n = true → ∃ va, exec (.remoteLoadSample r) s = .next (put { s with fresh := s.fresh + 1 }
        (raisingEvent { g with flights := g.flights.erase f } t f.strB 0x302 va))) ∧
      ((g.tile t).cleanHit a n = false → exec (.remoteLoadSample r) s = .next (put { s with fresh := s.fresh + 1 }
        { g with flights := g.flights.erase f ++
          [{ f with due := due, what := .scalar (some d) (some .lm) (loaded sx (g.spRead s.fresh t a n)) }] })))

/-- 09 R246, R247, R249; 02 R50; 03 R69; 21 R469: an arrival counts in every member copy, fixes the arriver's target and starts
the phase that it fills; 0x0A2 of the least tile whose copy does not match, 0x0A4 of the least whose phase is full (whose stream
they name is Assumption 75); a completed phase rises by one with no arrivals; an increment adds to its counter, and is consumed
by the open stitch where that issued it; mailbox writes apply in one sc in every tile. -/
def Obligations.BarriersCountersAndMailboxesAdvance : Prop :=
  ∀ (s : State) (r : Nat) (g : Region) (f : Fly), s.region? r = some g →
    (∀ (b : BitVec 7) rel, Due g ofArrival f → f.what = .arrive b rel → (barrierAt g f.tile b).scope = none →
      exec (.barArrivalEffect r) s =
        .next (put s (raisingEvent { g with flights := g.flights.erase f } f.tile f.strB 0x0A2 0))) ∧
    (∀ (b : BitVec 7) rel (sc : BarScope), Due g ofArrival f → f.what = .arrive b rel → f.tile < g.tiles.length →
      (barrierAt g f.tile b).scope = some sc →
      ((∀ u < g.tiles.length, Member g f.tile u sc → ¬Differs g f.tile b sc u) →
        ((∀ u < g.tiles.length, Member g f.tile u sc → ¬Full g b u) →
          ∃ g', exec (.barArrivalEffect r) s = .next (put s g') ∧
            (∀ u < g.tiles.length, Member g f.tile u sc → u ≠ f.tile →
              barrierAt g' u b = { barrierAt g u b with a := (barrierAt g u b).a + 1 }) ∧
            (∀ u < g.tiles.length, ¬Member g f.tile u sc → barrierAt g' u b = barrierAt g u b) ∧
            barrierAt g' f.tile b =
              (let x := { barrierAt g f.tile b with a := (barrierAt g f.tile b).a + 1 }
               if f.strB then { x with targetB := x.phase, pendB := true } else { x with targetA := x.phase, pendA := true }) ∧
            (∀ u < g.tiles.length, Member g f.tile u sc → (barrierAt g u b).a + 1 = (barrierAt g u b).n →
              ∃ p ∈ g'.flights, p.tile = u ∧ p.what = .phase b ∧ p.due = g.now + phaseDelay g sc)) ∧
        (∀ u, LeastFailing g f.tile sc (Full g b) u →
          exec (.barArrivalEffect r) s = .next (put s
            (raisingEvent { g with flights := g.flights.erase f } u (decide (u = f.tile) && f.strB) 0x0A4 0)))) ∧
      (∀ u, LeastFailing g f.tile sc (Differs g f.tile b sc) u →
        exec (.barArrivalEffect r) s = .next (put s
          (raisingEvent { g with flights := g.flights.erase f } u (decide (u = f.tile) && f.strB) 0x0A2 0)))) ∧
    (∀ (b : BitVec 7), Due g ofPhase f → f.what = .phase b → f.tile < g.tiles.length →
      exec (.barrierPhaseComplete r) s = .next (put s { g with
        flights := g.flights.erase f
        tiles := g.tiles.modify f.tile fun x =>
          let k := x.bars[b.toNat]'b.isLt
          { x with bars := x.bars.set b.toNat { k with phase := k.phase + 1, a := 0, lastDone := some g.now } b.isLt } })) ∧
    (∀ t (n : BitVec 5) (amt : BitVec 32), Due g ofIncrement f → f.what = .inc t n amt → t < g.tiles.length →
      ∃ g', exec (.tlincEffect r) s = .next (put s g') ∧ g'.flights = g.flights.erase f ∧
        (∀ u, u ≠ t → g'.tile u = g.tile u) ∧
        g'.tile t = { g.tile t with
          tl := (g.tile t).tl.set n.toNat ((g.tile t).tl[n.toNat]'n.isLt + amt.setWidth 64) n.isLt
          used := if g.ckpt.sc ≤ f.iss then (g.tile t).used.set n.toNat ((g.tile t).used[n.toNat]'n.isLt + amt.toNat) n.isLt
            else (g.tile t).used }) ∧
    (g.mailPend ≠ [] → g.frozen = .no →
      ∃ g', exec (.mailboxApply r) s = .next (put s g') ∧ g'.mailPend = [] ∧
        ∀ t < g.tiles.length, ∃ mb, g'.tile t = { g.tile t with mb := mb } ∧
          ∀ n : BitVec 4, mb[n.toNat]'n.isLt = (lastFor g.mailPend n).getD ((g.tile t).mb[n.toNat]'n.isLt))

/-- 11 R285 to R287, R292; 05 R133: the oldest matrix command starts once its start sc has come and its wait is met, reads as
its own wait has acquired and writes nothing; what it computes is MatrixProductsComputeTheirElements and
MatrixMovesComputeTheirElements. At its completion it writes that to tensor memory and scratchpad and no other byte, leaves the
queue and counts one on tl20, or tl21 for a signalling command. -/
def Obligations.MatrixCommandsStartAndComplete : Prop :=
  ∀ (s : State) (r t : Nat) (g : Region) (c : MxCmd), s.region? r = some g →
    ((g.tile t).mxq.find? (fun c => !c.started) = some c → c.start ≤ g.now →
      (∀ n v, c.wait = some (n, v) → v ≤ ((g.tile t).tl[n]?).getD 0) →
      ∃ g' q, exec (.matrixCommandStart r t) s = .next (put { s with fresh := s.fresh + 2 } g') ∧
        (g'.tile t) = { g.tile t with mxq := q } ∧ (∀ u, u ≠ t → g'.tile u = g.tile u) ∧
        q.length = (g.tile t).mxq.length ∧
        { (readFor g t c).mxRun s.fresh t c with started := true } ∈ q ∧
        ((∀ p ∈ c.spReads, (g.tile t).cleanHit p.1 p.2 = false) → g'.raised = g.raised) ∧
        ((∃ p ∈ c.spReads, (g.tile t).cleanHit p.1 p.2 = true) → ∃ va, g'.raised = g.raised ++ [⟨0x302, false, t, c.strB, 7, 0xFFFF_FFFF, va, none, none⟩])) ∧
    ((g.tile t).mxq.find? (fun c => c.started && decide (c.fin ≤ g.now)) = some c →
      (g.tile t).sp.wf = true → (g.tile t).tm.wf = true → t < g.tiles.length →
      ∃ g', exec (.matrixCommandComplete r t) s = .next (put { s with fresh := s.fresh + 1 } g') ∧
        (∀ x, (g'.tile t).tm.byte x = (storedAt (outputs c true) x).getD ((g.tile t).tm.byte x)) ∧
        (∀ x, storedAt (outputs c false) x = none → (g'.tile t).sp.byte x = (g.tile t).sp.byte x) ∧
        (∀ x v, storedAt (outputs c false) x = some v → ¬EngineWrote g t x → (g'.tile t).sp.byte x = v) ∧
        (g'.tile t).bs = (g.tile t).bs ∧ (g'.tile t).a = (g.tile t).a ∧ (g'.tile t).b = (g.tile t).b ∧
        (∀ u, u ≠ t → g'.tile u = g.tile u) ∧
        (g'.tile t).mxq = ((g.tile t).mxq.filter fun y => y.key ≠ c.key) ∧
        (∀ n : Fin 32, (g'.tile t).tl[n] =
          (g.tile t).tl[n] + (if n.val = (if c.sig then 21 else 20) then 1 else 0)))

/-- 02 R38, R43; 03 R62, R66; 07 R178; 09 R228, R231; 20 R441: what is due lands: results of the region clock and results from wall time. -/
def Obligations.DueResultsLand : Prop := ResultsLandInTheirRegisters ∧ AwaitedResultsLand
namespace Sys2Proof.Claims

open Sys2Proof.Machine

/-! ### What comes from wall time (02 R37, R38; 05 R121 to R141) -/

/-- What an awaited result is known to be. -/
def told (g : Region) (id : Nat) (st : AwaitSt) : Region :=
  { g with awaits := g.awaits.map fun a => if a.id = id then { a with st := st } else a }

/-- An access leaves its tile's order of global accesses, and a fence with nothing before it leaves too. -/
def leftOrder (g : Region) (t id : Nat) : Region :=
  { g with tiles := g.tiles.modify t fun x =>
      { x with order := (x.order.filter fun e => e.id ≠ id).dropWhile fun e => e.fence.isSome } }

/-- An item is performed. -/
def itemGone (g : Region) (i : Item) : Region :=
  leftOrder { g with items := g.items.filter fun x => x.id ≠ i.id } i.tile i.id

/-- An awaited result that waits for its answer. -/
def Waiting (g : Region) (id : Nat) (a : Await) : Prop :=
  g.awaits.find? (fun a => a.id = id && a.st == .waiting) = some a

/-- The item has been released, is on its way to its page, and comes next in its tile's order (05 R127, R131). -/
structure Released (s : State) (g : Region) (id : Nat) (i : Item) (p : Page) : Prop where
  found : g.items.find? (fun i => i.id = id && i.released) = some i
  page : i.page = some p
  there : i.lost = false
  turn : s.mayGo g i.tile id = true

/-- The operation, width and operands of an atomic item. -/
def updateOf : ItemKind → Option (AOp × Bool × Word × Word)
  | .atom op dw v => some (op, dw, v, 0)
  | .red op dw v => some (op, dw, v, 0)
  | .atomr op dw v c _ => some (op, dw, v, c)
  | _ => none

/-- The value an atomic leaves in memory (09 R233): old value o, operands v and c. -/
def updated (op : AOp) (n : Nat) (o v c : Word) : Nat :=
  let z := 8 * n
  let x := o.toNat % 2 ^ z
  let y := v.toNat % 2 ^ z
  let signed (k : Nat) : Int := if 2 * k < 2 ^ z then k else (k : Int) - 2 ^ z
  match op with
  | .add => (x + y) % 2 ^ z
  | .min => if signed x ≤ signed y then x else y
  | .max => if signed y ≤ signed x then x else y
  | .minu => min x y
  | .maxu => max x y
  | .and => x &&& y
  | .or => x ||| y
  | .xor => x ^^^ y
  | .swap => y
  | .cas => if x = c.toNat % 2 ^ z then y else x
  | .fadd => rn32 (Exact.sum false [f32Val x, f32Val y]) % 2 ^ z

/-- The low n bytes of a number. -/
def numberBytes : Nat → Nat → List Byte
  | 0, _ => []
  | n + 1, x => BitVec.ofNat 8 x :: numberBytes n (x / 256)

/-- The source of a request as its home knows it (05 R140). -/
def sourceOf (s : State) (g : Region) (t : Nat) : BitVec 16 × BitVec 20 × BitVec 32 × Nat :=
  (g.launch.epoch ++ BitVec.ofNat 6 g.launch.part, s.dev.id, g.launch.ordinal, t)

/-- The home remembers the request: an entry of its source and tag. -/
def known (s : State) (g : Region) (i : Item) : Prop :=
  ∃ n a, i.tag = some n ∧ a ∈ s.applied ∧ a.source = sourceOf s g i.tile ∧ a.tag = n ∧ a.elem = 0

/-- The cause of a home's own refusal (19 R437). -/
def refusalCause : HomeRefusal → Cause
  | .bounds => 0x105
  | .permission => 0x106

/-- The contexts a list of reservations holds in a switch (14 R380). -/
def heldIn (l : List (Nat × Nat × Nat × List Nat)) (w : Nat) : Nat := (l.filter fun x => x.2.2.2.contains w).length

/-- In every switch of the path a context is free, and within the tenant's quota (14 R380). -/
def Grantable (s : State) (part : Nat) (l : List (Nat × Nat × Nat × List Nat)) (ws : List Nat) : Prop :=
  ∀ w ∈ ws, heldIn l w < 64 ∧ ∃ p, s.part? part = some p ∧ heldIn (l.filter fun x => x.1 = part) w < p.conf.qf

/-- A command may run: its place in the order has come (12 R310, R311). -/
structure Runs (s : State) (g : Region) (id : Nat) (c : Cmd) : Prop where
  found : g.cmds.find? (fun c => c.id = id) = some c
  ready : s.cmdReady g c = true
  tile : c.tile < g.tiles.length
  ctr : c.ctr < 32

/-- The command has left; its number is counted, and its counter rises as soon as every lower number is (12 R310). -/
structure Counted (g g' : Region) (c : Cmd) : Prop where
  gone : ∀ x ∈ g'.cmds, x.id ≠ c.id
  item : ∀ i ∈ g'.items, i.id ≠ c.id
  inTurn : c.num = (((g.tile c.tile).tl[c.ctr]?).getD 0).toNat + 1 → (∀ n, (c.ctr, n) ∉ (g.tile c.tile).counted) →
    ((g'.tile c.tile).tl[c.ctr]?).getD 0 = ((g.tile c.tile).tl[c.ctr]?).getD 0 + 1
  early : c.num ≠ (((g.tile c.tile).tl[c.ctr]?).getD 0).toNat + 1 → (∀ n, (c.ctr, n) ∉ (g.tile c.tile).counted) →
    (g'.tile c.tile).tl = (g.tile c.tile).tl ∧ (c.ctr, c.num) ∈ (g'.tile c.tile).counted

/-- A cause of a command as its region meets it (18 R422). -/
def commandCause (g : Region) (c : Cmd) (x va : Nat) : Raise :=
  ⟨x, false, c.tile, keyStrB c.key, 7, 0xFFFF_FFFF, va, some c.ctr, if c.stitch < g.stitch then some c.id else none⟩

end Sys2Proof.Claims

open Sys2Proof Sys2Proof.Machine Sys2Proof.Claims

/-- 03 R88; 05 R139; 09 R228, R231, R236: a GLD's value is read at its home when it is answered; a walk gives a handle to
the page it finds, or 0x101 or 0x103; an ATOMR takes what its home returned. Then what waited for it goes on. -/
def Obligations.LoadsWalksAndAtomrsAreAnswered : Prop :=
  ∀ (s : State) (r id : Nat) (g : Region) (a : Await), s.region? r = some g → Waiting g id a →
    (∀ n sx p, a.kind = .gld n sx → a.page = some p → a.lost = false → s.mayGo g a.tile id = true → a.got = [] →
      s.answer g.launch.part p a.addr n = .ok →
      exec (.gldDataArrival r id) s = .next ((put s (leftOrder (told g id
        (.value (loaded sx (s.homeRead g.launch.part ⟨p.target, p.dev, p.place + (a.addr - p.base)⟩ n)))) a.tile id)).settle r)) ∧
    (∀ va, a.kind = .xlate va →
      (∀ p, s.walk g.launch.part va = .mapped p → ∃ tr,
        exec (.xlateWalkComplete r id) s =
          .next ((put s { told g id (.handle ⟨va, p⟩) with trans := tr }).settle r) ∧ p ∈ tr) ∧
      (s.walk g.launch.part va = .unmapped →
        exec (.xlateWalkComplete r id) s = .next ((put s (told g id (.refused 0x101 va))).settle r)) ∧
      (∀ pg, s.walk g.launch.part va = .poisoned pg →
        exec (.xlateWalkComplete r id) s = .next ((put s (told g id (.refused 0x103 va))).settle r))) ∧
    (∀ x rest, a.kind = .atomr → (g.role = .single ∨ g.role = .primary) → a.due = 0 →
      g.rets = (2 * a.tile + (if a.strB then 1 else 0), g.stitch, some x) :: rest →
      exec (.atomrResultArrival r id) s = .next ((put s (told g id (.value x))).settle r))

/-- 05 R131, R139, R140; 09 R233; 19 R437; 20 R441: a released store writes its bytes at its home; an atomic reads, computes and
writes once for each tag, and an ATOMR's old value is returned; a refusal raises its cause (a peer's 0x108 or 0x109, a home's
0x105 or 0x106, whose condition the manual does not give: Assumption 66), and nothing is written. -/
def Obligations.ReleasedItemsReachTheirHomes : Prop :=
  ∀ (s : State) (r id : Nat) (g : Region) (i : Item) (p : Page), s.region? r = some g → Released s g id i p → i.moved = [] →
    let part := g.launch.part
    let home : Home := ⟨p.target, p.dev, p.place + (i.va - p.base)⟩
    (i.kind = .gst → s.answer part p i.va i.bytes.length = .ok →
      exec (.globalStorePerformed r id) s = .next ((put (s.homeWrite part home (i.bytes.map fun b => (b, i.bad)))
        (itemGone g i)).settle r)) ∧
    (∀ op dw v c, updateOf i.kind = some (op, dw, v, c) → s.answer part p i.va i.bytes.length = .ok →
      let n := wordBytes dw
      let old := s.homeRead part home n
      let o : Word := BitVec.ofNat 64 (numberOf old)
      ∃ s1 g1, exec (.homeAtomicApply r id) s = .next ((put s1 g1).settle r) ∧
        (known s g i → s1 = s) ∧
        (¬known s g i → ∃ l, s1 = { s.homeWrite part home
            ((numberBytes n (updated op n o v c)).map fun b => (b, old.any (·.2) || i.bad)) with applied := l } ∧
          ∀ m, i.tag = some m → ⟨sourceOf s g i.tile, m, 0, ⟨o, old.any (·.2)⟩⟩ ∈ l) ∧
        g1.items = (g.items.filter fun x => x.id ≠ i.id) ∧ g1.awaits = g.awaits ∧
        (¬known s g i → ∀ a b d e k, i.kind = .atomr a b d e k →
          g1.rets = (2 * i.tile + (if keyStrB i.key then 1 else 0), i.stitch, some ⟨o, old.any (·.2)⟩) :: g.rets)) ∧
    (∀ x why, g.awaits.find? (fun a => a.id = id && a.st == .waiting) = none →
      (s.answer part p i.va i.bytes.length = .refused x ∧ why = none ∨
        s.answer part p i.va i.bytes.length = .ok ∧ ∃ h, why = some h ∧ x = refusalCause h) → g.status = .running →
      (∀ a b d e k, i.kind ≠ .atomr a b d e k) →
      exec (.itemRefusal r ⟨id, why⟩) s = .next ((put s { itemGone g i with
        raised := g.raised ++ [⟨x, false, i.tile, keyStrB i.key, 7, 0xFFFF_FFFF, i.va, none, none⟩] }).settle r))

/-- 12 R310, R314 to R318, R321, R323 to R326; 13 R343: a command whose turn has come runs, leaves and is counted: a copy with what
it moves, a collective with every member's answer, a table load with its image, a scheduler function with its effect. -/
def Sys2Proof.Claims.EngineCommandsAreCounted : Prop :=
  ∀ (s : State) (r id : Nat) (g : Region) (c : Cmd), s.region? r = some g → Runs s g id c →
    (∀ s1 g1, EngFn.isCopy c.fn = true → s.cmdTouches s.silent g c = false → s.copyRun noMute g c = (s1, none) →
      s1.region? r = some g1 → g1.tiles.length = g.tiles.length →
      ∃ (s2 : State) (g2 : Region), exec (.copyCommandCounted r id) s = .next (s2.settle r) ∧ s2.region? r = some g2 ∧ Counted g1 g2 c ∧
        s2.hbm = s1.hbm ∧ s2.host = s1.host ∧ s2.peers = s1.peers ∧
        ∀ t, (g2.tile t).sp = (g1.tile t).sp ∧ (g2.tile t).bs = (g1.tile t).bs) ∧
    (∀ others, EngFn.isCol c.fn = true → g.silent = false → g.groupOk s.fresh s.dev.id c = true → g.sourceBad c = false →
      others.map (fun o => o.dev.toNat) = (g.group s.fresh c).filter (fun d => decide (d ≠ s.dev.id.toNat)) →
      (∀ o ∈ others, o.agrees = true) →
      ∃ (s2 : State) (g2 : Region), exec (.collectiveCounted r id others) s = .next (s2.settle r) ∧ s2.region? r = some g2 ∧ Counted g g2 c ∧
        ((∃ o ∈ others, o.answered = false ∨ o.bad = true) →
          ∃ x ∈ g2.cols, x.tile = c.tile ∧ x.ctr = c.ctr ∧ x.stitch = c.stitch ∧ ∀ b ∈ x.bytes, b.2 = true)) ∧
    (∀ granted, c.fn = .colQ ∨ c.fn = .colQFree → g.silent = false → g.groupOk s.fresh s.dev.id c = true →
      let key := groupKey (g.group s.fresh c)
      let rest := s.reserved.filter fun x => !(x.1 = g.launch.part && x.2.2.1 = key)
      ∃ (s2 : State) (g2 : Region), exec (.colQAnswer r id granted) s = .next (s2.settle r) ∧ s2.region? r = some g2 ∧ Counted g g2 c ∧
        (c.fn = .colQ → ∀ ws, granted = some ws → Grantable s g.launch.part rest ws →
          s2.reserved = (g.launch.part, r, key, ws) :: rest) ∧
        (c.fn = .colQ → (granted = none ∨ ∃ ws, granted = some ws ∧ ¬Grantable s g.launch.part rest ws) → s2.reserved = s.reserved) ∧
        (c.fn = .colQFree → s2.reserved = rest)) ∧
    (∀ k ps, c.fn = .teLoad k → s.cmdTouches s.silent g c = false → s.tableRead noMute g c = (ps, none) →
      (∀ b ∈ ps, b.2 = false) → imageOk (ps.map (·.1)) = true →
      ∃ (s2 : State) (g2 : Region), exec (.tableLoadCounted r id) s = .next (s2.settle r) ∧ s2.region? r = some g2 ∧ Counted g g2 c ∧
        (((g2.tile c.tile).tabs[k.toNat]'k.isLt).bind (·.table)) = some ⟨ps.map (·.1), []⟩) ∧
    (∀ s1 g1, s.quiet = [] → s.schRun g c = .done s1 → s1.region? r = some g1 → g1.tiles.length = g.tiles.length →
      ∃ (s2 : State) (g2 : Region), exec (.schedulerFunctionApplied r id) s = .next (s2.settle r) ∧ s2.region? r = some g2 ∧ Counted g1 g2 c ∧
        s2.hbm = s1.hbm ∧ s2.queues = s1.queues)

/-- 12 R314, R319; 18 R410, R422; 19 R437: a cause of a command stops the command: 0x101 and 0x103 park it, any other one is
raised against its region; a command of a discarded attempt is cancelled and counted. A home that refuses its bytes raises 0x105
or 0x106 (Assumption 66). -/
def Sys2Proof.Claims.EngineCausesMeetTheirRegion : Prop :=
  ∀ (s s1 : State) (r id : Nat) (g g1 : Region) (c : Cmd) (x va : Nat), s.region? r = some g → Runs s g id c →
    ∀ why, s.cmdTouches s.silent g c = false → (why = none ∧ s.cmdCause g c = some (s1, x, va) ∨
      s1 = s ∧ ∃ h p, why = some h ∧ (g.ranges s.fresh c).head? = some p ∧ x = refusalCause h ∧ va = p.1) →
    s1.region? r = some g1 →
    commandCause g1 c x va ∉ g1.raised →
    (c.dead = false → g1.status = .running → x ≠ 0x101 → x ≠ 0x103 →
      ∃ (s2 : State) (g2 : Region), exec (.engineContextCause r ⟨id, why⟩) s = .next (s2.settle r) ∧ s2.region? r = some g2 ∧
        g2.raised = g1.raised ++ [commandCause g1 c x va] ∧ g2.tiles = g1.tiles ∧ s2.hbm = s1.hbm) ∧
    (c.dead = false → g1.status = .running → (x = 0x101 ∨ x = 0x103) →
      ∃ (s2 : State) (g2 : Region), exec (.engineContextCause r ⟨id, why⟩) s = .next (s2.settle r) ∧ s2.region? r = some g2 ∧
        g2.cmds = (g1.cmds.map fun y => if y.id = c.id then { y with st := .parked x va } else y) ∧
        g2.raised = g1.raised ∧ g2.tiles = g1.tiles) ∧
    (c.dead = true →
      ∃ (s2 : State) (g2 : Region), exec (.engineContextCause r ⟨id, why⟩) s = .next (s2.settle r) ∧ s2.region? r = some g2 ∧
        ∀ y ∈ g2.cmds, y.id ≠ c.id)

/-- 12 R310, R314 to R326; 13 R343; 18 R410, R422: a command whose turn has come runs and is counted, or stops with its cause. -/
def Obligations.EngineCommandsRunOrStop : Prop := EngineCommandsAreCounted ∧ EngineCausesMeetTheirRegion
namespace Sys2Proof.Claims

open Sys2Proof.Machine

/-! ### What engine commands move (12 R315 to R317, R320, R321) -/

/-- Row i of a command's global rows. -/
def globalRow (c : Cmd) (i : Nat) : Nat := ((globalBase c : Int) + i * globalPitch c).toNat

/-- Row i of its scratchpad rows. -/
def localRow (c : Cmd) (i : Nat) : Nat := localBase c + i * localPitch c

/-- The index of row i: the word at X + 4i, as the engine reads it (12 R316). -/
def rowIndex (g : Region) (fresh : Nat) (c : Cmd) (i : Nat) : Nat :=
  numberOf (g.engRead fresh c (descField c.desc 3 19 0 + 4 * i) 4)

def indexLimit (c : Cmd) : Nat := descField c.desc 3 51 20

/-- The image byte that byte k of result row p takes; none where the element is padded, outside the image or past the kernel:
a zero. C elements fill whole bytes, so the walk of 12 R317 goes by bytes. -/
def windowSource (c : Cmd) (p k : Nat) : Option Nat :=
  let w := windowOf c.desc
  let run := w.c * formatWidth c / 8
  let pixel := w.ox0 + p
  let oy : Nat := w.oy0 + pixel / w.ow.toNat
  let ox : Nat := pixel % w.ow.toNat
  let cell := k / run
  let iy : Int := oy * w.sh + (cell / w.kw * w.dh : Nat) - w.pt
  let ix : Int := ox * w.sw + (cell % w.kw * w.dw : Nat) - w.pl
  if cell < w.kh * w.kw ∧ (oy : Int) < w.oh ∧ 0 ≤ iy ∧ iy < w.ih ∧ 0 ≤ ix ∧ ix < w.iw then
    some (globalRow c iy.toNat + ix.toNat * run + k % run)
  else none

/-- What a command fills in its tile: rows, bytes per row, where row i begins, and the global byte that byte k of row i takes;
none is a zero byte. -/
structure Inflow where
  rows : Nat
  len : Nat
  start : Nat → Nat
  source : Nat → Nat → Option Nat

def inflow (g : Region) (fresh : Nat) (c : Cmd) : Option Inflow :=
  match c.fn with
  | .ceIn => some ⟨rowsOf c, rowBytesOf c, localRow c, fun i k => some (globalRow c i + k)⟩
  | .ceB => some ⟨rowsOf c, rowBytesOf c, fun i => 32768 * (descField c.desc 3 5 0 + i) + descField c.desc 3 30 16,
      fun i k => some (globalRow c i + k)⟩
  | .ceGath => some ⟨rowsOf c, rowBytesOf c, localRow c, fun i k =>
      if rowIndex g fresh c i < indexLimit c then some (globalRow c (rowIndex g fresh c i) + k) else none⟩
  | .ceWin => some ⟨(windowOf c.desc).np, (windowOf c.desc).kp * formatWidth c / 8, localRow c, windowSource c⟩
  | _ => none

/-- Where row i of a copy-out goes; none is a row CE.SCAT skips. -/
def outRow (g : Region) (fresh : Nat) (c : Cmd) (i : Nat) : Option Nat :=
  match c.fn with
  | .ceScat => if rowIndex g fresh c i < indexLimit c then some (globalRow c (rowIndex g fresh c i)) else none
  | _ => some (globalRow c i)

/-- Rows that do not overlap. -/
def Apart (n len : Nat) (start : Nat → Option Nat) : Prop :=
  ∀ i j a b, i < n → j < n → i ≠ j → start i = some a → start j = some b → a + len ≤ b ∨ b + len ≤ a

/-- The storage a copy fills: the B-stack or the scratchpad. -/
def filled (c : Cmd) (x : Tile) : Mem := if c.fn = .ceB then x.bs else x.sp

/-- Nothing but the command itself writes what it writes: no write of the region since its issue, no other command that is not
acquired (05 R138). -/
def Alone (g : Region) (c : Cmd) : Prop :=
  c.touched = [] ∧ ∀ u ∈ g.unacq, u.ctr = c.tile * 32 + c.ctr ∧ u.num = c.num

/-- A virtual byte in a page of local memory. -/
def globalByte (s : State) (part : Nat) (p : Page) (a : Nat) : Byte := ((s.homeRead part (p.home a) 1).map (·.1)).headD 0

/-- The bytes lie in one page of local memory that may be read, or written. -/
def InPage (s : State) (part : Nat) (p : Page) (write : Bool) (a : Nat) : Prop :=
  p.target = .hbm ∧ s.page part a write = .ok p ∧ p.base ≤ a ∧ a < p.base + p.size

/-- The translation tables lie in host memory: no copy into local memory changes them. -/
def TablesApart (s : State) (part : Nat) : Prop := ∃ p, s.part? part = some p ∧ p.ptroot.getLsbD 0 = true

/-- Reductions one after another, each met by its home. -/
inductive ReducedInTurn (g : Region) (c : Cmd) (op : AOp) : List (Nat × Nat × Word) → State → State → Prop
  | none (s) : ReducedInTurn g c op [] s s
  | one (va e v rest s s1 s2) : s.reduceElem noMute g c op va e v = (s1, Option.none) → ReducedInTurn g c op rest s1 s2 →
      ReducedInTurn g c op ((va, e, v) :: rest) s s2

/-- One level of the tree of 12 R320, lower index on the left. -/
def level (f : Nat → Nat → Nat) : List Nat → List Nat
  | a :: b :: r => f a b :: level f r
  | l => l

/-- The root: each level at least halves what is left. -/
def root (f : Nat → Nat → Nat) (l : List Nat) : Nat := ((level f)^[l.length] l).headD 0

/-- The combine step of 12 R320. -/
def combined (op : AOp) (f : Fmt) (x y : Nat) : Nat :=
  match op with
  | .and => x &&& y
  | .or => x ||| y
  | .xor => x ^^^ y
  | .minu => min x y
  | .maxu => max x y
  | .min => if f = .i32 then (if signedOf 32 x ≤ signedOf 32 y then x else y) else floatPick f false x y
  | .max => if f = .i32 then (if signedOf 32 x ≥ signedOf 32 y then x else y) else floatPick f true x y
  | _ => if f = .i32 then (x + y) % 2 ^ 32 else rn32 (Exact.sum false [f32Val x, f32Val y])

/-- One reduced element: a .BF16 or .F16 sum goes over binary32, and its root is rounded to the format. -/
def reducedElement (op : AOp) (f : Fmt) (vals : List Nat) : Nat :=
  if op = .add ∧ (f = .bf16 ∨ f = .f16) then
    convert f .rne false 0 (f32Val (root (combined op f) (vals.map fun x => rn32 (fmtValue f x))))
  else root (combined op f) vals

/-- A little-endian number of plain bytes. -/
def numberOfBytes (bs : List Byte) : Nat := numberOf (bs.map fun b => (b, false))

/-- The format of a collective's descriptor. -/
def formatOf (c : Cmd) : Fmt := (Fmt.ofCode ((descWord c.desc 1).extractLsb' 52 4)).getD .i32

/-- Byte k of what a collective writes at D, of the members' contributions by device index. -/
def collectiveByte (c : Cmd) (parts : List (List Byte)) (k : Nat) : Byte :=
  let lb := rowBytesOf c
  match c.fn with
  | .colRed op =>
    let z := (formatOf c).width / 8
    BitVec.ofNat 8 (reducedElement op (formatOf c) (parts.map fun p => numberOfBytes ((p.drop (z * (k / z))).take z)) / 256 ^ (k % z))
  | .colAg => (parts.getD (k / lb) []).getD (k % lb) 0
  | _ => (parts.getD (descField c.desc 3 51 40) []).getD k 0

/-- How many bytes it writes. -/
def collectiveLength (c : Cmd) : Nat := if c.fn = .colAg then rowsOf c * rowBytesOf c else rowBytesOf c

/-- The devices of the group table: m words at X (12 R319). -/
def groupTable (g : Region) (fresh : Nat) (c : Cmd) : List Nat :=
  (List.range (rowsOf c)).map fun i => numberOf (g.engRead fresh c (descField c.desc 3 39 20 + 4 * i) 4)

/-- The table and the root are as 12 R319 and R321 ask. -/
def GroupLegal (me : Nat) (c : Cmd) (l : List Nat) : Prop :=
  1 ≤ l.length ∧ l.length ≤ 4096 ∧ l.Pairwise (· < ·) ∧ (∀ d ∈ l, d < 2 ^ 20) ∧ me ∈ l ∧
    (c.fn = .colBc → descField c.desc 3 51 40 < l.length)

end Sys2Proof.Claims

open Sys2Proof Sys2Proof.Machine Sys2Proof.Claims

/-- 12 R315 to R317; 05 R135, R138: what a copy that runs whole brings into its tile: every byte of every row of CE.IN, CE.B, CE.GATH
and CE.WIN is the global byte its page of the manual names, or zero; CE.FILL repeats its pattern; CE.XFER copies its rows to the
other tile. No byte outside the rows changes. -/
def Obligations.CopiesInMoveTheirBytes : Prop :=
  ∀ (s : State) (r : Nat) (g : Region) (c : Cmd), s.region? r = some g → c.moved = [] → Alone g c → c.tile < g.tiles.length →
    (∀ f, inflow g s.fresh c = some f → ShapeLegal c → (filled c (g.tile c.tile)).wf = true →
      Apart f.rows f.len (fun i => some (f.start i)) →
      (∃ p, ∀ i k a, i < f.rows → k < f.len → f.source i k = some a → InPage s g.launch.part p false a) →
      ∃ s1 g1, s.copyRun noMute g c = (s1, none) ∧ s1.region? r = some g1 ∧ s1.hbm = s.hbm ∧
        (∀ u, u ≠ c.tile → g1.tile u = g.tile u) ∧
        (∀ p, (∀ i k a, i < f.rows → k < f.len → f.source i k = some a → InPage s g.launch.part p false a) →
          ∀ i k, i < f.rows → k < f.len → (filled c (g1.tile c.tile)).byte (f.start i + k) =
            match f.source i k with
            | some a => globalByte s g.launch.part p a
            | none => 0) ∧
        (∀ a, (∀ i, i < f.rows → a < f.start i ∨ f.start i + f.len ≤ a) →
          (filled c (g1.tile c.tile)).byte a = (filled c (g.tile c.tile)).byte a)) ∧
    (c.fn = .ceFill → (g.tile c.tile).sp.wf = true → Apart (rowsOf c) (rowBytesOf c) (fun i => some (localRow c i)) →
      ∃ s1 g1, s.copyRun noMute g c = (s1, none) ∧ s1.region? r = some g1 ∧ s1.hbm = s.hbm ∧
        (∀ i k, i < rowsOf c → k < rowBytesOf c → (g1.tile c.tile).sp.byte (localRow c i + k) =
          BitVec.ofNat 8 ((descWord c.desc 0).toNat / 256 ^ (k % 8))) ∧
        (∀ a, (∀ i, i < rowsOf c → a < localRow c i ∨ localRow c i + rowBytesOf c ≤ a) →
          (g1.tile c.tile).sp.byte a = (g.tile c.tile).sp.byte a)) ∧
    (∀ u d k, c.fn = .ceXfer → u < g.tiles.length → (g.tile u).sp.wf = true →
      g.remote c.tile ((descWord c.desc 3).extractLsb' 40 8) ((descWord c.desc 3).extractLsb' 48 8) = some (u, d, k) →
      let target (i : Nat) : Nat := targetBase c + i * descField c.desc 3 39 20
      Apart (rowsOf c) (rowBytesOf c) (fun i => some (target i)) →
      (u = c.tile → ∀ i j, i < rowsOf c → j < rowsOf c →
        localRow c i + rowBytesOf c ≤ target j ∨ target j + rowBytesOf c ≤ localRow c i) →
      ∃ s1 g1, s.copyRun noMute g c = (s1, none) ∧ s1.region? r = some g1 ∧ s1.hbm = s.hbm ∧
        (∀ i k, i < rowsOf c → k < rowBytesOf c →
          (g1.tile u).sp.byte (target i + k) = (g.engByte s.fresh c (localRow c i + k)).1) ∧
        (∀ a, (∀ i, i < rowsOf c → a < target i ∨ target i + rowBytesOf c ≤ a) → (g1.tile u).sp.byte a = (g.tile u).sp.byte a))

/-- 05 R135, R140; 12 R315, R316, R320, R321: what a copy-out that runs whole writes in a page of local memory (its translation tables in
host memory): every row of CE.OUT, and every row of CE.SCAT whose index is below the limit, byte for byte; CE.OUTR reduces its
4-byte elements in turn, each once for its tag. A collective whose members all answer and agree writes at D the reduction by the
tree of R320, the contributions in order, or the root's. -/
def Obligations.CopiesOutAndCollectivesMoveTheirBytes : Prop :=
  ∀ (s : State) (r : Nat) (g : Region) (c : Cmd), s.region? r = some g → c.moved = [] → g.sourceBad c = false →
    (∀ p, (c.fn = .ceOut ∨ c.fn = .ceScat) → TablesApart s g.launch.part → s.hbm.wf = true →
      Apart (rowsOf c) (rowBytesOf c) (outRow g s.fresh c) →
      (∀ i k a, i < rowsOf c → k < rowBytesOf c → outRow g s.fresh c i = some a → InPage s g.launch.part p true (a + k)) →
      ∃ s1, s.copyRun noMute g c = (s1, none) ∧ s1.regions = s.regions ∧
        (∀ i k a, i < rowsOf c → k < rowBytesOf c → outRow g s.fresh c i = some a →
          globalByte s1 g.launch.part p (a + k) = (g.engByte s.fresh c (localRow c i + k)).1) ∧
        (∀ x, p.base ≤ x → x < p.base + p.size →
          (∀ i a, i < rowsOf c → outRow g s.fresh c i = some a → x < a ∨ a + rowBytesOf c ≤ x) →
          globalByte s1 g.launch.part p x = globalByte s g.launch.part p x)) ∧
    (∀ op, c.fn = .ceOutr op → 4 ∣ rowBytesOf c →
      (∀ s1, ReducedInTurn g c op ((List.range (rowsOf c)).flatMap fun i => (List.range (rowBytesOf c / 4)).map fun e =>
          (globalRow c i + 4 * e, i * (rowBytesOf c / 4) + e,
            BitVec.ofNat 64 (numberOf (g.engRead s.fresh c (localRow c i + 4 * e) 4)))) s s1 →
        s.copyRun noMute g c = (s1, none)) ∧
      (∀ (s0 : State) va e v p tag, InPage s0 g.launch.part p true va → p.rd = true → c.tag = some tag →
        let found := s0.applied.find? fun a => a.source = sourceOf s0 g c.tile && a.tag = tag && decide (a.elem = e)
        let old := s0.homeRead g.launch.part (p.home va) 4
        (found ≠ none → s0.reduceElem noMute g c op va e v = (s0, none)) ∧
        (found = none → ∃ l, s0.reduceElem noMute g c op va e v =
            ({ s0.homeWrite g.launch.part (p.home va)
                ((numberBytes 4 (updated op 4 (BitVec.ofNat 64 (numberOf old)) v 0)).map fun b => (b, old.any (·.2)))
              with applied := l }, none) ∧
          ∃ a ∈ l, a.source = sourceOf s0 g c.tile ∧ a.tag = tag ∧ a.elem = e))) ∧
    (∀ id (others : List Contrib), EngFn.isCol c.fn = true → Runs s g id c → g.silent = false → Alone g c →
      (g.tile c.tile).sp.wf = true →
      let members := groupTable g s.fresh c
      GroupLegal s.dev.id.toNat c members →
      (∀ op, c.fn = .colRed op → CollectiveFormat op (formatOf c) ∧ 8 * rowBytesOf c % (formatOf c).width = 0) →
      others.map (fun o => o.dev.toNat) = members.filter (fun d => decide (d ≠ s.dev.id.toNat)) →
      (∀ o ∈ others, o.agrees = true ∧ o.answered = true ∧ o.bad = false ∧ o.bytes.length = rowBytesOf c) →
      let mine := (g.engRead s.fresh c (localBase c) (rowBytesOf c)).map (·.1)
      let parts := members.map fun d =>
        if d = s.dev.id.toNat then mine else ((others.find? fun o => o.dev.toNat = d).map (·.bytes)).getD []
      ∃ s2 g2, exec (.collectiveCounted r id others) s = .next (State.settle s2 r) ∧ s2.region? r = some g2 ∧
        (∀ k, k < collectiveLength c → (g2.tile c.tile).sp.byte (targetBase c + k) = collectiveByte c parts k) ∧
        (∀ a, a < targetBase c ∨ targetBase c + collectiveLength c ≤ a →
          (g2.tile c.tile).sp.byte a = (g.tile c.tile).sp.byte a))
namespace Sys2Proof.Claims

open Sys2Proof.Machine

/-! ### Commits, launch ends, timing causes (02 R46 to R50; 18 R407, R411, R415) -/

/-- Nothing from outside that is due is awaited any more, and the refusals among what came, in the order of the awaited results
(09 R228; 19 R437; that a commit waits for all of them before it raises any is Assumption 74). -/
def Answered (g : Region) : Prop := ∀ a ∈ g.awaits, a.missing g.now = true → a.st ≠ .waiting

def refusalsOf (g : Region) : List Raise :=
  g.awaits.filterMap fun a =>
    match a.missing g.now, a.st with
    | true, .refused c va => some ⟨c, false, a.tile, a.strB, 7, 0xFFFF_FFFF, va, none, none⟩
    | _, _ => none

/-- Every participant has presented its commit and what it waits for has landed (02 R49; 09 R240). -/
structure CommitDue (g : Region) : Prop where
  noStub : g.stub = false
  idle : g.committing = .none
  some_ : g.participants ≠ []
  all : ∀ p ∈ g.participants, (g.str p.1 p.2).presented.isSome = true
  landed : g.inFlight = false
  answered : Answered g

/-- Every stream is idle and what they issued has landed (02 R46). -/
structure Finished (g : Region) : Prop where
  noStub : g.stub = false
  open_ : g.finalDone = false
  idle : g.committing = .none
  none_ : g.participants = []
  landed : g.inFlight = false
  answered : Answered g

/-- A participant's commit is of this kind. -/
def Presents (g : Region) (p : CommitKind → Prop) : Prop :=
  ∃ q ∈ g.streams, ∃ x, (g.str q.1 q.2).presented = some x ∧ p x.kind

def Releases : CommitKind → Prop
  | .arrRel _ => True
  | _ => False

/-- A stream after a commit: latches and handles clear, the commit is over, all else stands. -/
def afterCommit (x : Stream) : Stream :=
  { x with
    bank := { x.bank with la := {}, h := Vector.replicate 16 none }
    presented := none, waitFrom := none, arrived := false }

/-- What a commit leaves of the region (02 R50): the copies written flip, the checkpoint is taken for the next sc, the
stitch number rises, the latches, handles and commits of both streams clear, the bypass empties and the shadow parameters take
their reset values (11 R289, R302); storage and registers stand. -/
structure Committed (g g1 : Region) (r : SafePt) : Prop where
  stitch : g1.stitch = g.stitch + 1
  count : g1.reentry = 0 ∧ g1.lastCause = 0
  record : g1.recId = r.id ∧ g1.gaugeLim = r.gauge ∧ g1.gaugeN = 0
  ckpt : g1.ckpt.sc = g.sc + 1 ∧ g1.ckpt.resumed = false ∧ g1.ckpt.flights = g1.flights ∧
    g1.ckpt.tiles = g1.tiles.map fun x => ⟨x.a, x.b, x.j, x.bars⟩
  tiles : g1.tiles.length = g.tiles.length
  accs : ∀ t < g.tiles.length, (g1.tile t).accCom = (g.tile t).accCom ^^^ (g.tile t).accWr ∧ (g1.tile t).accWr = 0
  streams : ∀ t < g.tiles.length, (g1.tile t).a = afterCommit (g.tile t).a ∧ (g1.tile t).b = afterCommit (g.tile t).b
  engine : ∀ t < g.tiles.length, (g1.tile t).byp = none ∧ (g1.tile t).bypFmt = none ∧
    (g1.tile t).mp.toList.map (·.bits) = [0, 0, 0, 0, 0, 9, 0, 0] ∧ ∀ n : Fin 32, (g1.tile t).used[n] = 0
  storage : ∀ t < g.tiles.length, (g1.tile t).sp = (g.tile t).sp ∧ (g1.tile t).tm = (g.tile t).tm ∧ (g1.tile t).bs = (g.tile t).bs
  items : ∀ i ∈ g1.items, i.released = true

/-- What a stream is at its checkpoint, as a frog gives it back: latches and handles clear, the slots inactive, the
bases raised by the numbers consumed since (18 R411; 12 R310). -/
def broughtBack (used : Vector Nat 32) (x : Stream) : Stream :=
  { x with
    bank := { x.bank with
      la := {}, h := Vector.replicate 16 none
      tb := x.bank.tb.mapFinIdx fun i v h => ⟨v.bits + BitVec.ofNat 64 (used[i]'h), v.bad⟩ }
    ls := none, va := none, mx := none, presented := none, waitFrom := none, arrived := false, srNext := none }

end Sys2Proof.Claims

open Sys2Proof Sys2Proof.Machine Sys2Proof.Claims

/-- 02 R49, R50; 05 R124, R131, R132; 09 R228, R240, R241; 20 R444: a commit whose checks pass takes place in its sc and releases every
gated item; MARK.D then freezes until what is outstanding is performed, a release arrival waits first for what its own stitch
released, and where nothing is outstanding both end at once; a check that fails raises its cause and nothing commits, a twin
mismatch in place of the datapath causes of its sc. Refused results raise their causes (Assumption 74). -/
def Obligations.CommitTakesPlace : Prop :=
  ∀ (s : State) (r : Nat) (g : Region), s.region? r = some g → CommitDue g →
    (∀ rc, refusalsOf g = [] → g.commitRaise (s.forwards g.launch.part) false = none → g.raised = [] → g.commitRec = some rc →
      (¬Presents g Releases ∨ (∀ i ∈ g.items, i.stitch ≠ g.stitch) →
        ∃ (s1 : State) (g1 : Region), s1.region? r = some g1 ∧ Committed g g1 rc ∧ s1.queues = s.queues ∧
          ((∀ i ∈ g.items, i.bad = false) → s1.hbm = s.hbm) ∧ exec (.commit r) s = .next (s1.afterCommit r) ∧
          (¬Presents g (fun k => k = .markD) → g1.committing = .none) ∧
          (Presents g (fun k => k = .markD) → (g1.items = [] → g1.committing = .none) ∧
            (g1.items ≠ [] → ∃ ids, g1.committing = .durable ids ∧ ∀ i ∈ g1.items, i.id ∈ ids))) ∧
      (Presents g Releases → g.silent = false → (∃ i ∈ g.items, i.stitch = g.stitch) →
        ∃ (s1 : State) (g1 : Region), exec (.commit r) s = .next s1 ∧ s1.region? r = some g1 ∧ g1.stitch = g.stitch ∧
          (∃ ids, g1.committing = .durable ids ∧ ∀ i ∈ g1.items, i.stitch = g.stitch → i.id ∈ ids) ∧
          (∀ i ∈ g1.items, i.released = true) ∧
          ∀ t < g.tiles.length, (g1.tile t).a = (g.tile t).a ∧ (g1.tile t).b = (g.tile t).b)) ∧
    (refusalsOf g ≠ [] → exec (.commit r) s = .next (put s { g with raised := g.raised ++ refusalsOf g })) ∧
    (∀ ra, refusalsOf g = [] → g.commitRaise (s.forwards g.launch.part) false = some ra →
      exec (.commit r) s = .next (put s { g with raised :=
        (if ra.cause = 0x380 then g.raised.filter fun x => x.cause ≠ 0x382 && x.cause ≠ 0x383 else g.raised) ++ [ra] }))

/-- 02 R46; 03 R72; 13 R341 to R343, R358; 15 R384, R387: the final commit releases what is gated and ends the launch on its
tiles, whose banks go to the clear engine; the launch posts 1 with its signature and leaves, and its packet is finished; what its
final commit left on its tiles stands (until they are used again: Assumption 77). -/
def Obligations.LaunchesFinishAndPost : Prop :=
  ∀ (s : State) (r : Nat) (g : Region), s.region? r = some g →
    (Finished g → refusalsOf g = [] → g.commitRaise (s.forwards g.launch.part) true = none → g.raised = [] →
      ∃ (t : State) (g1 : Region), exec (.finalCommit r) s = .next t ∧ t.region? r = some g1 ∧ g1.status = .final ∧
        g1.finalDone = true ∧ g1.stitch = g.stitch + 1 ∧ g1.flights = [] ∧ g1.awaits = [] ∧
        (∀ i ∈ g1.items, i.released = true) ∧ t.jobs = s.jobs ++ bankJobs g1 ∧
        ∀ u < g.tiles.length, (g1.tile u).accCom = (g.tile u).accCom ^^^ (g.tile u).accWr) ∧
    (∀ s1 : State, s.quiet = [] → g.role = .single → (g.status = .final ∨ ∃ c, g.status = .killed c) →
      (∀ x ∈ s.regions, sameLaunch x g = true → x.items = [] ∧ x.cmds = []) →
      g.launch.queue < 256 → g.launch.node = none → (s.queue g.launch.queue).stopped = false →
      (∀ c, g.failed = some c → ¬(0x385 ≤ c ∧ c ≤ 0x388)) →
      s.post g.launch.part g.launch.desc
        ⟨1, g.paths.toNat * 4 + (if g.verdict = .agreed ∧ g.failed = none then 16 else 0), some g.signature, g.failed⟩ = .ok s1 →
      ∃ t : State, exec (.launchCompletionPost r) s = .next t ∧ (∀ x ∈ t.regions, sameLaunch x g = false) ∧
        (t.queue g.launch.queue).rd = (s1.queue g.launch.queue).rd + 416 ∧ (t.queue g.launch.queue).head = .idle ∧
        (g.status = .final → t.left = s1.left ++ [g]) ∧ t.hbm = s1.hbm ∧ t.host = s1.host)

/-- 02 R42, R53; 14 R373; 18 R415; 20 R439, R446: an overrun gauge raises 0x200 and an overrun freeze 0x201, against tile 0;
lost control state kills with 0x30E; a reclaim that has waited its 100 us frogs the region without a cause and saves it. -/
def Obligations.TimingAndLossCauses : Prop :=
  ∀ (s : State) (r : Nat) (g : Region), s.region? r = some g → g.status = .running →
    (g.committing = .none → g.stub = false → g.gaugeLim ≤ g.gaugeN → (∀ x ∈ g.raised, x.cause ≠ 0x200) →
      exec (.deadlineFault r) s = .next (put s (raisingEvent g 0 false 0x200 0))) ∧
    (∀ n p, g.frozen = .wait n → s.part? g.launch.part = some p → p.conf.freezeUs.getD 10000 * 1000 * wallUnit < n →
      (∀ x ∈ g.raised, x.cause ≠ 0x201) →
      exec (.freezeBudgetExpiry r) s = .next
        (if g.committing = .none then (put s (raisingEvent g 0 false 0x201 0)).takeRaised r
         else put s (raisingEvent g 0 false 0x201 0))) ∧
    (∀ t, g.committing = .none → g.role = .single → g.handler = none →
      ∃ (u : State) (g' : Region), exec (.controlStateLost r t) s = .next u ∧ u.region? r = some g' ∧ g'.status = .killed 0x30E) ∧
    (∀ t, g.committing = .none → g.reclaimAt = some t → t + 100000 * wallUnit ≤ s.dev.wall →
      ∃ (u : State) (g' : Region), exec (.reclaimTimeout r) s = .next u ∧ u.region? r = some g' ∧
        (g'.status = .saving none ∨ g'.status = .saved) ∧ g'.reclaimAt = none ∧ g'.preempt = false ∧
        g'.reentry = g.reentry ∧ g'.lastCause = g.lastCause ∧ g'.stitch = g.stitch)

/-- 18 R411; 02 R50; 11 R289; 12 R310: a frog takes the region back to its checkpoint: registers, sync bits and barriers as they
were, latches and handles clear, slots inactive, the open stitch's gated items gone, the accumulator copies not flipped;
B-stack, mailboxes and tables stand. -/
def Obligations.FrogTakesTheRegionBack : Prop :=
  ∀ (g : Region) (pick : Nat → Nat) (fresh : Nat), g.ckpt.tiles.length = g.tiles.length →
    (∀ x ∈ g.tiles, ∀ c ∈ x.mxq, c.started = false) → (∀ c ∈ g.cmds, c.stitch = g.stitch → c.dead = true) →
    ∃ g' : Region, g.frog pick fresh = g' ∧ g'.sc = g.ckpt.sc ∧ g'.gaugeN = 0 ∧ g'.raised = [] ∧ g'.frozen = .no ∧
      g'.stitch = g.stitch ∧ g'.items = (g.items.filter fun i => i.released) ∧ g'.tiles.length = g.tiles.length ∧
      ∀ t (h : t < g.ckpt.tiles.length),
        let x := g.tile t
        let x' := g'.tile t
        x'.a = broughtBack x.used g.ckpt.tiles[t].a ∧ x'.b = broughtBack x.used g.ckpt.tiles[t].b ∧
        x'.j = g.ckpt.tiles[t].j ∧ x'.bars = g.ckpt.tiles[t].bars ∧ x'.accCom = x.accCom ∧ x'.accWr = 0 ∧ x'.mxq = [] ∧
        x'.sp = x.sp ∧ x'.tm = x.tm ∧ x'.bs = x.bs ∧ x'.mb = x.mb ∧ x'.tabs = x.tabs ∧ x'.tl = x.tl
namespace Sys2Proof.Claims

open Sys2Proof.Machine

/-! ### Queues and packets (13 R330 to R347) -/

def onQueue (s : State) (q : Nat) (f : Queue → Queue) : State :=
  { s with queues := s.queues.setIfInBounds q (f ((s.queues[q]?).getD {})) }

/-- A packet of n bytes is finished. -/
def packetDone (s : State) (q n : Nat) : State := onQueue s q fun u => { u with rd := u.rd + n, head := .idle, graph := none }

/-- The queue belongs to a partition that host software drives. -/
structure HostDriven (s : State) (q : Nat) (p : Part) : Prop where
  up : s.dev.stage = .up
  part : s.parts.find? (fun p => p.conf.queues.contains q) = some p
  opened : p.fenced = false

/-- The queue is enabled, not stopped, has nothing under way, and a whole published packet stands at its read index. -/
structure AtPacket (s : State) (q : Nat) (p : Part) (k : Packet) : Prop where
  part : s.parts.find? (fun p => p.conf.queues.contains q) = some p
  opened : p.fenced = false
  enabled : (s.queue q).ctl.getLsbD 0 = true
  going : (s.queue q).ctl.getLsbD 1 = false
  idle : (s.queue q).head = .idle
  whole : s.headPacket q = .pkt k

/-- A field of a packet: bytes a to a + n − 1 as a little-endian number. -/
def fieldOf (k : Packet) (a n : Nat) : Nat := leNat ((k.bytes.drop a).take n)

/-- Bits hi to lo of the packet's header. -/
def headerBits (k : Packet) (hi lo : Nat) : Nat := fieldOf k 0 8 / 2 ^ lo % 2 ^ (hi + 1 - lo)

/-- The action code of the header at the read index. -/
def ActionIs (s : State) (q : Nat) (p : Part) (k : Packet) (c : Nat) : Prop :=
  headerBits k 35 32 = c ∧ ∃ h, s.headHeader p q = some h ∧ h / 2 ^ 32 % 16 = c

/-- No other partition has the queue that the packet's header numbers (13 R338, R339). -/
def NotForeign (s : State) (p : Part) (k : Packet) : Prop :=
  ∀ o ∈ s.parts, o.conf.num ≠ p.conf.num → headerBits k 47 40 ∉ o.conf.queues

/-- The packet refuses with this cause: the queue stops at it. -/
def StopsWith (t : State) (q : Nat) (c : Cause) : Prop := (t.queue q).ctl.getLsbD 1 = true ∧ (t.queue q).cause = c

/-- Bytes 0 to 7 of the packet at the read index. -/
def headAt (s : State) (q : Nat) (p : Part) (h : Nat) : Prop :=
  ∃ bs, s.readV p.conf.num (((s.queue q).base &&& 0x01FF_FFFF_FFFF_F000).toNat +
    (s.queue q).rd % 2 ^ ((s.queue q).ctl.extractLsb' 8 5).toNat) 8 = .ok bs ∧ numberOf bs = h

/-- The queue is ready for a packet that stands at its read index or is not published yet. -/
structure AtHead (s : State) (q : Nat) (p : Part) : Prop where
  part : s.parts.find? (fun p => p.conf.queues.contains q) = some p
  opened : p.fenced = false
  enabled : (s.queue q).ctl.getLsbD 0 = true
  going : (s.queue q).ctl.getLsbD 1 = false
  idle : (s.queue q).head = .idle

/-- The graph under way, with these nodes. -/
def withNodes (s : State) (q : Nat) (r : GraphRun) (ns : List Node) : State :=
  onQueue s q fun u => { u with graph := some { r with nodes := ns } }

/-- Ring size and weight of a qc.ctl value are within their limits (13 R330). -/
def CtlLegal (v : Word) : Prop :=
  12 ≤ (v.extractLsb' 8 5).toNat ∧ (v.extractLsb' 8 5).toNat ≤ 24 ∧ v.extractLsb' 16 8 ≠ 0

end Sys2Proof.Claims

open Sys2Proof Sys2Proof.Machine Sys2Proof.Claims

/-- 13 R330 to R333: a doorbell stores a legal qc.wr, is ignored by a device-fed queue, and stops the queue with 0x28E
otherwise; qc.ctl stores its fields and keeps Enable clear where size or weight is out of range; writing 1 to Stopped
restarts a stopped queue at its read index. -/
def Sys2Proof.Claims.QueueRegistersAreWritten : Prop :=
  ∀ (s : State) (q : Nat) (p : Part) (v : Word), HostDriven s q p → q < 256 →
    ((s.queue q).ctl.getLsbD 2 = true → exec (.queueDoorbell q v) s = .next s) ∧
    ((s.queue q).ctl.getLsbD 2 = false → v.toNat % 8 = 0 → (s.queue q).wr ≤ v.toNat →
      v.toNat ≤ (s.queue q).rd + 2 ^ ((s.queue q).ctl.extractLsb' 8 5).toNat →
      exec (.queueDoorbell q v) s = .next (onQueue s q fun u => { u with wr := v.toNat })) ∧
    ((s.queue q).ctl.getLsbD 2 = false → (v.toNat % 8 ≠ 0 ∨ v.toNat < (s.queue q).wr ∨
        (s.queue q).rd + 2 ^ ((s.queue q).ctl.extractLsb' 8 5).toNat < v.toNat) →
      s.part? p.conf.num = some p → entryAction (p.entry 0x28E) ≠ .forward →
      ∃ t : State, exec (.queueDoorbell q v) s = .next t ∧ (t.queue q).ctl.getLsbD 1 = true ∧ (t.queue q).cause = 0x28E ∧
        (t.queue q).wr = (s.queue q).wr ∧ (t.queue q).rd = (s.queue q).rd) ∧
    (v.getLsbD 1 = false →
      (CtlLegal v ∨ v.getLsbD 0 = false → exec (.queueEnable q v) s =
        .next (onQueue s q fun u => { u with ctl := (v &&& 0xFF1F75) ||| (u.ctl &&& 2) })) ∧
      (¬CtlLegal v → v.getLsbD 0 = true → exec (.queueEnable q v) s =
        .next (onQueue s q fun u => { u with ctl := (v &&& 0xFF1F74) ||| (u.ctl &&& 2) }))) ∧
    ((s.queue q).ctl.getLsbD 1 = false → exec (.queueRestart q) s = .next s) ∧
    ((s.queue q).ctl.getLsbD 1 = true →
      ∃ t : State, exec (.queueRestart q) s = .next t ∧ (t.queue q).ctl = (s.queue q).ctl &&& ~~~2#64 ∧
        (t.queue q).rd = (s.queue q).rd ∧ (t.queue q).wr = (s.queue q).wr ∧ (t.queue q).cause = (s.queue q).cause ∧
        t.hbm = s.hbm)

/-- 13 R331, R333, R335: a packet is handled once its whole length is published; one that would straddle the end of the
ring stops the queue with 0x281 whatever its bytes past the end hold. -/
def Sys2Proof.Claims.PacketsAreMetWhole : Prop :=
  ∀ (s : State) (q : Nat) (p : Part) (k h : Nat), AtHead s q p → q < 256 → headAt s q p h → h % 256 = k → k ≤ 6 →
    let words := [1, 52, 4, 4, 4, 4, 2].getD k 0
    let size := 2 ^ ((s.queue q).ctl.extractLsb' 8 5).toNat
    ((s.queue q).wr < (s.queue q).rd + 8 → s.headPacket q = .none) ∧
    ((s.queue q).rd + 8 ≤ (s.queue q).wr → (s.queue q).rd % size + 8 * words ≤ size →
      (s.queue q).wr < (s.queue q).rd + 8 * words → s.headPacket q = .none) ∧
    ((s.queue q).rd + 8 ≤ (s.queue q).wr → size < (s.queue q).rd % size + 8 * words → s.headPacket q = .bad 0x281 0 ∧
      (k = 1 → s.part? p.conf.num = some p → entryAction (p.entry 0x281) ≠ .forward →
        ∃ t, exec (.launch q) s = .next t ∧ StopsWith t q 0x281 ∧ (t.queue q).rd = (s.queue q).rd)) ∧
    (k = 0 → (s.queue q).rd + 8 ≤ (s.queue q).wr → h = 65536 → (s.queue q).rd % size + 8 ≤ size →
      exec (.pad q) s = .next (onQueue s q fun u => { u with rd := ((s.queue q).rd / size + 1) * size, head := .idle }))

/-- 13 R334 to R340, R360 to R364: the packets. PAD moves the read index to the ring's start, LAUNCH becomes a candidate, WAIT
waits for its condition, SIGNAL adds to a timeline, stores, adds to memory or posts, LOAD makes a pattern resident with a
reference of its queue, UNLOAD gives the reference up. A queue of another partition is refused in WAIT and SIGNAL
whatever the code (the model's reading of 13 R338 and R339, Assumption 33). -/
def Sys2Proof.Claims.PacketsHaveTheirEffects : Prop :=
  ∀ (s : State) (q : Nat) (p : Part) (k : Packet), AtPacket s q p k → q < 256 →
    let part := p.conf.num
    let a := fieldOf k 8 8
    let v := fieldOf k 16 8
    (k.kind = .pad → exec (.pad q) s = .next (onQueue s q fun u =>
      { u with rd := (u.rd / 2 ^ (u.ctl.extractLsb' 8 5).toNat + 1) * 2 ^ (u.ctl.extractLsb' 8 5).toNat, head := .idle })) ∧
    (k.kind = .launch → s.launchRefused p q k = none →
      exec (.launch q) s = .next (onQueue s q fun u => { u with head := .launch, pkt := k.bytes, fwdFor := none })) ∧
    (k.kind = .wait → NotForeign s p k → (headerBits k 35 32 ≠ 0 ∨ p.conf.queues.contains (headerBits k 47 40) = true) →
      exec (.wait q) s = .next (onQueue s q fun u => { u with head := .wait, pkt := k.bytes })) ∧
    (k.kind = .wait → ¬NotForeign s p k → s.part? part = some p → entryAction (p.entry 0x280) ≠ .forward →
      ∃ t, exec (.wait q) s = .next t ∧ StopsWith t q 0x280 ∧ (t.queue q).rd = (s.queue q).rd) ∧
    (k.kind = .signal → ActionIs s q p k 0 → NotForeign s p k → p.conf.queues.contains (headerBits k 47 40) = true →
      exec (.signalTimeline q) s = .next (packetDone
        (onQueue s (headerBits k 47 40) fun u => { u with tl := u.tl + BitVec.ofNat 64 v }) q 32)) ∧
    (∀ s1, k.kind = .signal → ActionIs s q p k 1 → NotForeign s p k → s.quiet = [] → s.writeV part a ((numberBytes 8 v).map fun b => (b, false)) = (s1, none) →
      exec (.signalStore q) s = .next (packetDone s1 q 32)) ∧
    (∀ s1 bs, k.kind = .signal → ActionIs s q p k 2 → NotForeign s p k → s.quiet = [] → s.readV part a 8 = .ok bs →
      s.writeV part a ((numberBytes 8 ((numberOf bs + v) % 2 ^ 64)).map fun b => (b, false)) = (s1, none) →
      exec (.signalAdd q) s = .next (packetDone s1 q 32)) ∧
    (∀ s1 bs, k.kind = .signal → ActionIs s q p k 3 → NotForeign s p k → s.quiet = [] → s.readV part a 32 = .ok bs →
      s.writeV part a ((postBytes (bs.map (·.1)) ⟨v % 2 ^ 32, 0, none, none⟩).map fun b => (b, false)) = (s1, none) →
      exec (.signalPost q) s = .next (packetDone s1 q 32)) ∧
    (∀ hd o x, k.kind = .load → s.readV part v 128 = .ok hd → headerOk (hd.map (·.1)) = true →
      s.readV part v (objSize (hd.map (·.1))) = .ok o → (∀ b ∈ o, b.2 = false) →
      readObject (fieldOf k 8 2) v (o.map (·.1)) = .ok x → p.pats.find? (fun y => y.num = fieldOf k 8 2) = none →
      (p.pats.map fun y => 4 * y.code.length).sum + 4 * x.code.length ≤ 196608 → s.part? part = some p →
      ∃ t p', exec (.load q) s = .next t ∧ t.part? part = some p' ∧ p'.pats = p.pats ++ [{ x with refs := [q] }] ∧
        (t.queue q).rd = (s.queue q).rd + 32) ∧
    (∀ x, k.kind = .unload → p.pats.find? (fun y => y.num = fieldOf k 8 2) = some x → q ∈ x.refs → s.part? part = some p →
      ∃ t p', exec (.unload q) s = .next t ∧ t.part? part = some p' ∧ (t.queue q).rd = (s.queue q).rd + 16 ∧
        (∀ y ∈ p.pats, y.num ≠ fieldOf k 8 2 → y ∈ p'.pats) ∧
        ∀ y ∈ p'.pats, y.num = fieldOf k 8 2 → ∃ z ∈ p.pats, z.num = y.num ∧ y.refs = z.refs.erase q)

/-- 13 R331 to R340, R360 to R364: packets are met whole and have their effects; a foreign queue is refused (Assumption 33). -/
def Obligations.PacketsAreHandled : Prop := PacketsAreMetWhole ∧ PacketsHaveTheirEffects

/-- 13 R338, R344 to R347: a WAIT whose condition is observed true is finished; a graph is checked and its runnable nodes
are ready; an empty node releases its successors, a launch or wait node begins. -/
def Obligations.WaitsAndGraphsGoOn : Prop :=
  ∀ (s : State) (q : Nat) (p : Part), s.parts.find? (fun p => p.conf.queues.contains q) = some p → p.fenced = false →
    (s.queue q).ctl.getLsbD 1 = false → q < 256 →
    ((s.queue q).head = .wait →
      (headerBits ⟨.wait, (s.queue q).pkt⟩ 35 32 = 0 →
        fieldOf ⟨.wait, (s.queue q).pkt⟩ 16 8 ≤ (s.queue (headerBits ⟨.wait, (s.queue q).pkt⟩ 47 40)).tl.toNat →
        exec (.waitSatisfied q none) s = .next (packetDone s q 32)) ∧
      (s.condition p ⟨.wait, (s.queue q).pkt⟩ = .ok true → exec (.waitSatisfied q none) s = .next (packetDone s q 32))) ∧
    (∀ k r, AtPacket s q p k → k.kind = .graph → (s.queue q).graph = none → s.readGraph p k = .ok r →
      exec (.graph q) s = .next ((onQueue s q fun u =>
        { u with head := .graph, graph := some r, pkt := k.bytes }).settleGraph p.conf.num q)) ∧
    (∀ r i n, (s.queue q).head = .graph → (s.queue q).graph = some r → r.nodes[i]? = some n →
      (n.st = .runnable → n.kind = 0 → exec (.graphNodeRun q i) s =
        .next ((withNodes s q r (finishNode r.nodes i n.succ)).settleGraph p.conf.num q)) ∧
      (∀ k, n.st = .runnable → n.kind = 1 → s.nodePacket p n .launch = .ok k → s.launchRefused p q k = none →
        exec (.graphNodeRun q i) s = .next ((withNodes s q r
          (r.nodes.modify i fun n => { n with st := .running, pkt := k.bytes })).settleGraph p.conf.num q)) ∧
      (∀ k, n.st = .runnable → n.kind = 2 → s.nodePacket p n .wait = .ok k → NotForeign s p k →
        (headerBits k 35 32 ≠ 0 ∨ p.conf.queues.contains (headerBits k 47 40) = true) →
        exec (.graphNodeRun q i) s = .next ((withNodes s q r
          (r.nodes.modify i fun n => { n with st := .running, pkt := k.bytes })).settleGraph p.conf.num q)) ∧
      (n.st = .running → n.kind = 2 → s.condition p ⟨.wait, n.pkt⟩ = .ok true → exec (.waitSatisfied q (some i)) s =
        .next ((withNodes s q r (finishNode r.nodes i n.succ)).settleGraph p.conf.num q)))

/-- 14 R376; 17 R405; 18 R408; 20 R460, R462: register writes reach the registers their offsets name and store their fields;
other offsets are ignored; clearing Overflow, a counter or status bits changes nothing else. -/
def Sys2Proof.Claims.RegistersAreWritten : Prop :=
  ∀ (s : State) (v : Word),
    (∀ n p, s.dev.stage = .up → s.part? n = some p →
      exec (.registerWrite (n + 1) 0 0x4010 v) s = .next (s.setPart { p with ptroot := v &&& 0x01FF_FFFF_FFFF_F001 }) ∧
      (∀ off, off < 0x1000 → off % 4 = 0 → ∃ t p', exec (.registerWrite (n + 1) 2 off v) s = .next t ∧ t.part? n = some p' ∧
        p'.entry (off / 4) = v.extractLsb' 0 32 &&& 0x0001_FF3F ∧ ∀ c, c ≠ off / 4 → p'.entry c = p.entry c) ∧
      exec (.registerWrite (n + 1) 2 0x1088 v) s = .next (s.setPart { p with err := { p.err with umask := v } }) ∧
      exec (.errorOverflowClear (n + 1)) s = .next (s.setPart { p with err := { p.err with ctl := p.err.ctl &&& ~~~2#64 } }) ∧
      exec (.errorCounterClear (n + 1) .hbm) s = .next (s.setPart { p with err := { p.err with hbm := 0 } }) ∧
      exec (.aerStatusClear (n + 1) true v) s = .next (s.setPart { p with err := { p.err with cstat := p.err.cstat &&& ~~~v } })) ∧
    (∀ n p off, s.dev.stage = .up → s.part? n = some p → 0x4000 ≤ off → off < 0x8000 →
      off ∉ [0x4008, 0x4010, 0x4018, 0x4020, 0x4028, 0x4030] → exec (.registerWrite (n + 1) 0 off v) s = .next s) ∧
    (∀ off, off ∉ [0, 0xF8, 0x100] → exec (.registerWrite 0 0 off v) s = .next s) ∧
    (∀ off, off < 0x1000 → exec (.registerWrite 0 2 off v) s = .next s) ∧
    (∀ n bar off, s.part? n = none → exec (.registerWrite (n + 1) bar off v) s = .next s) ∧
    (s.dev.stage ≠ .reset →
      exec (.registerWrite 0 0 0 v) s =
        .next { s with dev := { s.dev with clkCap := BitVec.ofNat 5 (min 18 (v.extractLsb' 0 5).toNat) } }) ∧
    exec (.errorOverflowClear 0) s = .next { s with dev := { s.dev with err := { s.dev.err with ctl := s.dev.err.ctl &&& ~~~2#64 } } } ∧
    exec (.errorCounterClear 0 .chip) s = .next { s with dev := { s.dev with err := { s.dev.err with chip := 0 } } } ∧
    exec (.errorCounterClear 0 .link) s = .next { s with dev := { s.dev with err := { s.dev.err with link := 0 } } } ∧
    exec (.aerStatusClear 0 false v) s =
      .next { s with dev := { s.dev with err := { s.dev.err with ustat := s.dev.err.ustat &&& ~~~v } } }

/-- 13 R330 to R333; 14 R376; 17 R405; 18 R408; 20 R460, R462: the registers of the functions and of their queues. -/
def Obligations.RegisterWritesStoreTheirFields : Prop := QueueRegistersAreWritten ∧ RegistersAreWritten
namespace Sys2Proof.Claims

open Sys2Proof.Machine

/-! ### The region manager (13 R348 to R359; 14 R371 to R373; 18 R424 to R427; 20 R455, R456) -/

/-- The candidates of a partition's highest level. -/
def topCands (s : State) (p : Part) : List Cand := (s.cands p).filter fun c => c.level = topLevel (s.cands p)

/-- They are offered placement in this order, after the shares of 13 R350 are given. -/
def offerOrder (s : State) (p : Part) : List Cand :=
  (s.refill (candQueues (topCands s p))).offers p.conf.num (topLevel (s.cands p)) (topCands s p)

/-- It is this candidate's turn, and it may stand at these places (13 R348, R349, R351). -/
structure Turn (s : State) (p : Part) (mine : Cand → Bool) (y : Cand) (pl : Place) (p2 : Option Place) : Prop where
  part : s.part? p.conf.num = some p
  order : (offerOrder s p).find? mine = some y
  before : ∀ x ∈ (offerOrder s p).takeWhile (fun x => !mine x), (s.refill (candQueues (topCands s p))).fitsNow p x = false
  opened : p.fenced = false
  legal : (s.refill (candQueues (topCands s p))).legalPlace p y pl p2 = true
  only : ∀ x ∈ s.parts, x ≠ p → ∀ c ∈ s.cands x, mine c = false

/-- A launch's first sc: stream A of every tile at offset 0 with its registers zero, stream B idle, the mailboxes and the
argument block as the packet gives them (03 R71, R76; 13 R337). -/
structure Starts (g : Region) : Prop where
  running : g.status = .running
  zero : g.sc = 0 ∧ g.stitch = 0 ∧ g.recId = 0 ∧ g.flights = [] ∧ g.items = [] ∧ g.cmds = []
  streams : ∀ t < g.pat.w * g.pat.h, (g.tile t).a.running = true ∧ (g.tile t).b.running = false ∧ (g.tile t).a.pc = 0 ∧
    (g.tile t).a.bank = {} ∧ (g.tile t).b.bank = {}
  mail : ∀ t < g.pat.w * g.pat.h, (g.tile t).mb = g.launch.mail
  args : ∀ t < g.pat.w * g.pat.h, ∀ a, (g.tile t).sp.byte a = (g.launch.args[a]?).getD 0

/-- The other instance of a dual run (13 R357). -/
def OtherInstance (s : State) (g : Region) (o : Role) (h : Region) : Prop :=
  s.regions.find? (fun x => sameLaunch x g && x.role = o) = some h

/-- Nothing that another region saved is still on tiles, and no byte of HBM4 is poisoned. -/
structure Undamaged (s : State) (r : Nat) (v : Saved) : Prop where
  alone : ∀ g ∈ s.regions, g.rid ≠ r → g.saved = none
  out : v.held = [] ∧ v.lostTiles = []
  clean : ∀ a, (s.hbm.pbyte hbmGran a).2 = false

/-- The eight bytes that hold a live general register of stream A in a save: after the stream block of 64 bytes, one word
for each live register of a lower number (03 R92; the places are the model's, Assumption 15). -/
def savedWord (s : State) (p : Part) (g : Region) (v : Saved) (u : Nat) (live : BitVec 64) (i : Nat) : Word :=
  BitVec.ofNat 64 (numberOf (readLocal s.hbm p.groups
    (v.pos + g.bodyAt u + 64 + 8 * ((List.range i).filter live.getLsbD).length) 8))

end Sys2Proof.Claims

open Sys2Proof Sys2Proof.Machine Sys2Proof.Claims

/-- 02 R31; 03 R71, R74, R76, R92; 13 R337, R348, R349, R354, R356; 18 R417, R426: the candidate whose turn it is starts at sc 0 of
its launch, with the queue's ordinal, or resumes at its checkpoint with the registers its record keeps, read from its save;
a parked region that is asked to leave is saved whole inside the save area; a cleared bank leaves the engine. -/
def Sys2Proof.Claims.RegionsArePlacedAndResumed : Prop :=
  ∀ (s : State) (p : Part) (y : Cand) (pl : Place) (p2 : Option Place),
    (∀ q, Turn s p (fun x => x.ref == some (.head q)) y pl p2 → y.ref = some (.head q) → y.queue = q → q < 256 →
      (s.queue q).fwdFor = none →
      ∃ (t : State) (g : Region), exec (.launchPlacement (.head q) pl p2) s = .next t ∧ g ∈ t.regions ∧ g.rid = s.nextRid ∧
        Starts g ∧ g.pat = y.pat ∧ g.place = pl ∧ g.role = (if p2.isSome then .primary else .single) ∧
        g.launch.part = p.conf.num ∧ g.launch.queue = q ∧ g.launch.ordinal = (s.queue q).ord ∧
        g.launch.args = (y.pkt.bytes.drop 32).take 256 ∧ (t.queue q).ord = (s.queue q).ord + 1 ∧ (t.queue q).head = .running) ∧
    (∀ r g v, s.region? r = some g → g.launch.part = p.conf.num → Turn s p (fun x => x.ref.isNone && x.rid = r) y pl none →
      s.part? p.conf.num = some p → g.saved = some v → Undamaged s r v → g.stitch ≠ 0 → g.stub = false →
      ∃ (t : State) (g' : Region), exec (.resumption r pl) s = .next t ∧ t.region? r = some g' ∧ g'.status = .running ∧
        g'.place = pl ∧ g'.sc = g.ckpt.sc ∧ g'.stitch = g.stitch ∧ g'.saved = none ∧ g'.tiles.length = g.tiles.length ∧
        ∀ x, g.pat.recs.find? (fun x => x.id = g.recId) = some x → g'.stub = x.stub.isSome ∧
          ∀ u < g.tiles.length, (g.tile u).a.running = true → ∀ i : Fin 64, (g'.tile u).a.bank.g[i] =
            if x.g.getLsbD i then ⟨savedWord s p g v u x.g i, false⟩ else ⟨0, false⟩) ∧
    (∀ g c, p.fenced = false → s.part? p.conf.num = some p → s.regions = [g] → g.launch.part = p.conf.num → g.status = .parked c →
      g.cmds = [] → g.awaits = [] → g.saved = none → g.mailPend = [] →
      (p.conf.saveVa + 63) / 64 * 64 + 64 + g.saveBytes ≤ p.conf.saveVa + p.conf.saveSize →
      ∃ (t : State) (g' : Region) (v : Saved), exec (.preemptAll p.conf.num) s = .next t ∧ t.region? g.rid = some g' ∧
        g'.status = .saved ∧ g'.saved = some v ∧ g'.park = some c ∧ v.pos % 64 = 0 ∧ p.conf.saveVa ≤ v.pos ∧
        v.pos + 64 + g.saveBytes ≤ p.conf.saveVa + p.conf.saveSize) ∧
    (∀ a b j, s.jobs.find? (fun j => j.x = a && j.y = b) = some j →
      exec (.bankClearDone a b) s = .next { s with jobs := s.jobs.erase j })

/-- 14 R371 to R373: an idle margin quad is lent to a neighbour that needs it; a reclaimed quad that no region holds
returns at once, and a region that runs on it is asked to leave. -/
def Sys2Proof.Claims.MarginQuadsAreLentAndReturn : Prop :=
  ∀ (s : State) (q : Nat),
    (∀ n b o, s.part? n = some b → s.parts.find? (fun o => o.conf.margin.contains q) = some o → b.fenced = false →
      s.lendable b q = true → (∃ m < 576, adjacentQuads m q = true ∧
        (m ∈ b.conf.guaranteed ∨ m ∈ b.conf.margin ∨ ∃ l ∈ s.lent, l.quad = m ∧ l.borrower = b.conf.num ∧ l.back = false)) →
      (∃ c ∈ s.cands b, s.fitsNow b c = false ∧ c.admitted q (fun n => s.freeFor b n || s.lendable b n) = true) →
      ∃ t : State, exec (.quadLend q n) s = .next t ∧ t.lent = s.lent ++ [⟨q, o.conf.num, n, false⟩] ∧
        (s.dev.gate.getLsbD q = true → q ∈ t.dev.waking)) ∧
    ((∃ l ∈ s.lent, l.quad = q ∧ l.back = false) →
      ((∀ g ∈ s.regions, g.quads.contains q = false) →
        ∃ t : State, exec (.quadReclaim q) s = .next t ∧ ∀ l ∈ t.lent, l.quad ≠ q) ∧
      (∀ g, s.regions.filter (fun g => g.onTiles && g.quads.contains q) = [g] → g.status = .running →
        s.region? g.rid = some g →
        ∃ (t : State) (g' : Region), exec (.quadReclaim q) s = .next t ∧ t.region? g.rid = some g' ∧ g'.preempt = true ∧
          g'.reclaimAt = some s.dev.wall ∧ g'.status = .running))

/-- 13 R357, R358; 20 R455 to R457: a dual run whose instances end with equal signatures agrees; otherwise a third run on
other quads decides, or the launch fails with 0x386; no majority gives 0x385, a losing primary that cannot be written
again 0x388, a run again that differs 0x387; a further run with no placement left gives 0x386 whenever that comes about
(Assumption 38). -/
def Sys2Proof.Claims.DualRunsAreDecided : Prop :=
  ∀ (s : State) (r : Nat) (g : Region), s.region? r = some g → g.role = .primary →
    (∀ h, OtherInstance s g .shadow h → g.verdict = .pending → g.status = .final → h.status = .final → h.items = [] → h.cmds = [] →
      h.rid ≠ r →
      (g.signature = h.signature →
        ∃ t : State, exec (.dualRunVerdict r) s = .next t ∧ t.region? r = some { g with verdict := .agreed } ∧
          ∀ x ∈ t.regions, x.rid ≠ h.rid) ∧
      (g.signature ≠ h.signature →
        ∃ (t : State) (g' : Region), exec (.dualRunVerdict r) s = .next t ∧ t.region? r = some g' ∧
          (s.canVote g (g.quads ++ h.quads) = true → g' = { g with verdict := .third, avoid := g.quads ++ h.quads }) ∧
          (s.canVote g (g.quads ++ h.quads) = false → g' = { g with verdict := .none, failed := some 0x386 }))) ∧
    (∀ h k, g.verdict = .third → OtherInstance s g .shadow h → OtherInstance s g .third k → k.items = [] → k.cmds = [] →
      (k.status = .final ∨ ∃ c, k.status = .killed c) →
      ∃ (t : State) (g' : Region), exec (.majorityDecision r) s = .next t ∧ t.region? r = some g' ∧
        (k.status ≠ .final → g'.failed = some 0x385) ∧
        (k.status = .final → k.signature = g.signature → g'.verdict = .agreed ∧ g'.failed = g.failed) ∧
        (k.status = .final → k.signature ≠ g.signature → k.signature ≠ h.signature → g'.failed = some 0x385) ∧
        (k.status = .final → k.signature ≠ g.signature → k.signature = h.signature → g.firm = true → g'.failed = some 0x388) ∧
        (k.status = .final → k.signature ≠ g.signature → k.signature = h.signature → g.firm = false →
          (g'.verdict = .rerun ∧ g'.records = k.records) ∨ g'.failed = some 0x386)) ∧
    (g.verdict = .third → (∀ x ∈ s.regions, sameLaunch x g = true → x.role ≠ .third) → s.canVote g g.avoid = false →
      ∃ (t : State) (g' : Region), exec (.majorityDecision r) s = .next t ∧ t.region? r = some g' ∧ g'.failed = some 0x386) ∧
    (∀ k, g.verdict = .rerun → OtherInstance s g .rerun k → k.status = .final → k.items = [] → k.cmds = [] → k.rid ≠ r →
      ∃ (t : State) (g' : Region), exec (.majorityDecision r) s = .next t ∧ t.region? r = some g' ∧
        (k.signature = g.signature → g'.verdict = .agreed) ∧ (k.signature ≠ g.signature → g'.failed = some 0x387))

/-- 18 R426, R427; 19 R437; 21 R470: after its handler has posted, an interrupted launch waits to resume where the
disposition byte reads 0, goes on past its final commit, or is killed with its own cause. -/
def Sys2Proof.Claims.HandlersDispose : Prop :=
  ∀ (s : State) (r : Nat) (g : Region) (ra : Raise) (h q block : Nat), s.region? r = some g →
    g.status = .interrupted ra → g.handler = some ⟨some h, q, block⟩ →
    (s.readV g.launch.part block 1 = .ok [(0, false)] →
      (g.finalDone = false → exec (.handlerDisposition r) s =
        .next (put s { g with status := .saved, handler := none, park := none })) ∧
      (g.finalDone = true → ∃ cs, cs.map (·.id) = g.cmds.map (·.id) ∧ exec (.handlerDisposition r) s =
        .next (put s { g with status := .final, handler := none, cmds := cs }))) ∧
    ((∀ b, s.readV g.launch.part block 1 = .ok [(b, false)] → b ≠ 0) →
      ∃ (t : State) (g' : Region), exec (.handlerDisposition r) s = .next t ∧ t.region? r = some g' ∧
        g'.status = .killed ra.cause ∧ g'.handler = none)

/-- 13 R337, R348, R349, R354, R356; 14 R371 to R373: placement, saves, resumption, lent quads. -/
def Obligations.RegionsStandAndQuadsAreLent : Prop := RegionsArePlacedAndResumed ∧ MarginQuadsAreLentAndReturn

/-- 13 R357, R358; 18 R426, R427; 20 R455 to R457: the ends of dual runs and of handlers. -/
def Obligations.DualRunsAndHandlersEnd : Prop := DualRunsAreDecided ∧ HandlersDispose
namespace Sys2Proof.Claims

open Sys2Proof.Machine

/-! ### Host, peers, links (14 R374 to R379; 18 R417 to R421; 20 R439, R449 to R452, R464) -/

/-- Bytes without poison. -/
def plainBytes (bs : List Byte) : List PByte := bs.map fun b => (b, false)

/-- The bytes reach partition-local HBM4 (14 R369). -/
def hbmWritten (s : State) (p : Part) (addr : Nat) (ps : List PByte) : State :=
  { s with hbm := writeLocal (ps.length + 1) s.hbm p.groups addr ps }

/-- An outstanding record that an answer names, with its requesters (18 R418, R419). -/
structure Answers (s : State) (n idx : Nat) (gen : BitVec 32) (p : Part) (q : PageReq) : Prop where
  up : s.dev.stage = .up
  part : s.part? n = some p
  opened : p.fenced = false
  epoch : gen.extractLsb' 22 10 = p.epoch
  record : p.reqs.find? (fun q => q.idx = idx && q.gen == gen) = some q
  serves : q.withdrawn = false

/-- A load that waits at a home of this kind, with its turn come. -/
structure LoadAt (s : State) (g : Region) (id : Nat) (home : Home → Bool) (a : Await) (n : Nat) (sx : Bool) : Prop where
  waits : Waiting g id a
  kind : a.kind = .gld n sx
  turn : s.mayGo g a.tile id = true
  size : 0 < n
  page : ∃ p, a.page = some p ∧ home ⟨p.target, p.dev, p.place + (a.addr - p.base)⟩ = true

/-- The code of a fatal case (20 R464). -/
def fatalCauseOf : FatalCase → Cause
  | .dieToDie => 0x330
  | .hostLink => 0x331
  | .network => 0x332
  | .manager => 0x333
  | .management => 0x334

/-- A signed item is accepted (17 R398): both signatures verify (which is said from outside, Assumption 70), under keys of the
fused digests, and its version is not below the fused minimum. -/
def Accepted (f : Fuses) (x : Signed) : Prop :=
  x.edOk = true ∧ x.mlOk = true ∧ sha256 x.edKey = f.edDigest ∧ sha256 x.mlKey = f.mlDigest ∧ f.minVersion ≤ x.version

/-- The firmware images of the four management dies are accepted. -/
def ImagesAccepted (f : Fuses) (l : List Signed) : Prop := l.length = 4 ∧ ∀ x ∈ l, Accepted f x

/-- A turnover can start, with this partition among those it is of. -/
structure TurnsOver (s : State) (n : Nat) (p : Part) : Prop where
  up : s.dev.stage = .up
  none : s.dev.turning = none
  kept : s.lent = []
  apart : (s.parts.map (·.conf.num)).Nodup
  part : s.part? n = some p
  masked : s.dev.turn.getLsbD n = true
  free : p.barred = false

end Sys2Proof.Claims

open Sys2Proof Sys2Proof.Machine Sys2Proof.Claims

/-- 03 R69; 13 R353; 14 R376: a mailbox write is pending for the queue's placed launch and is lost where there is none;
pre-empt all asks the partition's running region. -/
def Sys2Proof.Claims.MailboxAndPreemptionRequests : Prop :=
  ∀ (s : State) (q : Nat) (p : Part), HostDriven s q p →
    (∀ (n : BitVec 4) v,
      (s.regions.filter (fun g => g.launch.queue = q) = [] → exec (.mailboxWrite q n v) s = .next s) ∧
      (∀ g, s.regions.filter (fun g => g.launch.queue = q) = [g] → g.status = .running →
        exec (.mailboxWrite q n v) s =
          .next (put s { g with mailPend := (g.mailPend.filter fun x => x.1 ≠ n) ++ [(n, v)] }))) ∧
    (s.part? p.conf.num = some p → ∀ g, s.regions.filter (fun g => g.launch.part = p.conf.num) = [g] → g.status = .running →
      s.region? g.rid = some g →
      ∃ (t : State) (p' : Part) (g' : Region), exec (.preemptAll p.conf.num) s = .next t ∧ t.part? p.conf.num = some p' ∧
        p'.ctl = p.ctl ||| 2 ∧ t.region? g.rid = some g' ∧ g' = { g with preempt := true })

/-- 18 R417 to R421: a successful answer closes its record and a region parked on it goes on; a refused one raises 0x102
at its checkpoint; an answer to no record is discarded; a global replay lets everything parked retry, and its outstanding
records stay and serve nobody (Assumption 30). -/
def Sys2Proof.Claims.PageAnswersReachTheirRequesters : Prop :=
  ∀ (s : State) (n idx : Nat) (gen : BitVec 32) (p : Part),
    (∀ q r g c, Answers s n idx gen p q → p.prqWait = [] → q.askers = [.region r] → s.region? r = some g → g.status = .parked c →
      (∃ (t : State) (g' : Region) (p' : Part), exec (.pageAnswerSuccess n idx gen) s = .next t ∧ t.region? r = some g' ∧
        g'.status = .running ∧ t.part? n = some p' ∧ p'.reqs = p.reqs.filter fun x => x.idx ≠ idx) ∧
      (c.cmd = none → entryAction (p.entry 0x102) = .kill → g.role = .single → g.handler = none → g.launch.part = n →
        ∃ (t : State) (g' : Region), exec (.pageAnswerRefused n idx gen) s = .next t ∧ t.region? r = some g' ∧
          g'.status = .killed 0x102 ∧ g'.failed = some 0x102) ∧
      (c.cmd = none → entryAction (p.entry 0x102) = .park → g.preempt = false → g.launch.part = n →
        ∃ (t : State) (g' : Region), exec (.pageAnswerRefused n idx gen) s = .next t ∧ t.region? r = some g' ∧
          g'.status = .parked { c with cause := 0x102 } ∧ g'.reentry = g.reentry)) ∧
    (s.part? n = some p → p.reqs.find? (fun q => q.idx = idx && q.gen == gen) = none →
      exec (.pageAnswerSuccess n idx gen) s = .next s ∧ exec (.pageAnswerRefused n idx gen) s = .next s) ∧
    (s.dev.stage = .up → s.part? n = some p →
      ∃ (t : State) (p' : Part), exec (.globalReplay n) s = .next t ∧ t.part? n = some p' ∧ p'.prqWait = [] ∧
        (∀ q ∈ p'.reqs, q.withdrawn = true ∧ q.askers = []) ∧ p'.reqs.map (·.idx) = p.reqs.map (·.idx) ∧
        ∀ r g c, s.region? r = some g → g.status = .parked c → g.launch.part = n →
          ∃ g', t.region? r = some g' ∧ g'.status = .running)

/-- 03 R91; 12 R318; 14 R376: an invalidation takes the translations that hit out of every store, and is complete once no
region that held a handle from one still runs in that stitch, a frog serving as well as a commit (Assumption 29); the
translation generation then rises. -/
def Sys2Proof.Claims.InvalidationsComplete : Prop :=
  ∀ (s : State) (n : Nat) (p : Part), s.part? n = some p →
    (∀ v : Word, s.dev.stage = .up →
      let a := (v &&& 0x01FF_FFFF_FFFF_0000).toNat
      ∃ (t : State) (p' : Part) (i : Inval), exec (.invalidateAddress n v) s = .next t ∧ t.part? n = some p' ∧
        p' = { p with inval := v &&& 0x01FF_FFFF_FFFF_0000, invals := p.invals ++ [i] } ∧
        ∀ g ∈ t.regions, g.launch.part = n → ∀ x ∈ g.trans, ¬(x.base ≤ a ∧ a < x.base + x.size)) ∧
    (s.dev.stage = .up →
      ∃ (t : State) (p' : Part) (i : Inval), exec (.invalidateAll n) s = .next t ∧ t.part? n = some p' ∧
        p' = { p with inval := 2, invals := p.invals ++ [i] } ∧ ∀ g ∈ t.regions, g.launch.part = n → g.trans = []) ∧
    (∀ i rest, p.invals = i :: rest →
      (∀ h ∈ i.holders, ∀ g ∈ s.regions, ¬(g.rid = h.1 ∧ g.stitch = h.2 ∧ g.status = .running)) →
      exec (.invalidationComplete n) s = .next (s.setPart { p with invals := rest, transGen := p.transGen + 1 }))

/-- 14 R374, R379; 20 R449, R464: the host writes the mapped ranges of the partition's HBM4, a peer of the same tenant its
whole partition-local space, and nothing else; an access past it, of an unmapped range, or of another tenant, does nothing
(which ranges are mapped comes from outside, Assumption 44); the physical function's read of the dump (access 64,
Assumption 42) allows it to go. -/
def Obligations.HostAndPeersReachHbm : Prop :=
  ∀ (s : State) (p : Part) (addr : Nat), s.dev.stage = .up →
    (∀ bs bad, s.part? p.conf.num = some p →
      (addr + bs.length ≤ p.groups.length * 2 ^ 33 →
        (∃ m ∈ s.dev.hostMaps, m.1 = p.conf.num ∧ m.2.1 ≤ addr ∧ addr + bs.length ≤ m.2.1 + m.2.2) →
        exec (.hostMemAccess p.conf.num addr (.write bs bad)) s = .next (hbmWritten s p addr (bs.map fun b => (b, bad)))) ∧
      (bs ≠ [] → (∀ m ∈ s.dev.hostMaps, m.1 = p.conf.num → ¬(m.2.1 ≤ addr ∧ addr < m.2.1 + m.2.2)) →
        exec (.hostMemAccess p.conf.num addr (.write bs bad)) s = .next s) ∧
      (p.groups.length * 2 ^ 33 < addr + bs.length → exec (.hostMemAccess p.conf.num addr (.write bs bad)) s = .next s)) ∧
    (∀ n, exec (.hostMemAccess 64 addr (.read n)) s = .next { s with dev := { s.dev with dumpUnread := false } }) ∧
    (∀ dev tenant, s.parts.find? (fun p => p.conf.tenant = tenant) = none → ∀ op, exec (.peerRequest dev tenant addr op) s = .next s) ∧
    (∀ dev tenant, s.parts.find? (fun p => p.conf.tenant = tenant) = some p →
      (∀ n, exec (.peerRequest dev tenant addr (.read n)) s = .next s) ∧
      (∀ bs, addr + bs.length ≤ p.groups.length * 2 ^ 33 →
        exec (.peerRequest dev tenant addr (.write bs)) s = .next (hbmWritten s p addr (plainBytes bs))) ∧
      (∀ bs, p.groups.length * 2 ^ 33 < addr + bs.length → exec (.peerRequest dev tenant addr (.write bs)) s = .next s) ∧
      (∀ op dw v c, addr + wordBytes dw ≤ p.groups.length * 2 ^ 33 → s.part? p.conf.num = some p →
        let n := wordBytes dw
        let old := readLocal s.hbm p.groups addr n
        exec (.peerRequest dev tenant addr (.atom op dw v c none)) s = .next (hbmWritten s p addr
          ((numberBytes n (updated op n (BitVec.ofNat 64 (numberOf old)) v c)).map fun b => (b, old.any (·.2))))))

/-- 20 R449 to R452: a device declared unresponsive is answered for until it is readmitted; a load that a switch
answers, or that the host never completes, brings poison; a request without an answer is sent again with its tag, up to three
times (which requests lost their answer is open, Assumption 43; a request that is not due is refused, Assumption 10). -/
def Sys2Proof.Claims.LostAnswersArePoison : Prop :=
  ∀ (s : State),
    (∀ dev, ∃ t : State, exec (.peerUnresponsive dev) s = .next t ∧ dev ∈ t.quiet ∧ (∀ d ∈ s.quiet, d ∈ t.quiet) ∧ t.regions = s.regions) ∧
    (∀ dev ep, ∃ t : State, exec (.deviceReadmission dev ep) s = .next t ∧ dev ∉ t.quiet ∧
      (∀ d ∈ s.quiet, d ≠ dev → d ∈ t.quiet) ∧ t.regions = s.regions) ∧
    (∀ r id g a n sx, s.region? r = some g →
      (LoadAt s g id (fun h => h.target == .cxl || h.target == .pcie) a n sx →
        g.items.find? (fun i => i.id = id && i.released) = none → g.cmds.find? (fun c => c.id = id) = none →
        exec (.hostCompletionTimeout r ⟨id, none⟩) s =
          .next ((put s (leftOrder (told g id (.value ⟨0, true⟩)) a.tile id)).settle r)) ∧
      (∀ pt, LoadAt s g id (fun h => decide (h.target = .peer ∧ h.dev ≠ s.dev.id) && s.quiet.contains h.dev) a n sx → s.part? g.launch.part = some pt →
        (∀ pg, a.page = some pg → pg.dev ∈ pt.toldPeers) →
        exec (.synthesisedReply r id) s =
          .next ((put s (leftOrder (told g id (.value ⟨0, true⟩)) a.tile id)).settle r)) ∧
      (a ∈ g.awaits → a.id = id → a.lost = true → a.sends < 3 →
        ∃ g' : Region, exec (.pelaroRequestResend r id) s = .next ((put s g').settle r) ∧ g'.tiles = g.tiles ∧
          g'.awaits = (g.awaits.map fun a => if a.id = id then { a with lost := false, sends := a.sends + 1 } else a) ∧
          g'.items.map (·.tag) = g.items.map (·.tag)) ∧
      ((∀ x ∈ g.awaits, x.id = id → 3 ≤ x.sends) → (∀ i ∈ g.items, i.id ≠ id) → (∀ c ∈ g.cmds, c.id ≠ id) →
        exec (.pelaroRequestResend r id) s = .refused (.notDue "PELARO_REQUEST_RESEND")))

/-- 01 R13; 20 R439, R440, R448, R460, R464, R465: a port that stays down is gone, one that retrains counts a replay; the
scrub marks what it cannot correct, and faults past the last channel; a fatal case stops the device, drops its ports and
writes the dump; of cases of one instant the lowest code is recorded (the dump past byte 4,095 is laid out by the model,
Assumption 42). -/
def Sys2Proof.Claims.LinksScrubAndFatalState : Prop :=
  ∀ (s : State),
    (∀ port : BitVec 5, ∃ t : State, exec (.pelaroPortDown port false) s = .next t ∧
      t.dev.portsUp = s.dev.portsUp &&& ~~~(1#32 <<< port.toNat) ∧ t.regions.map (·.tiles) = s.regions.map (·.tiles)) ∧
    (∀ port : BitVec 5, s.dev.err.link ≠ BitVec.allOnes 32 → ∃ t : State, exec (.pelaroPortDown port true) s = .next t ∧
      t.dev.portsUp = s.dev.portsUp ∧ t.dev.err.link = s.dev.err.link + 1) ∧
    (∀ sector, 32 * sector < 2 ^ 40 → exec (.patrolScrub sector .clean) s = .next s ∧
      ∃ t : State, exec (.patrolScrub sector .uncorrectable) s = .next t ∧ t.hbm = { s.hbm with bad := natSet s.hbm.bad sector true }) ∧
    (∀ sector f, 2 ^ 40 ≤ 32 * sector → exec (.patrolScrub sector f) s = .fault (.noSuchByte (32 * sector))) ∧
    (∀ c die, (∀ x d, s.dev.stage ≠ .fatal x d) → s.hbm.wf = true →
      ∃ t : State, exec (.hostLinkDown c die) s = .next t ∧ t.dev.stage = .fatal (fatalCauseOf c) die ∧ t.dev.portsUp = 0 ∧
        t.dev.dumpUnread = true ∧ t.dev.aerFatal = true ∧ t.regions = s.regions ∧
        t.hbm.byte s.dev.dumpArea = 0x44 ∧ t.hbm.byte (s.dev.dumpArea + 1) = 0x55 ∧ t.hbm.byte (s.dev.dumpArea + 2) = 0x4D ∧
        t.hbm.byte (s.dev.dumpArea + 3) = 0x50 ∧
        (t.hbm.byte (s.dev.dumpArea + 4)).toNat + 256 * (t.hbm.byte (s.dev.dumpArea + 5)).toNat =
          fatalCauseOf c + 1024 * die.toNat ∧
        ∀ a, (a < s.dev.dumpArea ∨ s.dev.dumpArea + (s.dump (fatalCauseOf c) die).length ≤ a) → t.hbm.byte a = s.hbm.byte a) ∧
    (∀ c die old d, s.dev.stage = .fatal old d →
      ∃ t : State, exec (.hostLinkDown c die) s = .next t ∧ t.regions = s.regions ∧
        t.dev.stage = if s.dev.wall = s.dev.fatalAt ∧ fatalCauseOf c < old then .fatal (fatalCauseOf c) die else .fatal old d)

/-- 17 R397 to R405; 14 R367, R368; 20 R463: a reset brings the device as far as its firmware and record allow, with partitions
at epoch 0; a quote names the nonce and the measurements; a turnover kills its partitions' regions (with cause 0, Assumption
69), and once they have posted clears memory and raises the epoch; clock and gating (what is not due is refused, Assumption
10). -/
def Obligations.ManagementPlaneActs : Prop :=
  ∀ (s : State),
    (∀ b : BootRec, ∃ t : State, exec (.deviceReset b) s = .next t ∧ t.regions = [] ∧ t.lent = [] ∧ t.phase = .idle ∧
      (∀ q, t.queue q = {}) ∧
      (¬ImagesAccepted (s.dev.fused.getD b.fuses) b.images → t.dev.stage = .reset ∧ t.parts = []) ∧
      (ImagesAccepted (s.dev.fused.getD b.fuses) b.images → ¬Accepted (s.dev.fused.getD b.fuses) b.record →
        t.dev.stage = .management ∧ t.parts = []) ∧
      (t.dev.stage = .up → ImagesAccepted (s.dev.fused.getD b.fuses) b.images ∧ Accepted (s.dev.fused.getD b.fuses) b.record ∧
        t.dev.fwHash = sha256 (b.images.flatMap (·.bytes)) ∧ t.dev.recHash = sha256 b.record.bytes ∧
        t.parts.map (·.conf.num) = b.parts.map (·.num) ∧
        ∀ p ∈ t.parts, p.epoch = 0 ∧ p.pats = [] ∧ p.fenced = false ∧
          (∀ q ∈ b.badQuads, q ∉ p.conf.guaranteed ∧ q ∉ p.conf.margin) ∧ ∀ n ∈ b.badGroups, n ∉ p.conf.groups)) ∧
    (∀ nonce : BitVec 256, (s.dev.stage = .up ∨ s.dev.stage = .management) →
      (s.dev.turning = none → ∃ l, exec (.quoteRequest nonce) s = .next { s with dev := { s.dev with quote := l } } ∧
        l.length = 3629 ∧ l.take 4 = [0x47, 0x4E, 0x54, 0x51] ∧ (l.drop 8).take 32 = (numberBytes 32 nonce.toNat).reverse ∧
        (l.drop 40).take 32 = (numberBytes 32 s.dev.fwHash.toNat).reverse ∧
        (l.drop 72).take 32 = (numberBytes 32 s.dev.recHash.toNat).reverse) ∧
      (s.dev.turning.isSome = true →
        exec (.quoteRequest nonce) s = .next { s with dev := { s.dev with nonces := s.dev.nonces ++ [nonce] } })) ∧
    (∀ (t : TurnRec) (n : Nat) (p : Part) (f : Fuses), TurnsOver s n p → s.dev.fused = some f →
      ((∀ g ∈ s.regions, s.dev.turn.getLsbD g.launch.part = false) →
        ∃ (u : State) (p' : Part), exec (.turnoverStart t) s = .next u ∧ u.part? n = some p' ∧ p'.epoch = p.epoch + 1 ∧
          (∀ a, a / 2 ^ 33 ∈ p.groups → u.hbm.byte a = 0) ∧ u.dev.turning = none ∧
          (ImagesAccepted f t.images → p'.fenced = false) ∧ (¬ImagesAccepted f t.images → p'.fenced = true ∧ p'.barred = true)) ∧
      (∀ g, s.regions = [g] → g.launch.part = n → g.status = .running → g.role = .single → g.handler = none →
        ∃ (u : State) (p' : Part) (g' : Region), exec (.turnoverStart t) s = .next u ∧ u.part? n = some p' ∧ p'.fenced = true ∧
          p'.epoch = p.epoch ∧ u.region? g.rid = some g' ∧ g'.status = .killed 0 ∧ u.dev.turning = some ⟨some t⟩)) ∧
    (∀ t t' : TurnRec, (s.dev.stage ≠ .up ∨ s.dev.turning = some ⟨some t'⟩) → exec (.turnoverStart t) s = .next s) ∧
    (∀ v : Word, s.dev.stage ≠ .reset → exec (.clockCapWrite v) s =
      .next { s with dev := { s.dev with clkCap := if (v.setWidth 5).toNat ≤ 18 then v.setWidth 5 else 18 } }) ∧
    (∀ (n : BitVec 5) (needed : Bool), n.toNat ≤ 18 →
      n ≤ s.dev.clkCap ∨ (needed = true ∧ ∀ q < 576, s.gateable q = false) →
      exec (.clockStepChange ⟨n, needed⟩) s = .next { s with dev := { s.dev with clkStep := n } }) ∧
    (∀ n : BitVec 5, s.dev.clkCap < n → exec (.clockStepChange ⟨n, false⟩) s = .refused (.notDue "CLOCK_STEP_CHANGE")) ∧
    (∀ q, q < 576 → s.dev.gate.getLsbD q = false → (∀ g ∈ s.regions, g.quads.contains q = false ∧ g.saved = none) →
      (∀ l ∈ s.lent, l.quad ≠ q) → q ∉ s.dev.waking → (∀ p ∈ s.parts, s.cands p = []) →
      ∃ t : State, exec (.quadPowerGate q) s = .next t ∧ t.dev = { s.dev with gate := s.dev.gate ||| (1#576 <<< q) } ∧
        t.regions = s.regions ∧ ∀ g ∈ t.left, g.quads.contains q = false) ∧
    (∀ q, q ∈ s.dev.waking → exec (.quadWakeDone q) s = .next { s with dev := { s.dev with
      gate := s.dev.gate &&& ~~~(1#576 <<< q), waking := s.dev.waking.filter fun x => x ≠ q } })

/-- 03 R69, R91; 13 R353; 14 R376; 18 R417 to R421: what the host asks of a partition. -/
def Obligations.HostRequestsAreCarriedOut : Prop := MailboxAndPreemptionRequests ∧ PageAnswersReachTheirRequesters ∧ InvalidationsComplete

/-- 20 R439, R440, R448 to R452, R464, R465: what is lost, and what a failure leaves. -/
def Obligations.LostAnswersLinksAndFatalState : Prop := LostAnswersArePoison ∧ LinksScrubAndFatalState
namespace Sys2Proof.Claims

open Sys2Proof.Machine

/-! ### A bundle of one operation (07 R163 to R167) -/

/-- The bundle the issuing stream meets: `bu` stands whole in the pattern's code at the stream's program counter, and is
due. -/
structure Meets (s : State) (g : Region) (r t : Nat) (b : Bool) (pc : Nat) (bu : Bundle) : Prop where
  turn : s.phase = .issue r t b
  reg : s.region? r = some g
  due : g.issues t b = true
  here : (g.str t b).skip = false ∧ (g.str t b).pc = BitVec.ofNat 64 pc ∧ pc < 2 ^ 64
  inside : pc % 4 = 0 ∧ pc < 4 * g.pat.code.length
  sound : (g.tile t).codeBad = []
  decoded : decodeBundle ⟨!g.pat.split, g.pat.own, some b⟩ (g.pat.code.drop (pc / 4)) = .ok bu

/-- The sticky slots a first issue halts are inactive (07 R167). -/
def halted (g : Region) (t : Nat) (b : Bool) (h : BitVec 3) : Region :=
  g.modStr t b fun x =>
    { x with
      ls := if h.getLsbD 0 then none else x.ls
      va := if h.getLsbD 1 then none else x.va
      mx := if h.getLsbD 2 then none else x.mx }

/-- The state in which the operation in `slot` runs: its issue is under way. -/
def running (s : State) (r t : Nat) (b : Bool) (pc slot : Nat) (bu : Bundle) : State :=
  { s with
    cur := some { r := r, t := t, b := b, slot := slot, again := none, offset := BitVec.ofNat 64 pc, len := 4 * bu.len
                  present := BitVec.ofNat 7 (2 ^ slot), held := false } }

/-- The stream is held by the operation (02 R40). -/
def isHeld (s : State) : Bool := (s.cur.map (·.held)).getD false

/-- The issue has raised nothing and frozen nothing. -/
def Undisturbed (g : Region) (t : State) (r : Nat) : Prop :=
  ∃ g', t.region? r = some g' ∧ g'.raised.length = g.raised.length ∧ g'.frozen = .no

/-- The stream of the region goes on. -/
def goingOn (s : State) (r t : Nat) (b : Bool) (pc : Nat) (bu : Bundle) : State :=
  s.modRegion r fun g => g.modStr t b fun x => x.issued pc bu

/-- In twin mode the effects of stream A's issue join its running signature, and stream B's issue of the bundle is due 2 sc
later, with what A's issue met (02 R43, R44). -/
def tracing (s u : State) (g : Region) (t pc : Nat) (bu : Bundle) (sig : BitVec 128) : State :=
  { u.modRegion g.rid (fun x => x.modStr t false fun y => { y with sig := sig }) with
    twins := u.twins ++ [{ due := g.now + 2, tile := t, pc := pc, bu := bu, sig := sig, env := g, wall := s.dev.wall
                           fresh := s.fresh }] }

/-! ### The frame of a slot operation -/

/-- The slot of an instruction, if a bundle can hold it. -/
def slotOf (i : Instr) : Option Nat := i.enc.map (·.1)

/-- A row that stands in a bundle: a slot operation, or the bundle with none. -/
def inBundle : Instr → Bool
  | .idleBundle _ _ => true
  | i => (slotOf i).isSome

/-- Only the fields of a region that an issue can change are changed. -/
def RegionFrame (g g' : Region) : Prop :=
  g' = { g with
    tiles := g'.tiles, flights := g'.flights, awaits := g'.awaits, items := g'.items, cmds := g'.cmds
    unacq := g'.unacq, raised := g'.raised, frozen := g'.frozen, endEffs := g'.endEffs }

/-- Of the issuing tile, an issue leaves storage, sync bits, counters, mailboxes, parameters, descriptors, tables alone. -/
def TileFrame (i : Instr) (x y : Tile) : Prop :=
  y = { x with
    order := y.order, issued := y.issued, used := y.used, mxq := y.mxq, mxLast := y.mxLast, accWr := y.accWr
    bypFmt := y.bypFmt, bars := y.bars, a := y.a, b := y.b } ∧
  (slotOf i ≠ some 4 → y.mxq = x.mxq ∧ y.mxLast = x.mxLast ∧ y.accWr = x.accWr ∧ y.bypFmt = x.bypFmt) ∧
  (slotOf i ≠ some 5 → y.issued = x.issued ∧ y.used = x.used) ∧
  (slotOf i ≠ some 2 → slotOf i ≠ some 5 → y.order = x.order) ∧
  ((∀ gd b, i ≠ .barWait gd b ∧ i ≠ .barAw gd b) → y.bars = x.bars)

/-- A loop instruction. -/
def isLoop : Instr → Bool
  | .loop _ _ | .loopr _ _ => true
  | _ => false

/-- Of the issuing stream: registers land later, only loop counters and released handles change in the issue itself. -/
def StreamFrame (i : Instr) (x y : Stream) : Prop :=
  y.bank = { x.bank with lc := y.bank.lc, lcBad := y.bank.lcBad, h := y.bank.h } ∧
  (isLoop i = false → y.bank.lc = x.bank.lc ∧ y.bank.lcBad = x.bank.lcBad) ∧
  ((∀ gd h, i ≠ .hrel gd h) → y.bank.h = x.bank.h) ∧
  (isLoop i = false → (∀ gd, i ≠ .lexit gd) → y.loops = x.loops) ∧
  (slotOf i ≠ some 6 → y.pend = x.pend ∧ y.resumeAt = x.resumeAt ∧ y.waitFrom = x.waitFrom ∧ y.arrived = x.arrived) ∧
  (slotOf i ≠ some 3 → slotOf i ≠ some 4 → y.srpos = x.srpos) ∧
  ((∀ gd a, i ≠ .wrsr gd a) → y.srNext = x.srNext) ∧
  y.bankNo = x.bankNo ∧ y.running = x.running ∧ y.startAt = x.startAt ∧ y.pc = x.pc ∧ y.skip = x.skip ∧ y.done = x.done ∧ y.sig = x.sig

/-! ### The end of an sc -/

/-- The deferred effects of one tile, in their order. -/
def deferred (g : Region) (t : Nat) : List EndOp := (g.endEffs.filter fun e => e.tile = t).map (·.op)

/-- One tile defers one effect in this sc. -/
def DefersOnly (g : Region) (t : Nat) (b : Bool) (e : EndOp) : Prop :=
  (g.endEffs.filter fun x => x.tile = t) = [⟨t, b, e⟩] ∧ t < g.tiles.length

end Sys2Proof.Claims

open Sys2Proof Sys2Proof.Machine Sys2Proof.Claims

/-- 07 R163 to R167, R192; 02 R40; 19 R433: where the code at a stream's program counter decodes to a bundle of one
operation i, and no other sticky slot re-issues, the step is exec of i in that issue: a next state goes on behind the
bundle and to the next stream, and in twin mode stream B's issue of the bundle is set down (02 R43, R44; what is folded into
the running signature is the model's, Assumption 59); a cause or a freeze leaves the region as before but for it; a hold
leaves the stream at its bundle (Assumption 11 for a hold beside a cause). No operation of a bundle faults or is refused
(SlotOperationFrame). -/
def Obligations.StepRunsTheDecodedBundle : Prop :=
  ∀ (s : State) (g : Region) (r t : Nat) (b : Bool) (pc slot : Nat) (i : Instr) (bu : Bundle),
    Meets s g r t b pc bu → bu.ops = [(slot, i)] → slot < 7 → (g.str t b).done = 0 →
    (∀ k, k ≠ slot → ((halted g t b bu.halt).str t b).sticky k = none) →
    let s1 := running (s.setRegion (halted g t b bu.halt)) r t b pc slot bu
    (∀ u, exec i s1 = .next u → isHeld u = false → Undisturbed g u r →
      (g.pat.split = true → step s = .next ((goingOn { u with cur := none } r t b pc bu).afterIssue r t b)) ∧
      (g.pat.split = false → ∃ sig,
        step s = .next ((tracing s (goingOn { u with cur := none } r t b pc bu) g t pc bu sig).afterIssue r t b))) ∧
    (∀ u g', exec i s1 = .next u → isHeld u = false → u.region? r = some g' →
      (g'.raised.length ≠ g.raised.length ∨ g'.frozen ≠ .no) →
      step s = .next ((s.setRegion { g with raised := g'.raised, frozen := g'.frozen }).afterIssue r t b)) ∧
    (∀ u v, exec i s1 = .next u → isHeld u = true → exec i (running s r t b pc slot bu) = .next v → isHeld v = true →
      step s = .next (State.afterIssue { v with cur := none } r t b))

/-- 07 R166, R180; 08 R209, R211, R213: after an issue a bundle with repeats left issues again; else the stream goes on in
code order, or back to its innermost loop's body with the counter one less, or, where that counter is 0, as if that level
had not been open, or to the target of the transfer whose delay bundles have issued. -/
def Obligations.NextBundleOfAStream : Prop :=
  ∀ (x : Stream) (pc : Nat) (bu : Bundle),
    (x.done < bu.r.toNat → (x.issued pc bu).pc = BitVec.ofNat 64 pc ∧ (x.issued pc bu).done = x.done + 1 ∧
      (x.issued pc bu).bank = x.bank ∧ (x.issued pc bu).loops = x.loops ∧ (x.issued pc bu).pend = x.pend) ∧
    (bu.r.toNat ≤ x.done →
      (x.pend = [] → (x.issued pc bu).skip = false ∧ (x.issued pc bu).pend = [] ∧ (x.issued pc bu).done = 0) ∧
      (x.pend = [] → x.loops.depth = 0 → (x.issued pc bu).pc = BitVec.ofNat 64 (pc + 4 * bu.len) ∧
        (x.issued pc bu).bank = x.bank ∧ (x.issued pc bu).loops = x.loops) ∧
      (∀ l (h : l < 4), x.loops.depth = l + 1 →
        (((x.loops.ends[l]'h).toNat ≠ pc → (x.issued pc bu).bank = x.bank ∧ (x.issued pc bu).loops = x.loops ∧
            (x.pend = [] → (x.issued pc bu).pc = BitVec.ofNat 64 (pc + 4 * bu.len))) ∧
          ((x.loops.ends[l]'h).toNat = pc → x.bank.lc[l]'h ≠ 0 →
            (x.issued pc bu).bank = { x.bank with lc := x.bank.lc.set l (x.bank.lc[l]'h - 1) h } ∧
            (x.issued pc bu).loops = x.loops ∧ (x.pend = [] → (x.issued pc bu).pc = x.loops.starts[l]'h)) ∧
          ((x.loops.ends[l]'h).toNat = pc → x.bank.lc[l]'h = 0 →
            x.issued pc bu = ({ x with loops := { x.loops with depth := l } } : Stream).issued pc bu))) ∧
      (∀ target after n rest, x.pend = ⟨1, target, after, n⟩ :: rest → (∀ p ∈ rest, 1 < p.left) →
        (x.issued pc bu).pc = target ∧ (x.issued pc bu).skip = after ∧ (x.issued pc bu).done = n ∧
        (x.issued pc bu).pend = rest.map fun p => { p with left := p.left - 1 }) ∧
      (∀ target after n, x.pend = [⟨3, target, after, n⟩] → (x.issued pc bu).pend = [⟨2, target, after, n⟩] ∧
        (x.issued pc bu).done = 0 ∧
        (x.loops.depth = 0 → (x.issued pc bu).pc = BitVec.ofNat 64 (pc + 4 * bu.len))))

/-- 07 R170, R171, R182 to R188: a few words of the table, written out from their encodings. -/
def Obligations.DecodeReadsTheEncodings : Prop :=
  decodeTableWord 32 0xB0000000 = some (.idleBundle 0 0) ∧
  decodeTableWord 64 0x0085038CB0000001 = some (.add ⟨⟨1, false⟩, false, .g 5, .g 3, .op (.imm 12)⟩) ∧
  decodeTableWord 64 0x00000000B0000040 = some (.nop ⟨0, false⟩) ∧
  decodeTableWord 64 0x38000000B0000040 = some (.exit ⟨0, false⟩) ∧
  decodeTableWord 96 0x00000007_40000000_B0400040 = some (.mark 7) ∧
  decodeTableWord 64 0x08000000B0000010 = some (.mzero ⟨⟨0, false⟩, false, 0, 0, 0, 0⟩ 0)

/-- 07 R163 to R190; 08 to 12: every well-formed instruction that a bundle can hold is read back whole from the words
the encoding tables give it: decoding them yields a bundle of exactly that length whose one row is the instruction. -/
def Obligations.DecodeEncodeRoundTrip : Prop :=
  ∀ i : Instr, i.wf = true → encode i ≠ [] →
    ∃ b, decodeBundle tableEnv (encode i) = .ok b ∧ b.single = some i ∧ b.len = (encode i).length

/-- 13 R330 gives the reset values of the queue registers; the device stands in reset with nothing placed, no partition
(17 R397) and no byte of HBM4 listed (the model's choice of what it reads as, Assumption 9; Assumption 3 for the fields that
fuses and records bring); storage is canonical. -/
def Obligations.ResetState : Prop :=
  (∀ q : Nat, ∀ h : q < 256, (State.reset.queues[q]'h).base = 0 ∧ (State.reset.queues[q]'h).ctl = 0x0000_0000_0001_0C00 ∧
    (State.reset.queues[q]'h).wr = 0 ∧ (State.reset.queues[q]'h).rd = 0 ∧ (State.reset.queues[q]'h).tl = 0 ∧
    (State.reset.queues[q]'h).cause = 0 ∧ (State.reset.queues[q]'h).ord = 0) ∧
  State.reset.dev.stage = .reset ∧ State.reset.parts = [] ∧ State.reset.regions = [] ∧ State.reset.lent = [] ∧
  (∀ a, State.reset.hbm.pbyte hbmGran a = (0, false)) ∧ StorageForm State.reset

/-- The storage outside the tiles keeps its canonical form whatever the machine does: equal contents stay equal data
(Assumption 4 for the memories of outside agents). -/
def Obligations.StorageKeepsItsForm : Prop :=
  ∀ s t : State, StorageForm s → step s = .next t → StorageForm t

/-- 02 R46, R47; 08 R214, R215; 09 R245; 11 R290; 12 R313: what an instruction put off happens at the end of the sc: a sync
bit becomes (old AND NOT clears) OR sets; EXIT stops its stream alone; FORK starts stream B two sc on, with A's k; BAR.INIT,
MSET and DESC.SET write; other tiles' streams, and storage, stay. -/
def Obligations.EndOfScAppliesItsEffects : Prop :=
  ∀ (g : Region) (t : Nat),
    g.endSc.endEffs = [] ∧
    (t < g.tiles.length → ∀ n : BitVec 4, (g.endSc.tile t).j.getLsbD n.toNat =
      (((g.tile t).j.getLsbD n.toNat && !decide (EndOp.jclr n ∈ deferred g t)) || decide (EndOp.jset n ∈ deferred g t))) ∧
    ((g.endSc.tile t).sp = (g.tile t).sp ∧ (g.endSc.tile t).tm = (g.tile t).tm ∧ (g.endSc.tile t).bs = (g.tile t).bs ∧
      (g.endSc.tile t).tl = (g.tile t).tl ∧ (g.endSc.tile t).mb = (g.tile t).mb) ∧
    (deferred g t = [] → (g.tile t).a.srNext = none → (g.tile t).b.srNext = none → g.endSc.tile t = g.tile t) ∧
    (∀ b, DefersOnly g t b .exit →
      (g.endSc.str t b).running = false ∧ (g.endSc.str t (!b)).running = (g.str t (!b)).running) ∧
    (∀ b target ks, DefersOnly g t b (.fork target ks) →
      (g.endSc.tile t).b.running = true ∧ (g.endSc.tile t).b.startAt = g.now + 2 ∧ (g.endSc.tile t).b.pc = target ∧
      (g.endSc.tile t).b.bank = { k := ks }) ∧
    (∀ b (k : BitVec 7) sc n, DefersOnly g t b (.barInit k sc n) →
      ((g.endSc.tile t).bars[k.toNat]'k.isLt).scope = some sc ∧ ((g.endSc.tile t).bars[k.toNat]'k.isLt).n = n ∧
      ((g.endSc.tile t).bars[k.toNat]'k.isLt).a = 0) ∧
    (∀ b (n : BitVec 3) v, DefersOnly g t b (.mset n v) →
      (g.endSc.tile t).mp = (g.tile t).mp.set n.toNat v n.isLt) ∧
    (∀ b (d : BitVec 4) (p : BitVec 2) v w, DefersOnly g t b (.descSet d p v w) →
      ((g.endSc.tile t).ds[d.toNat]'d.isLt)[2 * p.toNat]? = some v ∧
      ((g.endSc.tile t).ds[d.toNat]'d.isLt)[2 * p.toNat + 1]? = some w)

/-- Every row that stands in a bundle answers a next state whenever a stream of a region issues it. Its frame (02 R37; 05
R117; 07 R178): nothing outside
its region changes but the model's counter of free values and the issue's own hold; in its region only what an issue may
touch; of other tiles nothing; of its own tile and streams no byte of storage, no register but a loop counter or a
released handle, and the rest by class as the frames above say. -/
def Obligations.SlotOperationFrame : Prop :=
  ∀ (i : Instr) (s : State), inBundle i = true →
    (∀ cu g, Issuing s cu g → ∃ u, exec i s = .next u) ∧
    ∀ u, exec i s = .next u → ∃ cu g g', Issuing s cu g ∧ g'.rid = g.rid ∧
      (u = left s g' ∨ u = { left s g' with cur := some { cu with held := true } }) ∧
      RegionFrame g g' ∧ g'.tiles.length = g.tiles.length ∧ (∀ v, v ≠ cu.t → g'.tile v = g.tile v) ∧
      TileFrame i (g.tile cu.t) (g'.tile cu.t) ∧
      StreamFrame i (g.str cu.t cu.b) (g'.str cu.t cu.b) ∧ g'.str cu.t (!cu.b) = g.str cu.t (!cu.b) ∧
      (slotOf i ≠ some 2 → slotOf i ≠ some 5 → g'.items = g.items) ∧ (slotOf i ≠ some 2 → g'.awaits = g.awaits) ∧
      (slotOf i ≠ some 5 → g'.cmds = g.cmds)
end

