-- ==== Sys2Proof/Laws/Decode.lean ====
section
/-! SUPPORT. What decoding gives back of what encoding wrote: fields, operands, slot words, a bundle of one operation. -/

namespace Sys2Proof

/-! ### Codes -/

theorem fmt_ofCode_code (f : Fmt) : Fmt.ofCode f.code = some f := by cases f <;> rfl
theorem rnd_ofCode_code (r : Rnd) : Rnd.ofCode r.code = some r := by cases r <;> rfl
theorem wid_ofCode_code (z : Wid) : Wid.ofCode z.code = z := by cases z <;> rfl
theorem gwid_ofCode_code (z : GWid) : GWid.ofCode z.code = some z := by cases z <;> rfl
theorem scope_ofCode_code (s : Scope) : Scope.ofCode s.code = some s := by cases s <;> rfl
theorem flav_ofCode_code (f : Flav) : Flav.ofCode f.code = f := by cases f <;> rfl
theorem aop_ofCode_code (o : AOp) : AOp.ofCode o.code = some o := by cases o <;> rfl
theorem barScope_ofCode_code (s : BarScope) : BarScope.ofCode s.code = some s := by cases s <;> rfl
theorem sreg_ofNum_num (n : SReg) : SReg.ofNum n.num = some n := by cases n <;> rfl

/-! ### Operands and destinations -/

theorem decS_encS (s : SSrc) : decS (encS s) = .ok s := by
  cases s with
  | g n => revert n; decide
  | k n => revert n; decide
  | latch l => cases l <;> rfl
  | ident i => cases i <;> rfl
  | imm v => revert v; decide

theorem decV_encV (s : VSrc) : decV (encV s) = .ok s := by
  cases s with
  | v n => revert n; decide
  | g n => revert n; decide
  | k n => revert n; decide
  | latch l => cases l <;> rfl
  | imm v => revert v; decide

theorem decSD_encSD (d : SDst) : decSD (encSD d) = .ok d := by
  cases d with
  | g n => revert n; decide
  | k n => revert n; decide

theorem decPD_encPD (p : BitVec 4) : decPD true (encPD p) = .ok p := by revert p; decide

theorem decP_encP (s : PSrc) : decP (encP s) = .ok s := by
  obtain ⟨p, inv⟩ := s
  cases inv <;> (revert p; decide)

theorem decVD_enc (d : BitVec 5) : decVD (0#2 ++ d) = .ok d := by revert d; decide
theorem decMD_enc (d : BitVec 3) : decMD (4#4 ++ d) = .ok d := by revert d; decide
theorem decRaw3_enc (c : Cause) (x : BitVec 3) : decRaw 3 c (0#5 ++ x) = .ok x := by
  have h : ∀ x : BitVec 3, (0#5 ++ x).toNat < 2 ^ 3 ∧ (0#5 ++ x).extractLsb' 0 3 = x := by decide
  simp only [decRaw]
  rw [if_pos (h x).1, (h x).2]
theorem decRaw4_enc (c : Cause) (x : BitVec 4) : decRaw 4 c (0#4 ++ x) = .ok x := by
  have h : ∀ x : BitVec 4, (0#4 ++ x).toNat < 2 ^ 4 ∧ (0#4 ++ x).extractLsb' 0 4 = x := by decide
  simp only [decRaw]
  rw [if_pos (h x).1, (h x).2]
theorem decRaw5_enc (c : Cause) (x : BitVec 5) : decRaw 5 c (0#3 ++ x) = .ok x := by
  have h : ∀ x : BitVec 5, (0#3 ++ x).toNat < 2 ^ 5 ∧ (0#3 ++ x).extractLsb' 0 5 = x := by decide
  simp only [decRaw]
  rw [if_pos (h x).1, (h x).2]
theorem decRaw7_enc (c : Cause) (x : BitVec 7) : decRaw 7 c (0#1 ++ x) = .ok x := by
  have h : ∀ x : BitVec 7, (0#1 ++ x).toNat < 2 ^ 7 ∧ (0#1 ++ x).extractLsb' 0 7 = x := by decide
  simp only [decRaw]
  rw [if_pos (h x).1, (h x).2]

theorem decTOp_encTOp (c : Cause) (t : TOp) : decTOp c (encTOp t) = .ok t := by
  cases t with
  | blk n =>
    have h : ∀ n : BitVec 4, (0#1 ++ n).getLsbD 4 = false ∧ (0#1 ++ n).extractLsb' 0 4 = n := by decide
    simp only [encTOp, decTOp, (h n).1, (h n).2, Bool.not_false, if_true]
  | acc n =>
    have h : ∀ n : BitVec 3, (2#2 ++ n).getLsbD 4 = true ∧ (2#2 ++ n).getLsbD 3 = false ∧ (2#2 ++ n).extractLsb' 0 3 = n := by
      decide
    simp only [encTOp, decTOp, (h n).1, (h n).2.1, (h n).2.2, Bool.not_true, Bool.not_false, if_true, Bool.false_eq_true, if_false]

/-! ### Slot words -/

theorem w0_bit (f : SlotWord) (i : Nat) : f.w0.getLsbD i =
    if i < 8 then f.a.getLsbD i else if i < 15 then f.dst.getLsbD (i - 8) else if i < 16 then (BitVec.ofBool f.neg).getLsbD (i - 15)
    else if i < 20 then f.gp.getLsbD (i - 16) else if i < 26 then f.xop.getLsbD (i - 20) else f.major.getLsbD (i - 26) := by
  show @BitVec.getLsbD (6 + 6 + 4 + 1 + 7 + 8) (f.major ++ f.xop ++ f.gp ++ BitVec.ofBool f.neg ++ f.dst ++ f.a) i = _
  rw [BitVec.getLsbD_append, BitVec.getLsbD_append, BitVec.getLsbD_append, BitVec.getLsbD_append, BitVec.getLsbD_append]
  by_cases h1 : i < 8
  · rw [if_pos h1, if_pos h1]
  by_cases h2 : i < 15
  · rw [if_neg h1, if_neg h1, if_pos h2, if_pos (by omega)]
  by_cases h3 : i < 16
  · rw [if_neg h1, if_neg h1, if_neg h2, if_pos h3, if_neg (by omega), if_pos (by omega)]
    simp only [Nat.sub_sub, Nat.reduceAdd]
  by_cases h4 : i < 20
  · rw [if_neg h1, if_neg h1, if_neg h2, if_neg h3, if_pos h4, if_neg (by omega), if_neg (by omega), if_pos (by omega)]
    simp only [Nat.sub_sub, Nat.reduceAdd]
  by_cases h5 : i < 26
  · rw [if_neg h1, if_neg h1, if_neg h2, if_neg h3, if_neg h4, if_pos h5, if_neg (by omega), if_neg (by omega), if_neg (by omega),
      if_pos (by omega)]
    simp only [Nat.sub_sub, Nat.reduceAdd]
  · rw [if_neg h1, if_neg h1, if_neg h2, if_neg h3, if_neg h4, if_neg h5, if_neg (by omega), if_neg (by omega), if_neg (by omega),
      if_neg (by omega)]
    simp only [Nat.sub_sub, Nat.reduceAdd]

theorem w1_bit (f : SlotWord) (i : Nat) : f.w1.getLsbD i =
    if i < 16 then f.imm.getLsbD i else if i < 24 then f.c.getLsbD (i - 16) else f.b.getLsbD (i - 24) := by
  show @BitVec.getLsbD (8 + 8 + 16) (f.b ++ f.c ++ f.imm) i = _
  rw [BitVec.getLsbD_append, BitVec.getLsbD_append]
  by_cases h1 : i < 16
  · rw [if_pos h1, if_pos h1]
  by_cases h2 : i < 24
  · rw [if_neg h1, if_neg h1, if_pos h2, if_pos (by omega)]
  · rw [if_neg h1, if_neg h1, if_neg h2, if_neg (by omega)]
    simp only [Nat.sub_sub, Nat.reduceAdd]

/-- The two words of the long form hold every field of the slot word. -/
theorem ofLong_words {f : SlotWord} (h : f.long = true) : SlotWord.ofLong f.w0 f.w1 = f := by
  have e0 (n : Nat) (x : BitVec n) (k : Nat) (hx : ∀ i, i < n → f.w0.getLsbD (k + i) = x.getLsbD i) : f.w0.extractLsb' k n = x := by
    apply BitVec.eq_of_getLsbD_eq
    intro i hi
    rw [BitVec.getLsbD_extractLsb', hx i hi]
    simp [hi]
  have e1 (n : Nat) (x : BitVec n) (k : Nat) (hx : ∀ i, i < n → f.w1.getLsbD (k + i) = x.getLsbD i) : f.w1.extractLsb' k n = x := by
    apply BitVec.eq_of_getLsbD_eq
    intro i hi
    rw [BitVec.getLsbD_extractLsb', hx i hi]
    simp [hi]
  have hneg : f.w0.getLsbD 15 = f.neg := by
    rw [w0_bit]
    simp
  have h1 : f.w0.extractLsb' 26 6 = f.major := e0 _ _ _ fun i hi => by
    rw [w0_bit, if_neg (by omega), if_neg (by omega), if_neg (by omega), if_neg (by omega), if_neg (by omega)]; congr 1; omega
  have h2 : f.w0.extractLsb' 20 6 = f.xop := e0 _ _ _ fun i hi => by
    rw [w0_bit, if_neg (by omega), if_neg (by omega), if_neg (by omega), if_neg (by omega), if_pos (by omega)]; congr 1; omega
  have h3 : f.w0.extractLsb' 16 4 = f.gp := e0 _ _ _ fun i hi => by
    rw [w0_bit, if_neg (by omega), if_neg (by omega), if_neg (by omega), if_pos (by omega)]; congr 1; omega
  have h4 : f.w0.extractLsb' 8 7 = f.dst := e0 _ _ _ fun i hi => by
    rw [w0_bit, if_neg (by omega), if_pos (by omega)]; congr 1; omega
  have h5 : f.w0.extractLsb' 0 8 = f.a := e0 _ _ _ fun i hi => by
    rw [w0_bit, if_pos (by omega)]; congr 1; omega
  have h6 : f.w1.extractLsb' 24 8 = f.b := e1 _ _ _ fun i hi => by
    rw [w1_bit, if_neg (by omega), if_neg (by omega)]; congr 1; omega
  have h7 : f.w1.extractLsb' 16 8 = f.c := e1 _ _ _ fun i hi => by
    rw [w1_bit, if_neg (by omega), if_pos (by omega)]; congr 1; omega
  have h8 : f.w1.extractLsb' 0 16 = f.imm := e1 _ _ _ fun i hi => by
    rw [w1_bit, if_pos (by omega)]; congr 1; omega
  unfold SlotWord.ofLong
  rw [h1, h2, h3, h4, h5, h6, h7, h8, hneg, ← h]

/-! ### A bundle of one operation -/

/-- An operation that commits stands with the guard p0 (07 R173). -/
def guardFits (i : Instr) (f : SlotWord) : Bool := !i.commits || (f.gp == 0 && !f.neg)

/-- What the header of a bundle of one long slot word says. -/
structure HeaderSays (s : Nat) (e : Bool) : Prop where
  ok : chkHeader (encHeader s e) = .ok ()
  len : headerLen (encHeader s e) = if e then 4 else 3
  slots : presentSlots (encHeader s e) = [s]
  long : longSlot (encHeader s e) s = true
  exts : ((encHeader s e).extractLsb' 23 2).toNat = if e then 1 else 0
  rep : (encHeader s e).extractLsb' 10 6 = 0
  halt : (encHeader s e).extractLsb' 7 3 = 0
  mine : unowned tableEnv false (encHeader s e) = none

theorem headerSays {s : Nat} (hs : s < 7) (e : Bool) : HeaderSays s e := by
  have h : ∀ s, s < 7 → ∀ e : Bool, chkHeader (encHeader s e) = .ok () ∧ headerLen (encHeader s e) = (if e then 4 else 3) ∧
      presentSlots (encHeader s e) = [s] ∧ longSlot (encHeader s e) s = true ∧
      ((encHeader s e).extractLsb' 23 2).toNat = (if e then 1 else 0) ∧ (encHeader s e).extractLsb' 10 6 = 0 ∧
      (encHeader s e).extractLsb' 7 3 = 0 ∧ unowned tableEnv false (encHeader s e) = none := by decide
  obtain ⟨h1, h2, h3, h4, h5, h6, h7, h8⟩ := h s hs e
  exact ⟨h1, h2, h3, h4, h5, h6, h7, h8⟩

theorem chkLast_one {s : Nat} {e : Bool} {f : SlotWord} {i : Instr} (h : HeaderSays s e) (hg : guardFits i f = true) :
    chkLast tableEnv (encHeader s e) [(s, f)] [(s, i)] = .ok () := by
  have hc : i.commits = false ∨ f.gp = 0#4 ∧ f.neg = false := by
    unfold guardFits at hg
    cases hi : i.commits
    · exact .inl rfl
    · rw [hi] at hg
      simpa using hg
  have hw : tableEnv.who = some false := rfl
  have hv : lsVecBad tableEnv false [(s, i)] = false := by
    simp [lsVecBad, tableEnv, DecEnv.owns]
  simp [chkLast, hw, chkOwner, h.mine, h.rep, hv, hc, chk, atSlot, bind, Except.bind]

/-- A bundle of one long slot word decodes to the operation the word decodes to. -/
theorem decodeBundle_one {s : Nat} {f : SlotWord} {i : Instr} (hs : s < 7) (hl : f.long = true)
    (hd : decSlot false s f = .ok i) (hg : guardFits i f = true) :
    decodeBundle tableEnv [encHeader s false, f.w0, f.w1] = .ok ⟨3, 0, 0, [(s, i)]⟩ := by
  have h := headerSays hs false
  have hl' := chkLast_one h hg
  have ht : tableEnv.twin = false := rfl
  simp [decodeBundle, h.ok, h.len, h.slots, h.long, h.exts, h.rep, h.halt, readSlots, ofLong_words hl, decSlots, hd, ht, decExts, hl',
    chk, atSlot, bind, Except.bind, pure, Except.pure]

/-- The same with an extension word for it. -/
theorem decodeBundle_ext {s : Nat} {f : SlotWord} {i j : Instr} {p : BitVec 29} (hs : s < 7) (hl : f.long = true)
    (hd : decSlot false s f = .ok i) (hx : addExt i p = .ok j) (hg : guardFits j f = true) :
    decodeBundle tableEnv [encHeader s true, f.w0, f.w1, BitVec.ofNat 3 s ++ p] = .ok ⟨4, 0, 0, [(s, j)]⟩ := by
  have h := headerSays hs true
  have hl' := chkLast_one h hg
  have ht : tableEnv.twin = false := rfl
  have hb (k : Nat) : (BitVec.ofNat 3 s ++ p : Word32).getLsbD k =
      if k < 29 then p.getLsbD k else (BitVec.ofNat 3 s).getLsbD (k - 29) := by
    show @BitVec.getLsbD (3 + 29) (BitVec.ofNat 3 s ++ p) k = _
    rw [BitVec.getLsbD_append]
  have hp : (BitVec.ofNat 3 s ++ p : Word32).extractLsb' 0 29 = p := by
    apply BitVec.eq_of_getLsbD_eq
    intro k hk
    rw [BitVec.getLsbD_extractLsb', hb, Nat.zero_add, if_pos hk]
    simp [hk]
  have hn : ((BitVec.ofNat 3 s ++ p : Word32).extractLsb' 29 3).toNat = s := by
    have : (BitVec.ofNat 3 s ++ p : Word32).extractLsb' 29 3 = BitVec.ofNat 3 s := by
      apply BitVec.eq_of_getLsbD_eq
      intro k hk
      rw [BitVec.getLsbD_extractLsb', hb, if_neg (by omega), Nat.add_sub_cancel_left]
      simp [hk]
    rw [this, BitVec.toNat_ofNat]
    omega
  have h7 : s ≠ 7 := by omega
  simp [decodeBundle, h.ok, h.len, h.slots, h.long, h.exts, h.rep, h.halt, readSlots, ofLong_words hl, decSlots, hd, ht, decExts, hl',
    hp, hn, h7, hx, setOp, chk, atSlot, bind, Except.bind, pure, Except.pure]

end Sys2Proof
end

