-- ==== Sys2Proof/Laws/State.lean ====
section
/-! SUPPORT. One lemma per field per update: the fields an update leaves as they were. -/

namespace Sys2Proof.Machine

/-! ### State.setRegion -/

@[simp] theorem setRegion_dev (s : State) (g : Region) : (s.setRegion g).dev = s.dev := rfl
@[simp] theorem setRegion_parts (s : State) (g : Region) : (s.setRegion g).parts = s.parts := rfl
@[simp] theorem setRegion_queues (s : State) (g : Region) : (s.setRegion g).queues = s.queues := rfl
@[simp] theorem setRegion_served (s : State) (g : Region) : (s.setRegion g).served = s.served := rfl
@[simp] theorem setRegion_nextRid (s : State) (g : Region) : (s.setRegion g).nextRid = s.nextRid := rfl
@[simp] theorem setRegion_lent (s : State) (g : Region) : (s.setRegion g).lent = s.lent := rfl
@[simp] theorem setRegion_jobs (s : State) (g : Region) : (s.setRegion g).jobs = s.jobs := rfl
@[simp] theorem setRegion_hbm (s : State) (g : Region) : (s.setRegion g).hbm = s.hbm := rfl
@[simp] theorem setRegion_host (s : State) (g : Region) : (s.setRegion g).host = s.host := rfl
@[simp] theorem setRegion_peers (s : State) (g : Region) : (s.setRegion g).peers = s.peers := rfl
@[simp] theorem setRegion_quiet (s : State) (g : Region) : (s.setRegion g).quiet = s.quiet := rfl
@[simp] theorem setRegion_applied (s : State) (g : Region) : (s.setRegion g).applied = s.applied := rfl
@[simp] theorem setRegion_reserved (s : State) (g : Region) : (s.setRegion g).reserved = s.reserved := rfl
@[simp] theorem setRegion_phase (s : State) (g : Region) : (s.setRegion g).phase = s.phase := rfl
@[simp] theorem setRegion_cur (s : State) (g : Region) : (s.setRegion g).cur = s.cur := rfl
@[simp] theorem setRegion_twins (s : State) (g : Region) : (s.setRegion g).twins = s.twins := rfl
@[simp] theorem setRegion_left (s : State) (g : Region) : (s.setRegion g).left = s.left := rfl
@[simp] theorem setRegion_inputs (s : State) (g : Region) : (s.setRegion g).inputs = s.inputs := rfl
@[simp] theorem setRegion_strikes (s : State) (g : Region) : (s.setRegion g).strikes = s.strikes := rfl
@[simp] theorem setRegion_choices (s : State) (g : Region) : (s.setRegion g).choices = s.choices := rfl
@[simp] theorem setRegion_seq (s : State) (g : Region) : (s.setRegion g).seq = s.seq := rfl
@[simp] theorem setRegion_fresh (s : State) (g : Region) : (s.setRegion g).fresh = s.fresh := rfl

/-! ### State.modRegion -/

@[simp] theorem modRegion_dev (s : State) (r : Nat) (f : Region → Region) : (s.modRegion r f).dev = s.dev := rfl
@[simp] theorem modRegion_parts (s : State) (r : Nat) (f : Region → Region) : (s.modRegion r f).parts = s.parts := rfl
@[simp] theorem modRegion_queues (s : State) (r : Nat) (f : Region → Region) : (s.modRegion r f).queues = s.queues := rfl
@[simp] theorem modRegion_served (s : State) (r : Nat) (f : Region → Region) : (s.modRegion r f).served = s.served := rfl
@[simp] theorem modRegion_nextRid (s : State) (r : Nat) (f : Region → Region) : (s.modRegion r f).nextRid = s.nextRid := rfl
@[simp] theorem modRegion_lent (s : State) (r : Nat) (f : Region → Region) : (s.modRegion r f).lent = s.lent := rfl
@[simp] theorem modRegion_jobs (s : State) (r : Nat) (f : Region → Region) : (s.modRegion r f).jobs = s.jobs := rfl
@[simp] theorem modRegion_hbm (s : State) (r : Nat) (f : Region → Region) : (s.modRegion r f).hbm = s.hbm := rfl
@[simp] theorem modRegion_host (s : State) (r : Nat) (f : Region → Region) : (s.modRegion r f).host = s.host := rfl
@[simp] theorem modRegion_peers (s : State) (r : Nat) (f : Region → Region) : (s.modRegion r f).peers = s.peers := rfl
@[simp] theorem modRegion_quiet (s : State) (r : Nat) (f : Region → Region) : (s.modRegion r f).quiet = s.quiet := rfl
@[simp] theorem modRegion_applied (s : State) (r : Nat) (f : Region → Region) : (s.modRegion r f).applied = s.applied := rfl
@[simp] theorem modRegion_reserved (s : State) (r : Nat) (f : Region → Region) : (s.modRegion r f).reserved = s.reserved := rfl
@[simp] theorem modRegion_phase (s : State) (r : Nat) (f : Region → Region) : (s.modRegion r f).phase = s.phase := rfl
@[simp] theorem modRegion_cur (s : State) (r : Nat) (f : Region → Region) : (s.modRegion r f).cur = s.cur := rfl
@[simp] theorem modRegion_twins (s : State) (r : Nat) (f : Region → Region) : (s.modRegion r f).twins = s.twins := rfl
@[simp] theorem modRegion_left (s : State) (r : Nat) (f : Region → Region) : (s.modRegion r f).left = s.left := rfl
@[simp] theorem modRegion_inputs (s : State) (r : Nat) (f : Region → Region) : (s.modRegion r f).inputs = s.inputs := rfl
@[simp] theorem modRegion_strikes (s : State) (r : Nat) (f : Region → Region) : (s.modRegion r f).strikes = s.strikes := rfl
@[simp] theorem modRegion_choices (s : State) (r : Nat) (f : Region → Region) : (s.modRegion r f).choices = s.choices := rfl
@[simp] theorem modRegion_seq (s : State) (r : Nat) (f : Region → Region) : (s.modRegion r f).seq = s.seq := rfl
@[simp] theorem modRegion_fresh (s : State) (r : Nat) (f : Region → Region) : (s.modRegion r f).fresh = s.fresh := rfl

/-! ### State.dropRegion -/

@[simp] theorem dropRegion_dev (s : State) (r : Nat) : (s.dropRegion r).dev = s.dev := rfl
@[simp] theorem dropRegion_parts (s : State) (r : Nat) : (s.dropRegion r).parts = s.parts := rfl
@[simp] theorem dropRegion_queues (s : State) (r : Nat) : (s.dropRegion r).queues = s.queues := rfl
@[simp] theorem dropRegion_served (s : State) (r : Nat) : (s.dropRegion r).served = s.served := rfl
@[simp] theorem dropRegion_nextRid (s : State) (r : Nat) : (s.dropRegion r).nextRid = s.nextRid := rfl
@[simp] theorem dropRegion_lent (s : State) (r : Nat) : (s.dropRegion r).lent = s.lent := rfl
@[simp] theorem dropRegion_jobs (s : State) (r : Nat) : (s.dropRegion r).jobs = s.jobs := rfl
@[simp] theorem dropRegion_hbm (s : State) (r : Nat) : (s.dropRegion r).hbm = s.hbm := rfl
@[simp] theorem dropRegion_host (s : State) (r : Nat) : (s.dropRegion r).host = s.host := rfl
@[simp] theorem dropRegion_peers (s : State) (r : Nat) : (s.dropRegion r).peers = s.peers := rfl
@[simp] theorem dropRegion_quiet (s : State) (r : Nat) : (s.dropRegion r).quiet = s.quiet := rfl
@[simp] theorem dropRegion_applied (s : State) (r : Nat) : (s.dropRegion r).applied = s.applied := rfl
@[simp] theorem dropRegion_reserved (s : State) (r : Nat) : (s.dropRegion r).reserved = s.reserved := rfl
@[simp] theorem dropRegion_phase (s : State) (r : Nat) : (s.dropRegion r).phase = s.phase := rfl
@[simp] theorem dropRegion_cur (s : State) (r : Nat) : (s.dropRegion r).cur = s.cur := rfl
@[simp] theorem dropRegion_left (s : State) (r : Nat) : (s.dropRegion r).left = s.left := rfl
@[simp] theorem dropRegion_inputs (s : State) (r : Nat) : (s.dropRegion r).inputs = s.inputs := rfl
@[simp] theorem dropRegion_strikes (s : State) (r : Nat) : (s.dropRegion r).strikes = s.strikes := rfl
@[simp] theorem dropRegion_choices (s : State) (r : Nat) : (s.dropRegion r).choices = s.choices := rfl
@[simp] theorem dropRegion_seq (s : State) (r : Nat) : (s.dropRegion r).seq = s.seq := rfl
@[simp] theorem dropRegion_fresh (s : State) (r : Nat) : (s.dropRegion r).fresh = s.fresh := rfl

/-! ### State.setPart -/

@[simp] theorem setPart_dev (s : State) (p : Part) : (s.setPart p).dev = s.dev := rfl
@[simp] theorem setPart_queues (s : State) (p : Part) : (s.setPart p).queues = s.queues := rfl
@[simp] theorem setPart_served (s : State) (p : Part) : (s.setPart p).served = s.served := rfl
@[simp] theorem setPart_regions (s : State) (p : Part) : (s.setPart p).regions = s.regions := rfl
@[simp] theorem setPart_nextRid (s : State) (p : Part) : (s.setPart p).nextRid = s.nextRid := rfl
@[simp] theorem setPart_lent (s : State) (p : Part) : (s.setPart p).lent = s.lent := rfl
@[simp] theorem setPart_jobs (s : State) (p : Part) : (s.setPart p).jobs = s.jobs := rfl
@[simp] theorem setPart_hbm (s : State) (p : Part) : (s.setPart p).hbm = s.hbm := rfl
@[simp] theorem setPart_host (s : State) (p : Part) : (s.setPart p).host = s.host := rfl
@[simp] theorem setPart_peers (s : State) (p : Part) : (s.setPart p).peers = s.peers := rfl
@[simp] theorem setPart_quiet (s : State) (p : Part) : (s.setPart p).quiet = s.quiet := rfl
@[simp] theorem setPart_applied (s : State) (p : Part) : (s.setPart p).applied = s.applied := rfl
@[simp] theorem setPart_reserved (s : State) (p : Part) : (s.setPart p).reserved = s.reserved := rfl
@[simp] theorem setPart_phase (s : State) (p : Part) : (s.setPart p).phase = s.phase := rfl
@[simp] theorem setPart_cur (s : State) (p : Part) : (s.setPart p).cur = s.cur := rfl
@[simp] theorem setPart_twins (s : State) (p : Part) : (s.setPart p).twins = s.twins := rfl
@[simp] theorem setPart_left (s : State) (p : Part) : (s.setPart p).left = s.left := rfl
@[simp] theorem setPart_inputs (s : State) (p : Part) : (s.setPart p).inputs = s.inputs := rfl
@[simp] theorem setPart_strikes (s : State) (p : Part) : (s.setPart p).strikes = s.strikes := rfl
@[simp] theorem setPart_choices (s : State) (p : Part) : (s.setPart p).choices = s.choices := rfl
@[simp] theorem setPart_seq (s : State) (p : Part) : (s.setPart p).seq = s.seq := rfl
@[simp] theorem setPart_fresh (s : State) (p : Part) : (s.setPart p).fresh = s.fresh := rfl

/-! ### State.modPart -/

@[simp] theorem modPart_dev (s : State) (n : Nat) (f : Part → Part) : (s.modPart n f).dev = s.dev := rfl
@[simp] theorem modPart_queues (s : State) (n : Nat) (f : Part → Part) : (s.modPart n f).queues = s.queues := rfl
@[simp] theorem modPart_served (s : State) (n : Nat) (f : Part → Part) : (s.modPart n f).served = s.served := rfl
@[simp] theorem modPart_regions (s : State) (n : Nat) (f : Part → Part) : (s.modPart n f).regions = s.regions := rfl
@[simp] theorem modPart_nextRid (s : State) (n : Nat) (f : Part → Part) : (s.modPart n f).nextRid = s.nextRid := rfl
@[simp] theorem modPart_lent (s : State) (n : Nat) (f : Part → Part) : (s.modPart n f).lent = s.lent := rfl
@[simp] theorem modPart_jobs (s : State) (n : Nat) (f : Part → Part) : (s.modPart n f).jobs = s.jobs := rfl
@[simp] theorem modPart_hbm (s : State) (n : Nat) (f : Part → Part) : (s.modPart n f).hbm = s.hbm := rfl
@[simp] theorem modPart_host (s : State) (n : Nat) (f : Part → Part) : (s.modPart n f).host = s.host := rfl
@[simp] theorem modPart_peers (s : State) (n : Nat) (f : Part → Part) : (s.modPart n f).peers = s.peers := rfl
@[simp] theorem modPart_quiet (s : State) (n : Nat) (f : Part → Part) : (s.modPart n f).quiet = s.quiet := rfl
@[simp] theorem modPart_applied (s : State) (n : Nat) (f : Part → Part) : (s.modPart n f).applied = s.applied := rfl
@[simp] theorem modPart_reserved (s : State) (n : Nat) (f : Part → Part) : (s.modPart n f).reserved = s.reserved := rfl
@[simp] theorem modPart_phase (s : State) (n : Nat) (f : Part → Part) : (s.modPart n f).phase = s.phase := rfl
@[simp] theorem modPart_cur (s : State) (n : Nat) (f : Part → Part) : (s.modPart n f).cur = s.cur := rfl
@[simp] theorem modPart_twins (s : State) (n : Nat) (f : Part → Part) : (s.modPart n f).twins = s.twins := rfl
@[simp] theorem modPart_left (s : State) (n : Nat) (f : Part → Part) : (s.modPart n f).left = s.left := rfl
@[simp] theorem modPart_inputs (s : State) (n : Nat) (f : Part → Part) : (s.modPart n f).inputs = s.inputs := rfl
@[simp] theorem modPart_strikes (s : State) (n : Nat) (f : Part → Part) : (s.modPart n f).strikes = s.strikes := rfl
@[simp] theorem modPart_choices (s : State) (n : Nat) (f : Part → Part) : (s.modPart n f).choices = s.choices := rfl
@[simp] theorem modPart_seq (s : State) (n : Nat) (f : Part → Part) : (s.modPart n f).seq = s.seq := rfl
@[simp] theorem modPart_fresh (s : State) (n : Nat) (f : Part → Part) : (s.modPart n f).fresh = s.fresh := rfl

/-! ### State.modQueue -/

@[simp] theorem modQueue_dev (s : State) (q : Nat) (f : Queue → Queue) : (s.modQueue q f).dev = s.dev := rfl
@[simp] theorem modQueue_parts (s : State) (q : Nat) (f : Queue → Queue) : (s.modQueue q f).parts = s.parts := rfl
@[simp] theorem modQueue_served (s : State) (q : Nat) (f : Queue → Queue) : (s.modQueue q f).served = s.served := rfl
@[simp] theorem modQueue_regions (s : State) (q : Nat) (f : Queue → Queue) : (s.modQueue q f).regions = s.regions := rfl
@[simp] theorem modQueue_nextRid (s : State) (q : Nat) (f : Queue → Queue) : (s.modQueue q f).nextRid = s.nextRid := rfl
@[simp] theorem modQueue_lent (s : State) (q : Nat) (f : Queue → Queue) : (s.modQueue q f).lent = s.lent := rfl
@[simp] theorem modQueue_jobs (s : State) (q : Nat) (f : Queue → Queue) : (s.modQueue q f).jobs = s.jobs := rfl
@[simp] theorem modQueue_hbm (s : State) (q : Nat) (f : Queue → Queue) : (s.modQueue q f).hbm = s.hbm := rfl
@[simp] theorem modQueue_host (s : State) (q : Nat) (f : Queue → Queue) : (s.modQueue q f).host = s.host := rfl
@[simp] theorem modQueue_peers (s : State) (q : Nat) (f : Queue → Queue) : (s.modQueue q f).peers = s.peers := rfl
@[simp] theorem modQueue_quiet (s : State) (q : Nat) (f : Queue → Queue) : (s.modQueue q f).quiet = s.quiet := rfl
@[simp] theorem modQueue_applied (s : State) (q : Nat) (f : Queue → Queue) : (s.modQueue q f).applied = s.applied := rfl
@[simp] theorem modQueue_reserved (s : State) (q : Nat) (f : Queue → Queue) : (s.modQueue q f).reserved = s.reserved := rfl
@[simp] theorem modQueue_phase (s : State) (q : Nat) (f : Queue → Queue) : (s.modQueue q f).phase = s.phase := rfl
@[simp] theorem modQueue_cur (s : State) (q : Nat) (f : Queue → Queue) : (s.modQueue q f).cur = s.cur := rfl
@[simp] theorem modQueue_twins (s : State) (q : Nat) (f : Queue → Queue) : (s.modQueue q f).twins = s.twins := rfl
@[simp] theorem modQueue_left (s : State) (q : Nat) (f : Queue → Queue) : (s.modQueue q f).left = s.left := rfl
@[simp] theorem modQueue_inputs (s : State) (q : Nat) (f : Queue → Queue) : (s.modQueue q f).inputs = s.inputs := rfl
@[simp] theorem modQueue_strikes (s : State) (q : Nat) (f : Queue → Queue) : (s.modQueue q f).strikes = s.strikes := rfl
@[simp] theorem modQueue_choices (s : State) (q : Nat) (f : Queue → Queue) : (s.modQueue q f).choices = s.choices := rfl
@[simp] theorem modQueue_seq (s : State) (q : Nat) (f : Queue → Queue) : (s.modQueue q f).seq = s.seq := rfl
@[simp] theorem modQueue_fresh (s : State) (q : Nat) (f : Queue → Queue) : (s.modQueue q f).fresh = s.fresh := rfl

/-! ### Region.modTile -/

@[simp] theorem modTile_rid (g : Region) (t : Nat) (f : Tile → Tile) : (g.modTile t f).rid = g.rid := rfl
@[simp] theorem modTile_launch (g : Region) (t : Nat) (f : Tile → Tile) : (g.modTile t f).launch = g.launch := rfl
@[simp] theorem modTile_pat (g : Region) (t : Nat) (f : Tile → Tile) : (g.modTile t f).pat = g.pat := rfl
@[simp] theorem modTile_role (g : Region) (t : Nat) (f : Tile → Tile) : (g.modTile t f).role = g.role := rfl
@[simp] theorem modTile_place (g : Region) (t : Nat) (f : Tile → Tile) : (g.modTile t f).place = g.place := rfl
@[simp] theorem modTile_placedAt (g : Region) (t : Nat) (f : Tile → Tile) : (g.modTile t f).placedAt = g.placedAt := rfl
@[simp] theorem modTile_status (g : Region) (t : Nat) (f : Tile → Tile) : (g.modTile t f).status = g.status := rfl
@[simp] theorem modTile_sc (g : Region) (t : Nat) (f : Tile → Tile) : (g.modTile t f).sc = g.sc := rfl
@[simp] theorem modTile_gaugeN (g : Region) (t : Nat) (f : Tile → Tile) : (g.modTile t f).gaugeN = g.gaugeN := rfl
@[simp] theorem modTile_gaugeLim (g : Region) (t : Nat) (f : Tile → Tile) : (g.modTile t f).gaugeLim = g.gaugeLim := rfl
@[simp] theorem modTile_stitch (g : Region) (t : Nat) (f : Tile → Tile) : (g.modTile t f).stitch = g.stitch := rfl
@[simp] theorem modTile_reentry (g : Region) (t : Nat) (f : Tile → Tile) : (g.modTile t f).reentry = g.reentry := rfl
@[simp] theorem modTile_lastCause (g : Region) (t : Nat) (f : Tile → Tile) : (g.modTile t f).lastCause = g.lastCause := rfl
@[simp] theorem modTile_recId (g : Region) (t : Nat) (f : Tile → Tile) : (g.modTile t f).recId = g.recId := rfl
@[simp] theorem modTile_flights (g : Region) (t : Nat) (f : Tile → Tile) : (g.modTile t f).flights = g.flights := rfl
@[simp] theorem modTile_awaits (g : Region) (t : Nat) (f : Tile → Tile) : (g.modTile t f).awaits = g.awaits := rfl
@[simp] theorem modTile_items (g : Region) (t : Nat) (f : Tile → Tile) : (g.modTile t f).items = g.items := rfl
@[simp] theorem modTile_cmds (g : Region) (t : Nat) (f : Tile → Tile) : (g.modTile t f).cmds = g.cmds := rfl
@[simp] theorem modTile_unacq (g : Region) (t : Nat) (f : Tile → Tile) : (g.modTile t f).unacq = g.unacq := rfl
@[simp] theorem modTile_ckpt (g : Region) (t : Nat) (f : Tile → Tile) : (g.modTile t f).ckpt = g.ckpt := rfl
@[simp] theorem modTile_raised (g : Region) (t : Nat) (f : Tile → Tile) : (g.modTile t f).raised = g.raised := rfl
@[simp] theorem modTile_frozen (g : Region) (t : Nat) (f : Tile → Tile) : (g.modTile t f).frozen = g.frozen := rfl
@[simp] theorem modTile_committing (g : Region) (t : Nat) (f : Tile → Tile) : (g.modTile t f).committing = g.committing := rfl
@[simp] theorem modTile_finalDone (g : Region) (t : Nat) (f : Tile → Tile) : (g.modTile t f).finalDone = g.finalDone := rfl
@[simp] theorem modTile_preempt (g : Region) (t : Nat) (f : Tile → Tile) : (g.modTile t f).preempt = g.preempt := rfl
@[simp] theorem modTile_reclaimAt (g : Region) (t : Nat) (f : Tile → Tile) : (g.modTile t f).reclaimAt = g.reclaimAt := rfl
@[simp] theorem modTile_mailPend (g : Region) (t : Nat) (f : Tile → Tile) : (g.modTile t f).mailPend = g.mailPend := rfl
@[simp] theorem modTile_endEffs (g : Region) (t : Nat) (f : Tile → Tile) : (g.modTile t f).endEffs = g.endEffs := rfl
@[simp] theorem modTile_records (g : Region) (t : Nat) (f : Tile → Tile) : (g.modTile t f).records = g.records := rfl
@[simp] theorem modTile_rets (g : Region) (t : Nat) (f : Tile → Tile) : (g.modTile t f).rets = g.rets := rfl
@[simp] theorem modTile_cols (g : Region) (t : Nat) (f : Tile → Tile) : (g.modTile t f).cols = g.cols := rfl
@[simp] theorem modTile_paths (g : Region) (t : Nat) (f : Tile → Tile) : (g.modTile t f).paths = g.paths := rfl
@[simp] theorem modTile_detected (g : Region) (t : Nat) (f : Tile → Tile) : (g.modTile t f).detected = g.detected := rfl
@[simp] theorem modTile_stub (g : Region) (t : Nat) (f : Tile → Tile) : (g.modTile t f).stub = g.stub := rfl
@[simp] theorem modTile_stubSc (g : Region) (t : Nat) (f : Tile → Tile) : (g.modTile t f).stubSc = g.stubSc := rfl
@[simp] theorem modTile_handler (g : Region) (t : Nat) (f : Tile → Tile) : (g.modTile t f).handler = g.handler := rfl
@[simp] theorem modTile_saved (g : Region) (t : Nat) (f : Tile → Tile) : (g.modTile t f).saved = g.saved := rfl
@[simp] theorem modTile_failed (g : Region) (t : Nat) (f : Tile → Tile) : (g.modTile t f).failed = g.failed := rfl
@[simp] theorem modTile_seqTag (g : Region) (t : Nat) (f : Tile → Tile) : (g.modTile t f).seqTag = g.seqTag := rfl
@[simp] theorem modTile_avoid (g : Region) (t : Nat) (f : Tile → Tile) : (g.modTile t f).avoid = g.avoid := rfl
@[simp] theorem modTile_trans (g : Region) (t : Nat) (f : Tile → Tile) : (g.modTile t f).trans = g.trans := rfl
@[simp] theorem modTile_verdict (g : Region) (t : Nat) (f : Tile → Tile) : (g.modTile t f).verdict = g.verdict := rfl
@[simp] theorem modTile_firm (g : Region) (t : Nat) (f : Tile → Tile) : (g.modTile t f).firm = g.firm := rfl
@[simp] theorem modTile_park (g : Region) (t : Nat) (f : Tile → Tile) : (g.modTile t f).park = g.park := rfl

/-! ### Region.modStr -/

@[simp] theorem modStr_rid (g : Region) (t : Nat) (b : Bool) (f : Stream → Stream) : (g.modStr t b f).rid = g.rid := rfl
@[simp] theorem modStr_launch (g : Region) (t : Nat) (b : Bool) (f : Stream → Stream) : (g.modStr t b f).launch = g.launch := rfl
@[simp] theorem modStr_pat (g : Region) (t : Nat) (b : Bool) (f : Stream → Stream) : (g.modStr t b f).pat = g.pat := rfl
@[simp] theorem modStr_role (g : Region) (t : Nat) (b : Bool) (f : Stream → Stream) : (g.modStr t b f).role = g.role := rfl
@[simp] theorem modStr_place (g : Region) (t : Nat) (b : Bool) (f : Stream → Stream) : (g.modStr t b f).place = g.place := rfl
@[simp] theorem modStr_placedAt (g : Region) (t : Nat) (b : Bool) (f : Stream → Stream) : (g.modStr t b f).placedAt = g.placedAt := rfl
@[simp] theorem modStr_status (g : Region) (t : Nat) (b : Bool) (f : Stream → Stream) : (g.modStr t b f).status = g.status := rfl
@[simp] theorem modStr_sc (g : Region) (t : Nat) (b : Bool) (f : Stream → Stream) : (g.modStr t b f).sc = g.sc := rfl
@[simp] theorem modStr_gaugeN (g : Region) (t : Nat) (b : Bool) (f : Stream → Stream) : (g.modStr t b f).gaugeN = g.gaugeN := rfl
@[simp] theorem modStr_gaugeLim (g : Region) (t : Nat) (b : Bool) (f : Stream → Stream) : (g.modStr t b f).gaugeLim = g.gaugeLim := rfl
@[simp] theorem modStr_stitch (g : Region) (t : Nat) (b : Bool) (f : Stream → Stream) : (g.modStr t b f).stitch = g.stitch := rfl
@[simp] theorem modStr_reentry (g : Region) (t : Nat) (b : Bool) (f : Stream → Stream) : (g.modStr t b f).reentry = g.reentry := rfl
@[simp] theorem modStr_lastCause (g : Region) (t : Nat) (b : Bool) (f : Stream → Stream) : (g.modStr t b f).lastCause = g.lastCause := rfl
@[simp] theorem modStr_recId (g : Region) (t : Nat) (b : Bool) (f : Stream → Stream) : (g.modStr t b f).recId = g.recId := rfl
@[simp] theorem modStr_flights (g : Region) (t : Nat) (b : Bool) (f : Stream → Stream) : (g.modStr t b f).flights = g.flights := rfl
@[simp] theorem modStr_awaits (g : Region) (t : Nat) (b : Bool) (f : Stream → Stream) : (g.modStr t b f).awaits = g.awaits := rfl
@[simp] theorem modStr_items (g : Region) (t : Nat) (b : Bool) (f : Stream → Stream) : (g.modStr t b f).items = g.items := rfl
@[simp] theorem modStr_cmds (g : Region) (t : Nat) (b : Bool) (f : Stream → Stream) : (g.modStr t b f).cmds = g.cmds := rfl
@[simp] theorem modStr_unacq (g : Region) (t : Nat) (b : Bool) (f : Stream → Stream) : (g.modStr t b f).unacq = g.unacq := rfl
@[simp] theorem modStr_ckpt (g : Region) (t : Nat) (b : Bool) (f : Stream → Stream) : (g.modStr t b f).ckpt = g.ckpt := rfl
@[simp] theorem modStr_raised (g : Region) (t : Nat) (b : Bool) (f : Stream → Stream) : (g.modStr t b f).raised = g.raised := rfl
@[simp] theorem modStr_frozen (g : Region) (t : Nat) (b : Bool) (f : Stream → Stream) : (g.modStr t b f).frozen = g.frozen := rfl
@[simp] theorem modStr_committing (g : Region) (t : Nat) (b : Bool) (f : Stream → Stream) : (g.modStr t b f).committing = g.committing := rfl
@[simp] theorem modStr_finalDone (g : Region) (t : Nat) (b : Bool) (f : Stream → Stream) : (g.modStr t b f).finalDone = g.finalDone := rfl
@[simp] theorem modStr_preempt (g : Region) (t : Nat) (b : Bool) (f : Stream → Stream) : (g.modStr t b f).preempt = g.preempt := rfl
@[simp] theorem modStr_reclaimAt (g : Region) (t : Nat) (b : Bool) (f : Stream → Stream) : (g.modStr t b f).reclaimAt = g.reclaimAt := rfl
@[simp] theorem modStr_mailPend (g : Region) (t : Nat) (b : Bool) (f : Stream → Stream) : (g.modStr t b f).mailPend = g.mailPend := rfl
@[simp] theorem modStr_endEffs (g : Region) (t : Nat) (b : Bool) (f : Stream → Stream) : (g.modStr t b f).endEffs = g.endEffs := rfl
@[simp] theorem modStr_records (g : Region) (t : Nat) (b : Bool) (f : Stream → Stream) : (g.modStr t b f).records = g.records := rfl
@[simp] theorem modStr_rets (g : Region) (t : Nat) (b : Bool) (f : Stream → Stream) : (g.modStr t b f).rets = g.rets := rfl
@[simp] theorem modStr_cols (g : Region) (t : Nat) (b : Bool) (f : Stream → Stream) : (g.modStr t b f).cols = g.cols := rfl
@[simp] theorem modStr_paths (g : Region) (t : Nat) (b : Bool) (f : Stream → Stream) : (g.modStr t b f).paths = g.paths := rfl
@[simp] theorem modStr_detected (g : Region) (t : Nat) (b : Bool) (f : Stream → Stream) : (g.modStr t b f).detected = g.detected := rfl
@[simp] theorem modStr_stub (g : Region) (t : Nat) (b : Bool) (f : Stream → Stream) : (g.modStr t b f).stub = g.stub := rfl
@[simp] theorem modStr_stubSc (g : Region) (t : Nat) (b : Bool) (f : Stream → Stream) : (g.modStr t b f).stubSc = g.stubSc := rfl
@[simp] theorem modStr_handler (g : Region) (t : Nat) (b : Bool) (f : Stream → Stream) : (g.modStr t b f).handler = g.handler := rfl
@[simp] theorem modStr_saved (g : Region) (t : Nat) (b : Bool) (f : Stream → Stream) : (g.modStr t b f).saved = g.saved := rfl
@[simp] theorem modStr_failed (g : Region) (t : Nat) (b : Bool) (f : Stream → Stream) : (g.modStr t b f).failed = g.failed := rfl
@[simp] theorem modStr_seqTag (g : Region) (t : Nat) (b : Bool) (f : Stream → Stream) : (g.modStr t b f).seqTag = g.seqTag := rfl
@[simp] theorem modStr_avoid (g : Region) (t : Nat) (b : Bool) (f : Stream → Stream) : (g.modStr t b f).avoid = g.avoid := rfl
@[simp] theorem modStr_trans (g : Region) (t : Nat) (b : Bool) (f : Stream → Stream) : (g.modStr t b f).trans = g.trans := rfl
@[simp] theorem modStr_verdict (g : Region) (t : Nat) (b : Bool) (f : Stream → Stream) : (g.modStr t b f).verdict = g.verdict := rfl
@[simp] theorem modStr_firm (g : Region) (t : Nat) (b : Bool) (f : Stream → Stream) : (g.modStr t b f).firm = g.firm := rfl
@[simp] theorem modStr_park (g : Region) (t : Nat) (b : Bool) (f : Stream → Stream) : (g.modStr t b f).park = g.park := rfl

/-! ### Region.raise -/

@[simp] theorem raise_rid (g : Region) (cu : Cursor) (c : Cause) (va : Nat) : (g.raise cu c va).rid = g.rid := rfl
@[simp] theorem raise_launch (g : Region) (cu : Cursor) (c : Cause) (va : Nat) : (g.raise cu c va).launch = g.launch := rfl
@[simp] theorem raise_pat (g : Region) (cu : Cursor) (c : Cause) (va : Nat) : (g.raise cu c va).pat = g.pat := rfl
@[simp] theorem raise_role (g : Region) (cu : Cursor) (c : Cause) (va : Nat) : (g.raise cu c va).role = g.role := rfl
@[simp] theorem raise_place (g : Region) (cu : Cursor) (c : Cause) (va : Nat) : (g.raise cu c va).place = g.place := rfl
@[simp] theorem raise_placedAt (g : Region) (cu : Cursor) (c : Cause) (va : Nat) : (g.raise cu c va).placedAt = g.placedAt := rfl
@[simp] theorem raise_status (g : Region) (cu : Cursor) (c : Cause) (va : Nat) : (g.raise cu c va).status = g.status := rfl
@[simp] theorem raise_sc (g : Region) (cu : Cursor) (c : Cause) (va : Nat) : (g.raise cu c va).sc = g.sc := rfl
@[simp] theorem raise_gaugeN (g : Region) (cu : Cursor) (c : Cause) (va : Nat) : (g.raise cu c va).gaugeN = g.gaugeN := rfl
@[simp] theorem raise_gaugeLim (g : Region) (cu : Cursor) (c : Cause) (va : Nat) : (g.raise cu c va).gaugeLim = g.gaugeLim := rfl
@[simp] theorem raise_stitch (g : Region) (cu : Cursor) (c : Cause) (va : Nat) : (g.raise cu c va).stitch = g.stitch := rfl
@[simp] theorem raise_reentry (g : Region) (cu : Cursor) (c : Cause) (va : Nat) : (g.raise cu c va).reentry = g.reentry := rfl
@[simp] theorem raise_lastCause (g : Region) (cu : Cursor) (c : Cause) (va : Nat) : (g.raise cu c va).lastCause = g.lastCause := rfl
@[simp] theorem raise_recId (g : Region) (cu : Cursor) (c : Cause) (va : Nat) : (g.raise cu c va).recId = g.recId := rfl
@[simp] theorem raise_tiles (g : Region) (cu : Cursor) (c : Cause) (va : Nat) : (g.raise cu c va).tiles = g.tiles := rfl
@[simp] theorem raise_flights (g : Region) (cu : Cursor) (c : Cause) (va : Nat) : (g.raise cu c va).flights = g.flights := rfl
@[simp] theorem raise_awaits (g : Region) (cu : Cursor) (c : Cause) (va : Nat) : (g.raise cu c va).awaits = g.awaits := rfl
@[simp] theorem raise_items (g : Region) (cu : Cursor) (c : Cause) (va : Nat) : (g.raise cu c va).items = g.items := rfl
@[simp] theorem raise_cmds (g : Region) (cu : Cursor) (c : Cause) (va : Nat) : (g.raise cu c va).cmds = g.cmds := rfl
@[simp] theorem raise_unacq (g : Region) (cu : Cursor) (c : Cause) (va : Nat) : (g.raise cu c va).unacq = g.unacq := rfl
@[simp] theorem raise_ckpt (g : Region) (cu : Cursor) (c : Cause) (va : Nat) : (g.raise cu c va).ckpt = g.ckpt := rfl
@[simp] theorem raise_frozen (g : Region) (cu : Cursor) (c : Cause) (va : Nat) : (g.raise cu c va).frozen = g.frozen := rfl
@[simp] theorem raise_committing (g : Region) (cu : Cursor) (c : Cause) (va : Nat) : (g.raise cu c va).committing = g.committing := rfl
@[simp] theorem raise_finalDone (g : Region) (cu : Cursor) (c : Cause) (va : Nat) : (g.raise cu c va).finalDone = g.finalDone := rfl
@[simp] theorem raise_preempt (g : Region) (cu : Cursor) (c : Cause) (va : Nat) : (g.raise cu c va).preempt = g.preempt := rfl
@[simp] theorem raise_reclaimAt (g : Region) (cu : Cursor) (c : Cause) (va : Nat) : (g.raise cu c va).reclaimAt = g.reclaimAt := rfl
@[simp] theorem raise_mailPend (g : Region) (cu : Cursor) (c : Cause) (va : Nat) : (g.raise cu c va).mailPend = g.mailPend := rfl
@[simp] theorem raise_endEffs (g : Region) (cu : Cursor) (c : Cause) (va : Nat) : (g.raise cu c va).endEffs = g.endEffs := rfl
@[simp] theorem raise_records (g : Region) (cu : Cursor) (c : Cause) (va : Nat) : (g.raise cu c va).records = g.records := rfl
@[simp] theorem raise_rets (g : Region) (cu : Cursor) (c : Cause) (va : Nat) : (g.raise cu c va).rets = g.rets := rfl
@[simp] theorem raise_cols (g : Region) (cu : Cursor) (c : Cause) (va : Nat) : (g.raise cu c va).cols = g.cols := rfl
@[simp] theorem raise_paths (g : Region) (cu : Cursor) (c : Cause) (va : Nat) : (g.raise cu c va).paths = g.paths := rfl
@[simp] theorem raise_detected (g : Region) (cu : Cursor) (c : Cause) (va : Nat) : (g.raise cu c va).detected = g.detected := rfl
@[simp] theorem raise_stub (g : Region) (cu : Cursor) (c : Cause) (va : Nat) : (g.raise cu c va).stub = g.stub := rfl
@[simp] theorem raise_stubSc (g : Region) (cu : Cursor) (c : Cause) (va : Nat) : (g.raise cu c va).stubSc = g.stubSc := rfl
@[simp] theorem raise_handler (g : Region) (cu : Cursor) (c : Cause) (va : Nat) : (g.raise cu c va).handler = g.handler := rfl
@[simp] theorem raise_saved (g : Region) (cu : Cursor) (c : Cause) (va : Nat) : (g.raise cu c va).saved = g.saved := rfl
@[simp] theorem raise_failed (g : Region) (cu : Cursor) (c : Cause) (va : Nat) : (g.raise cu c va).failed = g.failed := rfl
@[simp] theorem raise_seqTag (g : Region) (cu : Cursor) (c : Cause) (va : Nat) : (g.raise cu c va).seqTag = g.seqTag := rfl
@[simp] theorem raise_avoid (g : Region) (cu : Cursor) (c : Cause) (va : Nat) : (g.raise cu c va).avoid = g.avoid := rfl
@[simp] theorem raise_trans (g : Region) (cu : Cursor) (c : Cause) (va : Nat) : (g.raise cu c va).trans = g.trans := rfl
@[simp] theorem raise_verdict (g : Region) (cu : Cursor) (c : Cause) (va : Nat) : (g.raise cu c va).verdict = g.verdict := rfl
@[simp] theorem raise_firm (g : Region) (cu : Cursor) (c : Cause) (va : Nat) : (g.raise cu c va).firm = g.firm := rfl
@[simp] theorem raise_park (g : Region) (cu : Cursor) (c : Cause) (va : Nat) : (g.raise cu c va).park = g.park := rfl

/-! ### Region.raiseEvent -/

@[simp] theorem raiseEvent_rid (g : Region) (t : Nat) (b : Bool) (c : Cause) (va : Nat) (x y : Option Nat) : (g.raiseEvent t b c va x y).rid = g.rid := rfl
@[simp] theorem raiseEvent_launch (g : Region) (t : Nat) (b : Bool) (c : Cause) (va : Nat) (x y : Option Nat) : (g.raiseEvent t b c va x y).launch = g.launch := rfl
@[simp] theorem raiseEvent_pat (g : Region) (t : Nat) (b : Bool) (c : Cause) (va : Nat) (x y : Option Nat) : (g.raiseEvent t b c va x y).pat = g.pat := rfl
@[simp] theorem raiseEvent_role (g : Region) (t : Nat) (b : Bool) (c : Cause) (va : Nat) (x y : Option Nat) : (g.raiseEvent t b c va x y).role = g.role := rfl
@[simp] theorem raiseEvent_place (g : Region) (t : Nat) (b : Bool) (c : Cause) (va : Nat) (x y : Option Nat) : (g.raiseEvent t b c va x y).place = g.place := rfl
@[simp] theorem raiseEvent_placedAt (g : Region) (t : Nat) (b : Bool) (c : Cause) (va : Nat) (x y : Option Nat) : (g.raiseEvent t b c va x y).placedAt = g.placedAt := rfl
@[simp] theorem raiseEvent_status (g : Region) (t : Nat) (b : Bool) (c : Cause) (va : Nat) (x y : Option Nat) : (g.raiseEvent t b c va x y).status = g.status := rfl
@[simp] theorem raiseEvent_sc (g : Region) (t : Nat) (b : Bool) (c : Cause) (va : Nat) (x y : Option Nat) : (g.raiseEvent t b c va x y).sc = g.sc := rfl
@[simp] theorem raiseEvent_gaugeN (g : Region) (t : Nat) (b : Bool) (c : Cause) (va : Nat) (x y : Option Nat) : (g.raiseEvent t b c va x y).gaugeN = g.gaugeN := rfl
@[simp] theorem raiseEvent_gaugeLim (g : Region) (t : Nat) (b : Bool) (c : Cause) (va : Nat) (x y : Option Nat) : (g.raiseEvent t b c va x y).gaugeLim = g.gaugeLim := rfl
@[simp] theorem raiseEvent_stitch (g : Region) (t : Nat) (b : Bool) (c : Cause) (va : Nat) (x y : Option Nat) : (g.raiseEvent t b c va x y).stitch = g.stitch := rfl
@[simp] theorem raiseEvent_reentry (g : Region) (t : Nat) (b : Bool) (c : Cause) (va : Nat) (x y : Option Nat) : (g.raiseEvent t b c va x y).reentry = g.reentry := rfl
@[simp] theorem raiseEvent_lastCause (g : Region) (t : Nat) (b : Bool) (c : Cause) (va : Nat) (x y : Option Nat) : (g.raiseEvent t b c va x y).lastCause = g.lastCause := rfl
@[simp] theorem raiseEvent_recId (g : Region) (t : Nat) (b : Bool) (c : Cause) (va : Nat) (x y : Option Nat) : (g.raiseEvent t b c va x y).recId = g.recId := rfl
@[simp] theorem raiseEvent_tiles (g : Region) (t : Nat) (b : Bool) (c : Cause) (va : Nat) (x y : Option Nat) : (g.raiseEvent t b c va x y).tiles = g.tiles := rfl
@[simp] theorem raiseEvent_flights (g : Region) (t : Nat) (b : Bool) (c : Cause) (va : Nat) (x y : Option Nat) : (g.raiseEvent t b c va x y).flights = g.flights := rfl
@[simp] theorem raiseEvent_awaits (g : Region) (t : Nat) (b : Bool) (c : Cause) (va : Nat) (x y : Option Nat) : (g.raiseEvent t b c va x y).awaits = g.awaits := rfl
@[simp] theorem raiseEvent_items (g : Region) (t : Nat) (b : Bool) (c : Cause) (va : Nat) (x y : Option Nat) : (g.raiseEvent t b c va x y).items = g.items := rfl
@[simp] theorem raiseEvent_cmds (g : Region) (t : Nat) (b : Bool) (c : Cause) (va : Nat) (x y : Option Nat) : (g.raiseEvent t b c va x y).cmds = g.cmds := rfl
@[simp] theorem raiseEvent_unacq (g : Region) (t : Nat) (b : Bool) (c : Cause) (va : Nat) (x y : Option Nat) : (g.raiseEvent t b c va x y).unacq = g.unacq := rfl
@[simp] theorem raiseEvent_ckpt (g : Region) (t : Nat) (b : Bool) (c : Cause) (va : Nat) (x y : Option Nat) : (g.raiseEvent t b c va x y).ckpt = g.ckpt := rfl
@[simp] theorem raiseEvent_frozen (g : Region) (t : Nat) (b : Bool) (c : Cause) (va : Nat) (x y : Option Nat) : (g.raiseEvent t b c va x y).frozen = g.frozen := rfl
@[simp] theorem raiseEvent_committing (g : Region) (t : Nat) (b : Bool) (c : Cause) (va : Nat) (x y : Option Nat) : (g.raiseEvent t b c va x y).committing = g.committing := rfl
@[simp] theorem raiseEvent_finalDone (g : Region) (t : Nat) (b : Bool) (c : Cause) (va : Nat) (x y : Option Nat) : (g.raiseEvent t b c va x y).finalDone = g.finalDone := rfl
@[simp] theorem raiseEvent_preempt (g : Region) (t : Nat) (b : Bool) (c : Cause) (va : Nat) (x y : Option Nat) : (g.raiseEvent t b c va x y).preempt = g.preempt := rfl
@[simp] theorem raiseEvent_reclaimAt (g : Region) (t : Nat) (b : Bool) (c : Cause) (va : Nat) (x y : Option Nat) : (g.raiseEvent t b c va x y).reclaimAt = g.reclaimAt := rfl
@[simp] theorem raiseEvent_mailPend (g : Region) (t : Nat) (b : Bool) (c : Cause) (va : Nat) (x y : Option Nat) : (g.raiseEvent t b c va x y).mailPend = g.mailPend := rfl
@[simp] theorem raiseEvent_endEffs (g : Region) (t : Nat) (b : Bool) (c : Cause) (va : Nat) (x y : Option Nat) : (g.raiseEvent t b c va x y).endEffs = g.endEffs := rfl
@[simp] theorem raiseEvent_records (g : Region) (t : Nat) (b : Bool) (c : Cause) (va : Nat) (x y : Option Nat) : (g.raiseEvent t b c va x y).records = g.records := rfl
@[simp] theorem raiseEvent_rets (g : Region) (t : Nat) (b : Bool) (c : Cause) (va : Nat) (x y : Option Nat) : (g.raiseEvent t b c va x y).rets = g.rets := rfl
@[simp] theorem raiseEvent_cols (g : Region) (t : Nat) (b : Bool) (c : Cause) (va : Nat) (x y : Option Nat) : (g.raiseEvent t b c va x y).cols = g.cols := rfl
@[simp] theorem raiseEvent_paths (g : Region) (t : Nat) (b : Bool) (c : Cause) (va : Nat) (x y : Option Nat) : (g.raiseEvent t b c va x y).paths = g.paths := rfl
@[simp] theorem raiseEvent_detected (g : Region) (t : Nat) (b : Bool) (c : Cause) (va : Nat) (x y : Option Nat) : (g.raiseEvent t b c va x y).detected = g.detected := rfl
@[simp] theorem raiseEvent_stub (g : Region) (t : Nat) (b : Bool) (c : Cause) (va : Nat) (x y : Option Nat) : (g.raiseEvent t b c va x y).stub = g.stub := rfl
@[simp] theorem raiseEvent_stubSc (g : Region) (t : Nat) (b : Bool) (c : Cause) (va : Nat) (x y : Option Nat) : (g.raiseEvent t b c va x y).stubSc = g.stubSc := rfl
@[simp] theorem raiseEvent_handler (g : Region) (t : Nat) (b : Bool) (c : Cause) (va : Nat) (x y : Option Nat) : (g.raiseEvent t b c va x y).handler = g.handler := rfl
@[simp] theorem raiseEvent_saved (g : Region) (t : Nat) (b : Bool) (c : Cause) (va : Nat) (x y : Option Nat) : (g.raiseEvent t b c va x y).saved = g.saved := rfl
@[simp] theorem raiseEvent_failed (g : Region) (t : Nat) (b : Bool) (c : Cause) (va : Nat) (x y : Option Nat) : (g.raiseEvent t b c va x y).failed = g.failed := rfl
@[simp] theorem raiseEvent_seqTag (g : Region) (t : Nat) (b : Bool) (c : Cause) (va : Nat) (x y : Option Nat) : (g.raiseEvent t b c va x y).seqTag = g.seqTag := rfl
@[simp] theorem raiseEvent_avoid (g : Region) (t : Nat) (b : Bool) (c : Cause) (va : Nat) (x y : Option Nat) : (g.raiseEvent t b c va x y).avoid = g.avoid := rfl
@[simp] theorem raiseEvent_trans (g : Region) (t : Nat) (b : Bool) (c : Cause) (va : Nat) (x y : Option Nat) : (g.raiseEvent t b c va x y).trans = g.trans := rfl
@[simp] theorem raiseEvent_verdict (g : Region) (t : Nat) (b : Bool) (c : Cause) (va : Nat) (x y : Option Nat) : (g.raiseEvent t b c va x y).verdict = g.verdict := rfl
@[simp] theorem raiseEvent_firm (g : Region) (t : Nat) (b : Bool) (c : Cause) (va : Nat) (x y : Option Nat) : (g.raiseEvent t b c va x y).firm = g.firm := rfl
@[simp] theorem raiseEvent_park (g : Region) (t : Nat) (b : Bool) (c : Cause) (va : Nat) (x y : Option Nat) : (g.raiseEvent t b c va x y).park = g.park := rfl

/-! ### Region.freeze -/

@[simp] theorem freeze_rid (g : Region) (on : Option Raise) : (g.freeze on).rid = g.rid := rfl
@[simp] theorem freeze_launch (g : Region) (on : Option Raise) : (g.freeze on).launch = g.launch := rfl
@[simp] theorem freeze_pat (g : Region) (on : Option Raise) : (g.freeze on).pat = g.pat := rfl
@[simp] theorem freeze_role (g : Region) (on : Option Raise) : (g.freeze on).role = g.role := rfl
@[simp] theorem freeze_place (g : Region) (on : Option Raise) : (g.freeze on).place = g.place := rfl
@[simp] theorem freeze_placedAt (g : Region) (on : Option Raise) : (g.freeze on).placedAt = g.placedAt := rfl
@[simp] theorem freeze_status (g : Region) (on : Option Raise) : (g.freeze on).status = g.status := rfl
@[simp] theorem freeze_sc (g : Region) (on : Option Raise) : (g.freeze on).sc = g.sc := rfl
@[simp] theorem freeze_gaugeN (g : Region) (on : Option Raise) : (g.freeze on).gaugeN = g.gaugeN := rfl
@[simp] theorem freeze_gaugeLim (g : Region) (on : Option Raise) : (g.freeze on).gaugeLim = g.gaugeLim := rfl
@[simp] theorem freeze_stitch (g : Region) (on : Option Raise) : (g.freeze on).stitch = g.stitch := rfl
@[simp] theorem freeze_reentry (g : Region) (on : Option Raise) : (g.freeze on).reentry = g.reentry := rfl
@[simp] theorem freeze_lastCause (g : Region) (on : Option Raise) : (g.freeze on).lastCause = g.lastCause := rfl
@[simp] theorem freeze_recId (g : Region) (on : Option Raise) : (g.freeze on).recId = g.recId := rfl
@[simp] theorem freeze_tiles (g : Region) (on : Option Raise) : (g.freeze on).tiles = g.tiles := rfl
@[simp] theorem freeze_flights (g : Region) (on : Option Raise) : (g.freeze on).flights = g.flights := rfl
@[simp] theorem freeze_awaits (g : Region) (on : Option Raise) : (g.freeze on).awaits = g.awaits := rfl
@[simp] theorem freeze_items (g : Region) (on : Option Raise) : (g.freeze on).items = g.items := rfl
@[simp] theorem freeze_cmds (g : Region) (on : Option Raise) : (g.freeze on).cmds = g.cmds := rfl
@[simp] theorem freeze_unacq (g : Region) (on : Option Raise) : (g.freeze on).unacq = g.unacq := rfl
@[simp] theorem freeze_ckpt (g : Region) (on : Option Raise) : (g.freeze on).ckpt = g.ckpt := rfl
@[simp] theorem freeze_raised (g : Region) (on : Option Raise) : (g.freeze on).raised = g.raised := rfl
@[simp] theorem freeze_committing (g : Region) (on : Option Raise) : (g.freeze on).committing = g.committing := rfl
@[simp] theorem freeze_finalDone (g : Region) (on : Option Raise) : (g.freeze on).finalDone = g.finalDone := rfl
@[simp] theorem freeze_preempt (g : Region) (on : Option Raise) : (g.freeze on).preempt = g.preempt := rfl
@[simp] theorem freeze_reclaimAt (g : Region) (on : Option Raise) : (g.freeze on).reclaimAt = g.reclaimAt := rfl
@[simp] theorem freeze_mailPend (g : Region) (on : Option Raise) : (g.freeze on).mailPend = g.mailPend := rfl
@[simp] theorem freeze_endEffs (g : Region) (on : Option Raise) : (g.freeze on).endEffs = g.endEffs := rfl
@[simp] theorem freeze_records (g : Region) (on : Option Raise) : (g.freeze on).records = g.records := rfl
@[simp] theorem freeze_rets (g : Region) (on : Option Raise) : (g.freeze on).rets = g.rets := rfl
@[simp] theorem freeze_cols (g : Region) (on : Option Raise) : (g.freeze on).cols = g.cols := rfl
@[simp] theorem freeze_paths (g : Region) (on : Option Raise) : (g.freeze on).paths = g.paths := rfl
@[simp] theorem freeze_detected (g : Region) (on : Option Raise) : (g.freeze on).detected = g.detected := rfl
@[simp] theorem freeze_stub (g : Region) (on : Option Raise) : (g.freeze on).stub = g.stub := rfl
@[simp] theorem freeze_stubSc (g : Region) (on : Option Raise) : (g.freeze on).stubSc = g.stubSc := rfl
@[simp] theorem freeze_handler (g : Region) (on : Option Raise) : (g.freeze on).handler = g.handler := rfl
@[simp] theorem freeze_saved (g : Region) (on : Option Raise) : (g.freeze on).saved = g.saved := rfl
@[simp] theorem freeze_failed (g : Region) (on : Option Raise) : (g.freeze on).failed = g.failed := rfl
@[simp] theorem freeze_seqTag (g : Region) (on : Option Raise) : (g.freeze on).seqTag = g.seqTag := rfl
@[simp] theorem freeze_avoid (g : Region) (on : Option Raise) : (g.freeze on).avoid = g.avoid := rfl
@[simp] theorem freeze_trans (g : Region) (on : Option Raise) : (g.freeze on).trans = g.trans := rfl
@[simp] theorem freeze_verdict (g : Region) (on : Option Raise) : (g.freeze on).verdict = g.verdict := rfl
@[simp] theorem freeze_firm (g : Region) (on : Option Raise) : (g.freeze on).firm = g.firm := rfl
@[simp] theorem freeze_park (g : Region) (on : Option Raise) : (g.freeze on).park = g.park := rfl

/-! ### Region.flyAt -/

@[simp] theorem flyAt_rid (g : Region) (cu : Cursor) (due : Nat) (w : Flight) : (g.flyAt cu due w).rid = g.rid := rfl
@[simp] theorem flyAt_launch (g : Region) (cu : Cursor) (due : Nat) (w : Flight) : (g.flyAt cu due w).launch = g.launch := rfl
@[simp] theorem flyAt_pat (g : Region) (cu : Cursor) (due : Nat) (w : Flight) : (g.flyAt cu due w).pat = g.pat := rfl
@[simp] theorem flyAt_role (g : Region) (cu : Cursor) (due : Nat) (w : Flight) : (g.flyAt cu due w).role = g.role := rfl
@[simp] theorem flyAt_place (g : Region) (cu : Cursor) (due : Nat) (w : Flight) : (g.flyAt cu due w).place = g.place := rfl
@[simp] theorem flyAt_placedAt (g : Region) (cu : Cursor) (due : Nat) (w : Flight) : (g.flyAt cu due w).placedAt = g.placedAt := rfl
@[simp] theorem flyAt_status (g : Region) (cu : Cursor) (due : Nat) (w : Flight) : (g.flyAt cu due w).status = g.status := rfl
@[simp] theorem flyAt_sc (g : Region) (cu : Cursor) (due : Nat) (w : Flight) : (g.flyAt cu due w).sc = g.sc := rfl
@[simp] theorem flyAt_gaugeN (g : Region) (cu : Cursor) (due : Nat) (w : Flight) : (g.flyAt cu due w).gaugeN = g.gaugeN := rfl
@[simp] theorem flyAt_gaugeLim (g : Region) (cu : Cursor) (due : Nat) (w : Flight) : (g.flyAt cu due w).gaugeLim = g.gaugeLim := rfl
@[simp] theorem flyAt_stitch (g : Region) (cu : Cursor) (due : Nat) (w : Flight) : (g.flyAt cu due w).stitch = g.stitch := rfl
@[simp] theorem flyAt_reentry (g : Region) (cu : Cursor) (due : Nat) (w : Flight) : (g.flyAt cu due w).reentry = g.reentry := rfl
@[simp] theorem flyAt_lastCause (g : Region) (cu : Cursor) (due : Nat) (w : Flight) : (g.flyAt cu due w).lastCause = g.lastCause := rfl
@[simp] theorem flyAt_recId (g : Region) (cu : Cursor) (due : Nat) (w : Flight) : (g.flyAt cu due w).recId = g.recId := rfl
@[simp] theorem flyAt_tiles (g : Region) (cu : Cursor) (due : Nat) (w : Flight) : (g.flyAt cu due w).tiles = g.tiles := rfl
@[simp] theorem flyAt_awaits (g : Region) (cu : Cursor) (due : Nat) (w : Flight) : (g.flyAt cu due w).awaits = g.awaits := rfl
@[simp] theorem flyAt_items (g : Region) (cu : Cursor) (due : Nat) (w : Flight) : (g.flyAt cu due w).items = g.items := rfl
@[simp] theorem flyAt_cmds (g : Region) (cu : Cursor) (due : Nat) (w : Flight) : (g.flyAt cu due w).cmds = g.cmds := rfl
@[simp] theorem flyAt_unacq (g : Region) (cu : Cursor) (due : Nat) (w : Flight) : (g.flyAt cu due w).unacq = g.unacq := rfl
@[simp] theorem flyAt_ckpt (g : Region) (cu : Cursor) (due : Nat) (w : Flight) : (g.flyAt cu due w).ckpt = g.ckpt := rfl
@[simp] theorem flyAt_raised (g : Region) (cu : Cursor) (due : Nat) (w : Flight) : (g.flyAt cu due w).raised = g.raised := rfl
@[simp] theorem flyAt_frozen (g : Region) (cu : Cursor) (due : Nat) (w : Flight) : (g.flyAt cu due w).frozen = g.frozen := rfl
@[simp] theorem flyAt_committing (g : Region) (cu : Cursor) (due : Nat) (w : Flight) : (g.flyAt cu due w).committing = g.committing := rfl
@[simp] theorem flyAt_finalDone (g : Region) (cu : Cursor) (due : Nat) (w : Flight) : (g.flyAt cu due w).finalDone = g.finalDone := rfl
@[simp] theorem flyAt_preempt (g : Region) (cu : Cursor) (due : Nat) (w : Flight) : (g.flyAt cu due w).preempt = g.preempt := rfl
@[simp] theorem flyAt_reclaimAt (g : Region) (cu : Cursor) (due : Nat) (w : Flight) : (g.flyAt cu due w).reclaimAt = g.reclaimAt := rfl
@[simp] theorem flyAt_mailPend (g : Region) (cu : Cursor) (due : Nat) (w : Flight) : (g.flyAt cu due w).mailPend = g.mailPend := rfl
@[simp] theorem flyAt_endEffs (g : Region) (cu : Cursor) (due : Nat) (w : Flight) : (g.flyAt cu due w).endEffs = g.endEffs := rfl
@[simp] theorem flyAt_records (g : Region) (cu : Cursor) (due : Nat) (w : Flight) : (g.flyAt cu due w).records = g.records := rfl
@[simp] theorem flyAt_rets (g : Region) (cu : Cursor) (due : Nat) (w : Flight) : (g.flyAt cu due w).rets = g.rets := rfl
@[simp] theorem flyAt_cols (g : Region) (cu : Cursor) (due : Nat) (w : Flight) : (g.flyAt cu due w).cols = g.cols := rfl
@[simp] theorem flyAt_paths (g : Region) (cu : Cursor) (due : Nat) (w : Flight) : (g.flyAt cu due w).paths = g.paths := rfl
@[simp] theorem flyAt_detected (g : Region) (cu : Cursor) (due : Nat) (w : Flight) : (g.flyAt cu due w).detected = g.detected := rfl
@[simp] theorem flyAt_stub (g : Region) (cu : Cursor) (due : Nat) (w : Flight) : (g.flyAt cu due w).stub = g.stub := rfl
@[simp] theorem flyAt_stubSc (g : Region) (cu : Cursor) (due : Nat) (w : Flight) : (g.flyAt cu due w).stubSc = g.stubSc := rfl
@[simp] theorem flyAt_handler (g : Region) (cu : Cursor) (due : Nat) (w : Flight) : (g.flyAt cu due w).handler = g.handler := rfl
@[simp] theorem flyAt_saved (g : Region) (cu : Cursor) (due : Nat) (w : Flight) : (g.flyAt cu due w).saved = g.saved := rfl
@[simp] theorem flyAt_failed (g : Region) (cu : Cursor) (due : Nat) (w : Flight) : (g.flyAt cu due w).failed = g.failed := rfl
@[simp] theorem flyAt_seqTag (g : Region) (cu : Cursor) (due : Nat) (w : Flight) : (g.flyAt cu due w).seqTag = g.seqTag := rfl
@[simp] theorem flyAt_avoid (g : Region) (cu : Cursor) (due : Nat) (w : Flight) : (g.flyAt cu due w).avoid = g.avoid := rfl
@[simp] theorem flyAt_trans (g : Region) (cu : Cursor) (due : Nat) (w : Flight) : (g.flyAt cu due w).trans = g.trans := rfl
@[simp] theorem flyAt_verdict (g : Region) (cu : Cursor) (due : Nat) (w : Flight) : (g.flyAt cu due w).verdict = g.verdict := rfl
@[simp] theorem flyAt_firm (g : Region) (cu : Cursor) (due : Nat) (w : Flight) : (g.flyAt cu due w).firm = g.firm := rfl
@[simp] theorem flyAt_park (g : Region) (cu : Cursor) (due : Nat) (w : Flight) : (g.flyAt cu due w).park = g.park := rfl

/-! ### Region.atEnd -/

@[simp] theorem atEnd_rid (g : Region) (cu : Cursor) (e : EndOp) : (g.atEnd cu e).rid = g.rid := rfl
@[simp] theorem atEnd_launch (g : Region) (cu : Cursor) (e : EndOp) : (g.atEnd cu e).launch = g.launch := rfl
@[simp] theorem atEnd_pat (g : Region) (cu : Cursor) (e : EndOp) : (g.atEnd cu e).pat = g.pat := rfl
@[simp] theorem atEnd_role (g : Region) (cu : Cursor) (e : EndOp) : (g.atEnd cu e).role = g.role := rfl
@[simp] theorem atEnd_place (g : Region) (cu : Cursor) (e : EndOp) : (g.atEnd cu e).place = g.place := rfl
@[simp] theorem atEnd_placedAt (g : Region) (cu : Cursor) (e : EndOp) : (g.atEnd cu e).placedAt = g.placedAt := rfl
@[simp] theorem atEnd_status (g : Region) (cu : Cursor) (e : EndOp) : (g.atEnd cu e).status = g.status := rfl
@[simp] theorem atEnd_sc (g : Region) (cu : Cursor) (e : EndOp) : (g.atEnd cu e).sc = g.sc := rfl
@[simp] theorem atEnd_gaugeN (g : Region) (cu : Cursor) (e : EndOp) : (g.atEnd cu e).gaugeN = g.gaugeN := rfl
@[simp] theorem atEnd_gaugeLim (g : Region) (cu : Cursor) (e : EndOp) : (g.atEnd cu e).gaugeLim = g.gaugeLim := rfl
@[simp] theorem atEnd_stitch (g : Region) (cu : Cursor) (e : EndOp) : (g.atEnd cu e).stitch = g.stitch := rfl
@[simp] theorem atEnd_reentry (g : Region) (cu : Cursor) (e : EndOp) : (g.atEnd cu e).reentry = g.reentry := rfl
@[simp] theorem atEnd_lastCause (g : Region) (cu : Cursor) (e : EndOp) : (g.atEnd cu e).lastCause = g.lastCause := rfl
@[simp] theorem atEnd_recId (g : Region) (cu : Cursor) (e : EndOp) : (g.atEnd cu e).recId = g.recId := rfl
@[simp] theorem atEnd_tiles (g : Region) (cu : Cursor) (e : EndOp) : (g.atEnd cu e).tiles = g.tiles := rfl
@[simp] theorem atEnd_flights (g : Region) (cu : Cursor) (e : EndOp) : (g.atEnd cu e).flights = g.flights := rfl
@[simp] theorem atEnd_awaits (g : Region) (cu : Cursor) (e : EndOp) : (g.atEnd cu e).awaits = g.awaits := rfl
@[simp] theorem atEnd_items (g : Region) (cu : Cursor) (e : EndOp) : (g.atEnd cu e).items = g.items := rfl
@[simp] theorem atEnd_cmds (g : Region) (cu : Cursor) (e : EndOp) : (g.atEnd cu e).cmds = g.cmds := rfl
@[simp] theorem atEnd_unacq (g : Region) (cu : Cursor) (e : EndOp) : (g.atEnd cu e).unacq = g.unacq := rfl
@[simp] theorem atEnd_ckpt (g : Region) (cu : Cursor) (e : EndOp) : (g.atEnd cu e).ckpt = g.ckpt := rfl
@[simp] theorem atEnd_raised (g : Region) (cu : Cursor) (e : EndOp) : (g.atEnd cu e).raised = g.raised := rfl
@[simp] theorem atEnd_frozen (g : Region) (cu : Cursor) (e : EndOp) : (g.atEnd cu e).frozen = g.frozen := rfl
@[simp] theorem atEnd_committing (g : Region) (cu : Cursor) (e : EndOp) : (g.atEnd cu e).committing = g.committing := rfl
@[simp] theorem atEnd_finalDone (g : Region) (cu : Cursor) (e : EndOp) : (g.atEnd cu e).finalDone = g.finalDone := rfl
@[simp] theorem atEnd_preempt (g : Region) (cu : Cursor) (e : EndOp) : (g.atEnd cu e).preempt = g.preempt := rfl
@[simp] theorem atEnd_reclaimAt (g : Region) (cu : Cursor) (e : EndOp) : (g.atEnd cu e).reclaimAt = g.reclaimAt := rfl
@[simp] theorem atEnd_mailPend (g : Region) (cu : Cursor) (e : EndOp) : (g.atEnd cu e).mailPend = g.mailPend := rfl
@[simp] theorem atEnd_records (g : Region) (cu : Cursor) (e : EndOp) : (g.atEnd cu e).records = g.records := rfl
@[simp] theorem atEnd_rets (g : Region) (cu : Cursor) (e : EndOp) : (g.atEnd cu e).rets = g.rets := rfl
@[simp] theorem atEnd_cols (g : Region) (cu : Cursor) (e : EndOp) : (g.atEnd cu e).cols = g.cols := rfl
@[simp] theorem atEnd_paths (g : Region) (cu : Cursor) (e : EndOp) : (g.atEnd cu e).paths = g.paths := rfl
@[simp] theorem atEnd_detected (g : Region) (cu : Cursor) (e : EndOp) : (g.atEnd cu e).detected = g.detected := rfl
@[simp] theorem atEnd_stub (g : Region) (cu : Cursor) (e : EndOp) : (g.atEnd cu e).stub = g.stub := rfl
@[simp] theorem atEnd_stubSc (g : Region) (cu : Cursor) (e : EndOp) : (g.atEnd cu e).stubSc = g.stubSc := rfl
@[simp] theorem atEnd_handler (g : Region) (cu : Cursor) (e : EndOp) : (g.atEnd cu e).handler = g.handler := rfl
@[simp] theorem atEnd_saved (g : Region) (cu : Cursor) (e : EndOp) : (g.atEnd cu e).saved = g.saved := rfl
@[simp] theorem atEnd_failed (g : Region) (cu : Cursor) (e : EndOp) : (g.atEnd cu e).failed = g.failed := rfl
@[simp] theorem atEnd_seqTag (g : Region) (cu : Cursor) (e : EndOp) : (g.atEnd cu e).seqTag = g.seqTag := rfl
@[simp] theorem atEnd_avoid (g : Region) (cu : Cursor) (e : EndOp) : (g.atEnd cu e).avoid = g.avoid := rfl
@[simp] theorem atEnd_trans (g : Region) (cu : Cursor) (e : EndOp) : (g.atEnd cu e).trans = g.trans := rfl
@[simp] theorem atEnd_verdict (g : Region) (cu : Cursor) (e : EndOp) : (g.atEnd cu e).verdict = g.verdict := rfl
@[simp] theorem atEnd_firm (g : Region) (cu : Cursor) (e : EndOp) : (g.atEnd cu e).firm = g.firm := rfl
@[simp] theorem atEnd_park (g : Region) (cu : Cursor) (e : EndOp) : (g.atEnd cu e).park = g.park := rfl
/-! ### Reading back what an update wrote -/

theorem find?_replace {l : List Region} {g h : Region} (hg : (l.find? fun x => x.rid = g.rid) = some h) :
    ((l.map fun x => if x.rid = g.rid then g else x).find? fun x => x.rid = g.rid) = some g := by
  induction l with
  | nil => simp at hg
  | cons x l ih =>
    by_cases hx : x.rid = g.rid
    · simp [hx]
    · simp [hx] at hg ⊢
      simpa using ih (by simpa using hg)

theorem find?_replace_ne {l : List Region} {g : Region} {r : Nat} (hr : r ≠ g.rid) :
    ((l.map fun x => if x.rid = g.rid then g else x).find? fun x => x.rid = r) = l.find? fun x => x.rid = r := by
  induction l with
  | nil => rfl
  | cons x l ih =>
    by_cases hx : x.rid = g.rid
    · have h1 : ¬g.rid = r := fun e => hr e.symm
      simp only [List.map_cons, hx, if_true, List.find?_cons, h1, decide_false]
      exact ih
    · simp only [List.map_cons, hx, if_false, List.find?_cons, ih]

theorem setRegion_region? {s : State} {g h : Region} (hg : s.region? g.rid = some h) :
    (s.setRegion g).region? g.rid = some g := find?_replace hg

theorem setRegion_region?_ne {s : State} {g : Region} {r : Nat} (hr : r ≠ g.rid) :
    (s.setRegion g).region? r = s.region? r := find?_replace_ne hr

theorem region?_rid {s : State} {r : Nat} {g : Region} (h : s.region? r = some g) : g.rid = r := by
  simpa using List.find?_some h

theorem modStr_str {x : Tile} (b : Bool) (f : Stream → Stream) :
    (x.modStr b f) = if b then { x with b := f x.b } else { x with a := f x.a } := by
  cases b <;> rfl

theorem getS_setS {k : Bank} {d : SDst} {x : Val} (h : d ≠ .g 0) : (k.setS d x).getS d = x := by
  cases d with
  | g n =>
    have hn : n ≠ 0 := fun e => h (by rw [e])
    simp only [Bank.getS, Bank.setS, hn, if_false, Vector.getElem_set_self]
  | k n => simp [Bank.getS, Bank.setS]

/-- g0 reads as zero whatever is written (03 R67). -/
theorem getS_g0 (k : Bank) : k.getS (.g 0) = {} := rfl

theorem setS_g0 (k : Bank) (x : Val) : k.setS (.g 0) x = k := rfl

theorem getP_setP {k : Bank} {n : BitVec 4} {x : PredV} (h : n ≠ 0) : (k.setP n x).getP n = x := by
  simp only [Bank.getP, Bank.setP, h, if_false, Vector.getElem_set_self]

end Sys2Proof.Machine
end

