-- ==== Sys2Proof/Laws/Issue.lean ====
section
/-! SUPPORT. What the shared shapes of an issue do, said once: `issueOp`, `guarded`, the sticky slots, operand reads. -/

namespace Sys2Proof.Machine

/-! ### issueOp -/

/-- Whatever an issued operation does, the region acts, or a cause is raised, or it freezes, or the stream is held. -/
theorem issueOp_cases {s t : State} {f : Cursor → Region → Except Stop Region} (h : issueOp s f = .next t) :
    ∃ cu g, s.cur = some cu ∧ s.region? cu.r = some g ∧
      ((∃ g', f cu g = .ok g' ∧ t = ({ s with fresh := s.fresh + 1 } : State).setRegion g') ∨
       (∃ c va, f cu g = .error (.cause c va) ∧ t = ({ s with fresh := s.fresh + 1 } : State).setRegion (g.raise cu c va)) ∨
       (∃ c va, f cu g = .error (.event c va) ∧
          t = ({ s with fresh := s.fresh + 1 } : State).setRegion (g.raiseEvent cu.t cu.b c va none none)) ∨
       (∃ on, f cu g = .error (.freeze on) ∧ t = ({ s with fresh := s.fresh + 1 } : State).setRegion (g.freeze on)) ∨
       (∃ g', f cu g = .error (.hold g') ∧
          t = { ({ s with fresh := s.fresh + 1 } : State).setRegion g' with cur := some { cu with held := true } })) := by
  unfold issueOp at h
  split at h
  · cases h
  · next cu hc =>
    split at h
    · cases h
    · next g hg =>
      refine ⟨cu, g, hc, hg, ?_⟩
      cases hf : f cu g with
      | ok g' => simp only [hf] at h; cases h; exact .inl ⟨g', rfl, rfl⟩
      | error e =>
        cases e with
        | cause c va => simp only [hf] at h; cases h; exact .inr (.inl ⟨c, va, rfl, rfl⟩)
        | event c va => simp only [hf] at h; cases h; exact .inr (.inr (.inl ⟨c, va, rfl, rfl⟩))
        | freeze on => simp only [hf] at h; cases h; exact .inr (.inr (.inr (.inl ⟨on, rfl, rfl⟩)))
        | hold g' => simp only [hf] at h; cases h; exact .inr (.inr (.inr (.inr ⟨g', rfl, rfl⟩)))

section
variable {s : State} {cu : Cursor} {g g' : Region} {f : Cursor → Region → Except Stop Region}

theorem issueOp_ok (hc : s.cur = some cu) (hg : s.region? cu.r = some g) (hf : f cu g = .ok g') :
    issueOp s f = .next (({ s with fresh := s.fresh + 1 } : State).setRegion g') := by
  simp [issueOp, hc, hg, hf]

theorem issueOp_cause {c va} (hc : s.cur = some cu) (hg : s.region? cu.r = some g) (hf : f cu g = .error (.cause c va)) :
    issueOp s f = .next (({ s with fresh := s.fresh + 1 } : State).setRegion (g.raise cu c va)) := by
  simp [issueOp, hc, hg, hf]

theorem issueOp_event {c va} (hc : s.cur = some cu) (hg : s.region? cu.r = some g) (hf : f cu g = .error (.event c va)) :
    issueOp s f =
      .next (({ s with fresh := s.fresh + 1 } : State).setRegion (g.raiseEvent cu.t cu.b c va none none)) := by
  simp [issueOp, hc, hg, hf]

theorem issueOp_freeze {on} (hc : s.cur = some cu) (hg : s.region? cu.r = some g) (hf : f cu g = .error (.freeze on)) :
    issueOp s f = .next (({ s with fresh := s.fresh + 1 } : State).setRegion (g.freeze on)) := by
  simp [issueOp, hc, hg, hf]

theorem issueOp_hold (hc : s.cur = some cu) (hg : s.region? cu.r = some g) (hf : f cu g = .error (.hold g')) :
    issueOp s f =
      .next { ({ s with fresh := s.fresh + 1 } : State).setRegion g' with cur := some { cu with held := true } } := by
  simp [issueOp, hc, hg, hf]

end

/-! ### Guards -/

theorem guard_eq {g : Region} {cu : Cursor} {gd : Guard} {v : Bool} (hb : ((g.cur cu).bank.getP gd.p).bad = false)
    (hv : (((g.cur cu).bank.getP gd.p).bit ^^ gd.neg) = v) : g.guard cu gd = .ok v := by
  simp [Region.guard, hb, hv]

theorem guard_poisoned {g : Region} {cu : Cursor} {gd : Guard} (hb : ((g.cur cu).bank.getP gd.p).bad = true) :
    g.guard cu gd = .error (.cause 0x301 0) := by
  simp [Region.guard, hb]

/-- A guard that reads true leaves the operation to itself. -/
theorem guarded_true {s : State} {cu : Cursor} {g : Region} {gd : Guard} {f : Cursor → Region → Except Stop Region}
    (hc : s.cur = some cu) (hg : s.region? cu.r = some g) (hgd : g.guard cu gd = .ok true) :
    guarded s gd f = issueOp s f := by
  simp [guarded, issueOp, hc, hg, hgd, bind, Except.bind]

/-- A guard that reads false leaves the region as it is. -/
theorem guarded_false {s : State} {cu : Cursor} {g : Region} {gd : Guard} {f : Cursor → Region → Except Stop Region}
    (hc : s.cur = some cu) (hg : s.region? cu.r = some g) (hgd : g.guard cu gd = .ok false) :
    guarded s gd f = .next (({ s with fresh := s.fresh + 1 } : State).setRegion g) :=
  issueOp_ok hc hg (by simp [hgd, bind, Except.bind, pure, Except.pure])

/-! ### Operands -/

/-- With nothing missing that a read asks for, nothing stops it. -/
theorem firstMissing_none {g : Region} {t : Nat} {b : Bool} {p : Await → Bool}
    (h : ∀ a ∈ g.awaits, a.tile = t → a.strB = b → a.missing g.now = false) : g.firstMissing t b p = .ok () := by
  have : (g.awaits.find? fun a => a.tile = t && a.strB == b && a.missing g.now && p a) = none := by
    rw [List.find?_eq_none]
    intro a ha
    by_cases h1 : a.tile = t <;> by_cases h2 : a.strB = b <;> simp [h1, h2]
    simp [h a ha h1 h2]
  unfold Region.firstMissing
  rw [this]

theorem readP_eq (g : Region) (cu : Cursor) (p : PSrc) :
    g.readP cu p = ⟨((g.cur cu).bank.getP p.p).bit ^^ p.inv, ((g.cur cu).bank.getP p.p).bad⟩ := rfl

/-! ### Sticky slots -/

/-- A sticky operation whose guard reads true, at its initiating issue or at a re-issue: the slot takes its state and the
operation runs on the address operands of this issue. -/
theorem stickyOp_run {s : State} {op : Instr} {steps : List Int} {addrs : Cursor → Region → Except Stop (List Val)}
    {on : Cursor → Region → Except Stop Bool} {f : Cursor → Region → List Val → Except Stop Region}
    {cu : Cursor} {g : Region} {k : Sticky} (hc : s.cur = some cu) (hg : s.region? cu.r = some g)
    (hon : on cu g = .ok true)
    (hk : cu.again = some k ∨ (cu.again = none ∧ ∃ as, addrs cu g = .ok as ∧ k = ⟨op, 0, as⟩)) :
    stickyOp s op steps addrs on f =
      issueOp s fun cu g => f cu (g.modStr cu.t cu.b fun x => x.setSticky cu.slot (some k)) (steppedAll k.n k.addrs steps) := by
  obtain hk | ⟨hk, as, ha, rfl⟩ := hk
  · simp [stickyOp, issueOp, hc, hg, hon, hk, bind, Except.bind, pure, Except.pure]
  · simp [stickyOp, issueOp, hc, hg, hon, hk, ha, bind, Except.bind, pure, Except.pure]

/-- A sticky operation whose guard reads false still makes its slot active, and does nothing else. -/
theorem stickyOp_skip {s : State} {op : Instr} {steps : List Int} {addrs : Cursor → Region → Except Stop (List Val)}
    {on : Cursor → Region → Except Stop Bool} {f : Cursor → Region → List Val → Except Stop Region}
    {cu : Cursor} {g : Region} {k : Sticky} (hc : s.cur = some cu) (hg : s.region? cu.r = some g)
    (hon : on cu g = .ok false)
    (hk : cu.again = some k ∨ (cu.again = none ∧ ∃ as, addrs cu g = .ok as ∧ k = ⟨op, 0, as⟩)) :
    stickyOp s op steps addrs on f =
      .next (({ s with fresh := s.fresh + 1 } : State).setRegion
        (g.modStr cu.t cu.b fun x => x.setSticky cu.slot (some k))) := by
  obtain hk | ⟨hk, as, ha, rfl⟩ := hk
  · simp [stickyOp, issueOp, hc, hg, hon, hk, bind, Except.bind, pure, Except.pure]
  · simp [stickyOp, issueOp, hc, hg, hon, hk, ha, bind, Except.bind, pure, Except.pure]

theorem modTile_tile {g : Region} {t : Nat} {f : Tile → Tile} (h : f {} = {} ∨ t < g.tiles.length) :
    (g.modTile t f).tile t = f (g.tile t) := by
  unfold Region.modTile Region.tile
  simp only [List.getD_eq_getElem?_getD, List.getElem?_modify_eq]
  cases hx : g.tiles[t]? with
  | some x => rfl
  | none =>
    obtain h | h := h
    · simpa using h.symm
    · simp [h] at hx

theorem modTile_tile_ne {g : Region} {t u : Nat} {f : Tile → Tile} (h : t ≠ u) : (g.modTile t f).tile u = g.tile u := by
  unfold Region.modTile Region.tile
  simp [List.getD_eq_getElem?_getD, h]

/-- Making a sticky slot active changes no bank. -/
theorem setSticky_bank (x : Stream) (slot : Nat) (k : Option Sticky) : (x.setSticky slot k).bank = x.bank := by
  unfold Stream.setSticky
  split <;> rfl

end Sys2Proof.Machine
end

