-- ==== Sys2Proof/Laws/Mem.lean ====
section
/-! SUPPORT. Storage keeps its canonical form, and reads give back what was written. -/

namespace Sys2Proof.Machine

/-! ### The form -/

theorem cellsFrom_mono {lo hi : Nat} {l : List Host.Cell} (h : cellsFrom hi l = true) (hl : lo ≤ hi) : cellsFrom lo l = true := by
  cases l with
  | nil => rfl
  | cons c r =>
    simp only [cellsFrom, Bool.and_eq_true, decide_eq_true_eq] at h ⊢
    exact ⟨⟨by omega, h.1.2⟩, h.2⟩

theorem natsFrom_mono {lo hi : Nat} {l : List Nat} (h : natsFrom hi l = true) (hl : lo ≤ hi) : natsFrom lo l = true := by
  cases l with
  | nil => rfl
  | cons c r =>
    simp only [natsFrom, Bool.and_eq_true, decide_eq_true_eq] at h ⊢
    exact ⟨by omega, h.2⟩

theorem cellSet_form {lo a : Nat} {l : List Host.Cell} (v : Byte) (h : cellsFrom lo l = true) (ha : lo ≤ a) :
    cellsFrom lo (cellSet l a v) = true := by
  induction l generalizing lo with
  | nil =>
    unfold cellSet
    by_cases hv : v = 0
    · rw [if_pos hv]; rfl
    · rw [if_neg hv]; simp only [cellsFrom, ha, decide_true, Bool.true_and, Bool.and_true]; exact bne_iff_ne.2 hv
  | cons c r ih =>
    obtain ⟨k, w⟩ := c
    simp only [cellsFrom, Bool.and_eq_true, decide_eq_true_eq] at h
    obtain ⟨⟨h1, h2⟩, h3⟩ := h
    unfold cellSet
    split
    · by_cases hv : v = 0
      · rw [if_pos hv]
        simp only [cellsFrom, Bool.and_eq_true, decide_eq_true_eq]
        exact ⟨⟨h1, h2⟩, h3⟩
      · rw [if_neg hv]
        simp only [cellsFrom, Bool.and_eq_true, decide_eq_true_eq]
        exact ⟨⟨ha, bne_iff_ne.2 hv⟩, ⟨by omega, h2⟩, h3⟩
    · split
      · next _ he =>
        subst he
        by_cases hv : v = 0
        · rw [if_pos hv]; exact cellsFrom_mono h3 (by omega)
        · rw [if_neg hv]
          simp only [cellsFrom, Bool.and_eq_true, decide_eq_true_eq]
          exact ⟨⟨h1, bne_iff_ne.2 hv⟩, h3⟩
      · simp only [cellsFrom, Bool.and_eq_true, decide_eq_true_eq]
        exact ⟨⟨h1, h2⟩, ih h3 (by omega)⟩

theorem natSet_form {lo a : Nat} {l : List Nat} (b : Bool) (h : natsFrom lo l = true) (ha : lo ≤ a) :
    natsFrom lo (natSet l a b) = true := by
  induction l generalizing lo with
  | nil => cases b <;> simp [natSet, natsFrom, ha]
  | cons k r ih =>
    simp only [natsFrom, Bool.and_eq_true, decide_eq_true_eq] at h
    obtain ⟨h1, h3⟩ := h
    unfold natSet
    split
    · cases b
      · simp [natsFrom, h1, h3]
      · simp only [if_true, natsFrom, Bool.and_eq_true, decide_eq_true_eq]
        exact ⟨ha, by omega, h3⟩
    · split
      · cases b
        · exact natsFrom_mono h3 (by omega)
        · simp [natsFrom, h1, h3]
      · simp only [natsFrom, Bool.and_eq_true, decide_eq_true_eq]
        exact ⟨h1, ih h3 (by omega)⟩

theorem writeCells_form {l : List Host.Cell} (a : Nat) (ps : List PByte) (h : cellsFrom 0 l = true) :
    cellsFrom 0 (writeCells l a ps) = true := by
  induction ps generalizing l a with
  | nil => exact h
  | cons p ps ih => exact ih _ (cellSet_form _ h (Nat.zero_le _))

theorem writeBad_form {bad : List Nat} (g a : Nat) (ps : List PByte) (n k : Nat) (h : natsFrom 0 bad = true) :
    natsFrom 0 (writeBad g a ps n k bad) = true := by
  induction n generalizing k bad with
  | zero => exact h
  | succ n ih => exact ih _ (natSet_form _ h (Nat.zero_le _))

theorem mem_empty_wf : ({} : Mem).wf = true := rfl

theorem write_wf {m : Mem} (g a : Nat) (ps : List PByte) (h : m.wf = true) : (m.write g a ps).wf = true := by
  simp only [Mem.wf, Bool.and_eq_true] at h
  unfold Mem.write
  split
  · simp [Mem.wf, h]
  · simp only [Mem.wf, Bool.and_eq_true]
    exact ⟨writeCells_form _ _ h.1, writeBad_form _ _ _ _ _ h.2⟩

theorem poison_wf {m : Mem} (k : Nat) (h : m.wf = true) : (m.poison k).wf = true := by
  simp only [Mem.wf, Bool.and_eq_true] at h
  simp only [Mem.poison, Mem.wf, Bool.and_eq_true]
  exact ⟨h.1, natSet_form _ h.2 (Nat.zero_le _)⟩

theorem cellsFrom_filter {lo : Nat} {l : List Host.Cell} (p : Host.Cell → Bool) (h : cellsFrom lo l = true) :
    cellsFrom lo (l.filter p) = true := by
  induction l generalizing lo with
  | nil => rfl
  | cons c r ih =>
    simp only [cellsFrom, Bool.and_eq_true, decide_eq_true_eq] at h
    cases hp : p c
    · simp only [List.filter_cons, hp]; exact cellsFrom_mono (ih h.2) (by omega)
    · simp only [List.filter_cons, hp, if_true, cellsFrom, Bool.and_eq_true, decide_eq_true_eq]
      exact ⟨h.1, ih h.2⟩

theorem natsFrom_filter {lo : Nat} {l : List Nat} (p : Nat → Bool) (h : natsFrom lo l = true) :
    natsFrom lo (l.filter p) = true := by
  induction l generalizing lo with
  | nil => rfl
  | cons c r ih =>
    simp only [natsFrom, Bool.and_eq_true, decide_eq_true_eq] at h
    cases hp : p c
    · simp only [List.filter_cons, hp]; exact natsFrom_mono (ih h.2) (by omega)
    · simp only [List.filter_cons, hp, if_true, natsFrom, Bool.and_eq_true, decide_eq_true_eq]
      exact ⟨h.1, ih h.2⟩

theorem writeLocal_wf (f : Nat) {m : Mem} (groups : List Nat) (a : Nat) (ps : List PByte) (h : m.wf = true) :
    (writeLocal f m groups a ps).wf = true := by
  induction f generalizing m a ps with
  | zero => exact h
  | succ f ih =>
    unfold writeLocal
    dsimp only
    split
    · exact h
    · exact ih _ _ (write_wf _ _ _ h)

theorem wipe_wf {m : Mem} (groups : List Nat) (h : m.wf = true) : (wipe m groups).wf = true := by
  simp only [Mem.wf, Bool.and_eq_true] at h
  simp only [wipe, Mem.wf, Bool.and_eq_true]
  exact ⟨cellsFrom_filter _ h.1, natsFrom_filter _ h.2⟩

theorem keepDump_wf (d : Dev) {m : Mem} (h : m.wf = true) : (d.keepDump m).wf = true := by
  simp only [Mem.wf, Bool.and_eq_true] at h
  unfold Dev.keepDump
  split
  · simp only [Mem.wf, Bool.and_eq_true]
    exact ⟨cellsFrom_filter _ h.1, natsFrom_filter _ h.2⟩
  · rfl

/-! ### Read after write -/

theorem cellGet_below {lo a : Nat} {l : List Host.Cell} (h : cellsFrom lo l = true) (ha : a < lo) : cellGet l a = 0 := by
  cases l with
  | nil => rfl
  | cons c r =>
    simp only [cellsFrom, Bool.and_eq_true, decide_eq_true_eq] at h
    have h1 : a ≠ c.1 := by omega
    have h2 : a < c.1 := by omega
    simp [cellGet, h1, h2]

theorem cellGet_cons (k : Nat) (w : Byte) (r : List Host.Cell) (a : Nat) :
    cellGet ((k, w) :: r) a = if a = k then w else if a < k then 0 else cellGet r a := rfl

theorem cellGet_cellSet {lo : Nat} {l : List Host.Cell} (a b : Nat) (v : Byte) (h : cellsFrom lo l = true) :
    cellGet (cellSet l a v) b = if b = a then v else cellGet l b := by
  induction l generalizing lo with
  | nil =>
    unfold cellSet
    by_cases hv : v = 0
    · rw [if_pos hv]
      split
      · exact hv.symm
      · rfl
    · rw [if_neg hv, cellGet_cons]
      split <;> simp [cellGet]
  | cons c r ih =>
    obtain ⟨k, w⟩ := c
    simp only [cellsFrom, Bool.and_eq_true, decide_eq_true_eq] at h
    obtain ⟨⟨h1, h2⟩, h3⟩ := h
    unfold cellSet
    split
    · next hak =>
      by_cases hv : v = 0
      · rw [if_pos hv]
        split
        · next hb => rw [hb, cellGet_cons, if_neg (by omega), if_pos hak, hv]
        · rfl
      · rw [if_neg hv, cellGet_cons]
        split
        · rfl
        · next hb =>
          split
          · rw [cellGet_cons, if_neg (by omega), if_pos (by omega)]
          · rfl
    · split
      · next hn he =>
        subst he
        by_cases hv : v = 0
        · rw [if_pos hv]
          split
          · next hb => rw [hb, hv]; exact cellGet_below h3 (Nat.lt_succ_self a)
          · next hb =>
            rw [cellGet_cons, if_neg hb]
            split
            · exact cellGet_below h3 (by omega)
            · rfl
        · rw [if_neg hv, cellGet_cons, cellGet_cons]
          split
          · rfl
          · rfl
      · rw [cellGet_cons, cellGet_cons, ih h3]
        by_cases hb : b = a
        · rw [if_pos hb, if_pos hb, if_neg (by omega), if_neg (by omega)]
        · rw [if_neg hb, if_neg hb]

/-- A byte after a write: the byte written there, or what was there. -/
theorem writeCells_get {l : List Host.Cell} (a b : Nat) (ps : List PByte) (h : cellsFrom 0 l = true) :
    cellGet (writeCells l a ps) b =
      if a ≤ b ∧ b < a + ps.length then (ps.getD (b - a) (0, false)).1 else cellGet l b := by
  induction ps generalizing l a with
  | nil => simp [writeCells]
  | cons p ps ih =>
    rw [writeCells, ih _ (cellSet_form _ h (Nat.zero_le _)), cellGet_cellSet _ _ _ h]
    by_cases h1 : b = a
    · subst h1; simp
    · by_cases h2 : a + 1 ≤ b ∧ b < a + 1 + ps.length
      · have h3 : a ≤ b ∧ b < a + (p :: ps).length := by simp; omega
        rw [if_pos h2, if_pos h3]
        have : b - a = (b - (a + 1)) + 1 := by omega
        rw [this]; rfl
      · have h3 : ¬(a ≤ b ∧ b < a + (p :: ps).length) := by simp; omega
        rw [if_neg h2, if_neg h3, if_neg h1]

theorem write_byte {m : Mem} (g a b : Nat) (ps : List PByte) (h : m.wf = true) :
    (m.write g a ps).byte b =
      if a ≤ b ∧ b < a + ps.length then (ps.getD (b - a) (0, false)).1 else m.byte b := by
  simp only [Mem.wf, Bool.and_eq_true] at h
  unfold Mem.write
  split
  · next he =>
    have : ps = [] := by simpa using he
    subst this
    simp
  · exact writeCells_get _ _ _ h.1

theorem poison_byte (m : Mem) (k b : Nat) : (m.poison k).byte b = m.byte b := rfl

end Sys2Proof.Machine
end

