-- ==== Sys2Proof/Laws/PerInstr.lean ====
section
/-! SUPPORT. What holds of every instruction, constructor by constructor. -/

namespace Sys2Proof.Laws.EncodedWord

/-- The encoded word of an instruction that a bundle can hold stands in one of the seven slots, in the long form, with an
assigned major opcode of that slot's class (07 R182 to R188), and with the guard p0 where the instruction commits (07 R173):
nothing the decoder refuses before it reads the instruction's own fields. -/
def Statement (i : Instr) : Prop :=
  ∀ e ∈ i.enc, e.1 < 7 ∧ e.2.1.long = true ∧ e.2.1.major.toNat < 0x38 ∧ majorOk e.1 e.2.1.major.toNat = true ∧
    guardFits i e.2.1 = true

/-- The instruction's slot word is long and carries its major opcode. -/
theorem of_word {i : Instr} {s : Nat} {f : SlotWord} {p : Option (BitVec 29)} {m : BitVec 6} (he : i.enc = some (s, f, p))
    (hl : f.long = true) (hm : f.major = m) (hs : (decide (s < 7 ∧ m.toNat < 0x38) && majorOk s m.toNat) = true)
    (hg : guardFits i f = true) : Statement i := by
  intro e h
  rw [he] at h
  cases h
  simp only [Bool.and_eq_true, decide_eq_true_eq] at hs
  rw [← hm] at hs
  exact ⟨hs.1.1, hl, hs.1.2, hs.2, hg⟩

/-- A row that no bundle holds has no word. -/
theorem of_none {i : Instr} (h : i.enc = none) : Statement i := by
  intro e he
  rw [h] at he
  cases he

theorem encAlu2_word (m : BitVec 6) (o : Alu2) : (encAlu2 m o).long = true ∧ (encAlu2 m o).major = m := by
  unfold encAlu2; split <;> exact ⟨rfl, rfl⟩

theorem encCmp2_word (m : BitVec 6) (o : Cmp2) : (encCmp2 m o).long = true ∧ (encCmp2 m o).major = m := by
  unfold encCmp2; split <;> exact ⟨rfl, rfl⟩

theorem encSel_word (o : SelA) : (encSel o).long = true ∧ (encSel o).major = 0x1E := by
  unfold encSel; split <;> exact ⟨rfl, rfl⟩

theorem encBfx_word (m : BitVec 6) (o : BfxA) : (encBfx m o).long = true ∧ (encBfx m o).major = m := by
  unfold encBfx; split <;> exact ⟨rfl, rfl⟩

theorem encMaskR_word (m : BitVec 6) (o : MaskA) : (encMaskR m o).long = true ∧ (encMaskR m o).major = m := by
  unfold encMaskR; split <;> exact ⟨rfl, rfl⟩

theorem idleBundle (r : BitVec 6) (h : BitVec 3) : Statement (.idleBundle r h) := of_none rfl
theorem add (o : Alu2) : Statement (.add o) := of_word rfl (encAlu2_word _ _).1 (encAlu2_word _ _).2 rfl rfl
theorem sub (o : Alu2) : Statement (.sub o) := of_word rfl (encAlu2_word _ _).1 (encAlu2_word _ _).2 rfl rfl
theorem and (o : Alu2) : Statement (.and o) := of_word rfl (encAlu2_word _ _).1 (encAlu2_word _ _).2 rfl rfl
theorem or (o : Alu2) : Statement (.or o) := of_word rfl (encAlu2_word _ _).1 (encAlu2_word _ _).2 rfl rfl
theorem xor (o : Alu2) : Statement (.xor o) := of_word rfl (encAlu2_word _ _).1 (encAlu2_word _ _).2 rfl rfl
theorem andn (o : Alu2) : Statement (.andn o) := of_word rfl (encAlu2_word _ _).1 (encAlu2_word _ _).2 rfl rfl
theorem shl (o : Alu2) : Statement (.shl o) := of_word rfl (encAlu2_word _ _).1 (encAlu2_word _ _).2 rfl rfl
theorem shr (o : Alu2) : Statement (.shr o) := of_word rfl (encAlu2_word _ _).1 (encAlu2_word _ _).2 rfl rfl
theorem sar (o : Alu2) : Statement (.sar o) := of_word rfl (encAlu2_word _ _).1 (encAlu2_word _ _).2 rfl rfl
theorem min (o : Alu2) : Statement (.min o) := of_word rfl (encAlu2_word _ _).1 (encAlu2_word _ _).2 rfl rfl
theorem max (o : Alu2) : Statement (.max o) := of_word rfl (encAlu2_word _ _).1 (encAlu2_word _ _).2 rfl rfl
theorem minu (o : Alu2) : Statement (.minu o) := of_word rfl (encAlu2_word _ _).1 (encAlu2_word _ _).2 rfl rfl
theorem maxu (o : Alu2) : Statement (.maxu o) := of_word rfl (encAlu2_word _ _).1 (encAlu2_word _ _).2 rfl rfl
theorem mul (o : Alu2) : Statement (.mul o) := of_word rfl (encAlu2_word _ _).1 (encAlu2_word _ _).2 rfl rfl
theorem mulh (o : Alu2) : Statement (.mulh o) := of_word rfl (encAlu2_word _ _).1 (encAlu2_word _ _).2 rfl rfl
theorem mulhu (o : Alu2) : Statement (.mulhu o) := of_word rfl (encAlu2_word _ _).1 (encAlu2_word _ _).2 rfl rfl
theorem div (o : Alu2) : Statement (.div o) := of_word rfl (encAlu2_word _ _).1 (encAlu2_word _ _).2 rfl rfl
theorem divu (o : Alu2) : Statement (.divu o) := of_word rfl (encAlu2_word _ _).1 (encAlu2_word _ _).2 rfl rfl
theorem rem (o : Alu2) : Statement (.rem o) := of_word rfl (encAlu2_word _ _).1 (encAlu2_word _ _).2 rfl rfl
theorem remu (o : Alu2) : Statement (.remu o) := of_word rfl (encAlu2_word _ _).1 (encAlu2_word _ _).2 rfl rfl
theorem cmpeq (o : Cmp2) : Statement (.cmpeq o) := of_word rfl (encCmp2_word _ _).1 (encCmp2_word _ _).2 rfl rfl
theorem cmpne (o : Cmp2) : Statement (.cmpne o) := of_word rfl (encCmp2_word _ _).1 (encCmp2_word _ _).2 rfl rfl
theorem cmplt (o : Cmp2) : Statement (.cmplt o) := of_word rfl (encCmp2_word _ _).1 (encCmp2_word _ _).2 rfl rfl
theorem cmple (o : Cmp2) : Statement (.cmple o) := of_word rfl (encCmp2_word _ _).1 (encCmp2_word _ _).2 rfl rfl
theorem cmpltu (o : Cmp2) : Statement (.cmpltu o) := of_word rfl (encCmp2_word _ _).1 (encCmp2_word _ _).2 rfl rfl
theorem cmpleu (o : Cmp2) : Statement (.cmpleu o) := of_word rfl (encCmp2_word _ _).1 (encCmp2_word _ _).2 rfl rfl
theorem pand (o : PLog) : Statement (.pand o) := of_word rfl rfl rfl rfl rfl
theorem por (o : PLog) : Statement (.por o) := of_word rfl rfl rfl rfl rfl
theorem pxor (o : PLog) : Statement (.pxor o) := of_word rfl rfl rfl rfl rfl
theorem pandn (o : PLog) : Statement (.pandn o) := of_word rfl rfl rfl rfl rfl
theorem sel (o : SelA) : Statement (.sel o) := of_word rfl (encSel_word _).1 (encSel_word _).2 rfl rfl
theorem bfx (o : BfxA) : Statement (.bfx o) := of_word rfl (encBfx_word _ _).1 (encBfx_word _ _).2 rfl rfl
theorem bfxs (o : BfxA) : Statement (.bfxs o) := of_word rfl (encBfx_word _ _).1 (encBfx_word _ _).2 rfl rfl
theorem bfi (o : BfiA) : Statement (.bfi o) := of_word rfl rfl rfl rfl rfl
theorem clz (o : CntA) : Statement (.clz o) := of_word rfl rfl rfl rfl rfl
theorem ctz (o : CntA) : Statement (.ctz o) := of_word rfl rfl rfl rfl rfl
theorem popc (o : CntA) : Statement (.popc o) := of_word rfl rfl rfl rfl rfl
theorem agen2 (o : AgenA) : Statement (.agen2 o) := of_word rfl rfl rfl rfl rfl
theorem li (gd : Guard) (d : SDst) (v : BitVec 45) : Statement (.li gd d v) := of_word rfl rfl rfl rfl rfl
theorem liHi (gd : Guard) (d : SDst) (a : SSrc) (v : BitVec 19) : Statement (.liHi gd d a v) := of_word rfl rfl rfl rfl rfl
theorem rdsr (gd : Guard) (d : SDst) (n : SReg) : Statement (.rdsr gd d n) := of_word rfl rfl rfl rfl rfl
theorem wrsr (gd : Guard) (a : SSrc) : Statement (.wrsr gd a) := of_word rfl rfl rfl rfl rfl
theorem rdmb (gd : Guard) (d : SDst) (n : BitVec 4) : Statement (.rdmb gd d n) := of_word rfl rfl rfl rfl rfl
theorem nop (gd : Guard) : Statement (.nop gd) := of_word rfl rfl rfl rfl rfl
theorem br (gd : Guard) (disp : BitVec 18) : Statement (.br gd disp) := of_word rfl rfl rfl rfl rfl
theorem bri (gd : Guard) (a : SSrc) (imm : BitVec 16) : Statement (.bri gd a imm) := of_word rfl rfl rfl rfl rfl
theorem call (gd : Guard) (d : SDst) (disp : BitVec 18) : Statement (.call gd d disp) := of_word rfl rfl rfl rfl rfl
theorem ret (gd : Guard) (a : SSrc) : Statement (.ret gd a) := of_word rfl rfl rfl rfl rfl
theorem loop (o : LoopA) (cnt : BitVec 16) : Statement (.loop o cnt) := of_word rfl rfl rfl rfl rfl
theorem loopr (o : LoopA) (a : SSrc) : Statement (.loopr o a) := of_word rfl rfl rfl rfl rfl
theorem lexit (gd : Guard) : Statement (.lexit gd) := of_word rfl rfl rfl rfl rfl
theorem fork (gd : Guard) (disp : BitVec 18) : Statement (.fork gd disp) := of_word rfl rfl rfl rfl rfl
theorem join (gd : Guard) : Statement (.join gd) := of_word rfl rfl rfl rfl rfl
theorem jset (gd : Guard) (n : BitVec 4) : Statement (.jset gd n) := of_word rfl rfl rfl rfl rfl
theorem jclr (gd : Guard) (n : BitVec 4) : Statement (.jclr gd n) := of_word rfl rfl rfl rfl rfl
theorem jwait (gd : Guard) (n : BitVec 4) : Statement (.jwait gd n) := of_word rfl rfl rfl rfl rfl
theorem trap (gd : Guard) (e : BitVec 6) : Statement (.trap gd e) := of_word rfl rfl rfl rfl rfl
theorem exit (gd : Guard) : Statement (.exit gd) := of_word rfl rfl rfl rfl rfl
theorem mark (rec : BitVec 16) : Statement (.mark rec) := of_word rfl rfl rfl rfl rfl
theorem markD (rec : BitVec 16) : Statement (.markD rec) := of_word rfl rfl rfl rfl rfl
theorem barInit (gd : Guard) (b : BitVec 7) (sc : BarScope) (n : SSrc) : Statement (.barInit gd b sc n) := of_word rfl rfl rfl rfl rfl
theorem barArr (gd : Guard) (b : BitVec 7) : Statement (.barArr gd b) := of_word rfl rfl rfl rfl rfl
theorem barArrRel (b : BitVec 7) (rec : BitVec 16) : Statement (.barArrRel b rec) := of_word rfl rfl rfl rfl rfl
theorem barWait (gd : Guard) (b : BitVec 7) : Statement (.barWait gd b) := of_word rfl rfl rfl rfl rfl
theorem barAw (gd : Guard) (b : BitVec 7) : Statement (.barAw gd b) := of_word rfl rfl rfl rfl rfl
theorem tlwait (gd : Guard) (n : BitVec 5) (delta : BitVec 16) : Statement (.tlwait gd n delta) := of_word rfl rfl rfl rfl rfl
theorem tlinc (gd : Guard) (n : BitVec 3) (amt : SSrc) (rem : Option (BitVec 8 × BitVec 8)) : Statement (.tlinc gd n amt rem) := by
  cases rem with
  | none => exact of_word rfl rfl rfl rfl rfl
  | some d => exact of_word rfl rfl rfl rfl rfl
theorem tlrd (gd : Guard) (d : SDst) (n : BitVec 5) : Statement (.tlrd gd d n) := of_word rfl rfl rfl rfl rfl
theorem tlbase (gd : Guard) (n : BitVec 5) (add : Bool) (a : SSrc) : Statement (.tlbase gd n add a) := of_word rfl rfl rfl rfl rfl
theorem ldB (o : LdA) : Statement (.ldB o) := of_word rfl rfl rfl rfl rfl
theorem ldH (o : LdA) : Statement (.ldH o) := of_word rfl rfl rfl rfl rfl
theorem ldW (o : LdA) : Statement (.ldW o) := of_word rfl rfl rfl rfl rfl
theorem ldD (o : LdA) : Statement (.ldD o) := of_word rfl rfl rfl rfl rfl
theorem ldsB (o : LdA) : Statement (.ldsB o) := of_word rfl rfl rfl rfl rfl
theorem ldsH (o : LdA) : Statement (.ldsH o) := of_word rfl rfl rfl rfl rfl
theorem ldsW (o : LdA) : Statement (.ldsW o) := of_word rfl rfl rfl rfl rfl
theorem stB (o : StA) : Statement (.stB o) := of_word rfl rfl rfl rfl rfl
theorem stH (o : StA) : Statement (.stH o) := of_word rfl rfl rfl rfl rfl
theorem stW (o : StA) : Statement (.stW o) := of_word rfl rfl rfl rfl rfl
theorem stD (o : StA) : Statement (.stD o) := of_word rfl rfl rfl rfl rfl
theorem ldx (o : LdxA) : Statement (.ldx o) := of_word rfl rfl rfl rfl rfl
theorem stx (o : StxA) : Statement (.stx o) := of_word rfl rfl rfl rfl rfl
theorem xlate (o : XlateA) : Statement (.xlate o) := of_word rfl rfl rfl rfl rfl
theorem hrel (gd : Guard) (h : BitVec 4) : Statement (.hrel gd h) := of_word rfl rfl rfl rfl rfl
theorem gld (o : GldA) : Statement (.gld o) := of_word rfl rfl rfl rfl rfl
theorem gst (o : GstA) : Statement (.gst o) := of_word rfl rfl rfl rfl rfl
theorem atom (o : AtomA) : Statement (.atom o) := of_word rfl rfl rfl rfl rfl
theorem atomr (o : AtomrA) : Statement (.atomr o) := of_word rfl rfl rfl rfl rfl
theorem red (o : AtomA) : Statement (.red o) := of_word rfl rfl rfl rfl rfl
theorem fenceC (gd : Guard) (m : BitVec 16) : Statement (.fenceC gd m) := of_word rfl rfl rfl rfl rfl
theorem vld (o : VldA) : Statement (.vld o) := of_word rfl rfl rfl rfl rfl
theorem vst (o : VstA) : Statement (.vst o) := of_word rfl rfl rfl rfl rfl
theorem vgath (o : VgathA) : Statement (.vgath o) := of_word rfl rfl rfl rfl rfl
theorem vscat (o : VscatA) : Statement (.vscat o) := of_word rfl rfl rfl rfl rfl
theorem vadd (o : VopA) : Statement (.vadd o) := of_word rfl rfl rfl rfl rfl
theorem vsub (o : VopA) : Statement (.vsub o) := of_word rfl rfl rfl rfl rfl
theorem vmul (o : VopA) : Statement (.vmul o) := of_word rfl rfl rfl rfl rfl
theorem vmin (o : VopA) : Statement (.vmin o) := of_word rfl rfl rfl rfl rfl
theorem vmax (o : VopA) : Statement (.vmax o) := of_word rfl rfl rfl rfl rfl
theorem vabs (o : VopA) : Statement (.vabs o) := of_word rfl rfl rfl rfl rfl
theorem vneg (o : VopA) : Statement (.vneg o) := of_word rfl rfl rfl rfl rfl
theorem vfma (o : VopA) : Statement (.vfma o) := of_word rfl rfl rfl rfl rfl
theorem vand (o : VopA) : Statement (.vand o) := of_word rfl rfl rfl rfl rfl
theorem vor (o : VopA) : Statement (.vor o) := of_word rfl rfl rfl rfl rfl
theorem vxor (o : VopA) : Statement (.vxor o) := of_word rfl rfl rfl rfl rfl
theorem vshl (o : VopA) : Statement (.vshl o) := of_word rfl rfl rfl rfl rfl
theorem vshr (o : VopA) : Statement (.vshr o) := of_word rfl rfl rfl rfl rfl
theorem vsar (o : VopA) : Statement (.vsar o) := of_word rfl rfl rfl rfl rfl
theorem vadds (o : VopA) : Statement (.vadds o) := of_word rfl rfl rfl rfl rfl
theorem vsubs (o : VopA) : Statement (.vsubs o) := of_word rfl rfl rfl rfl rfl
theorem vcmpeq (o : VcmpA) : Statement (.vcmpeq o) := of_word rfl rfl rfl rfl rfl
theorem vcmpne (o : VcmpA) : Statement (.vcmpne o) := of_word rfl rfl rfl rfl rfl
theorem vcmplt (o : VcmpA) : Statement (.vcmplt o) := of_word rfl rfl rfl rfl rfl
theorem vcmple (o : VcmpA) : Statement (.vcmple o) := of_word rfl rfl rfl rfl rfl
theorem vsel (o : VopA) : Statement (.vsel o) := of_word rfl rfl rfl rfl rfl
theorem vmov (o : VopA) : Statement (.vmov o) := of_word rfl rfl rfl rfl rfl
theorem vbcast (o : VopA) : Statement (.vbcast o) := of_word rfl rfl rfl rfl rfl
theorem vperm (o : VopA) : Statement (.vperm o) := of_word rfl rfl rfl rfl rfl
theorem vext (o : VscalA) : Statement (.vext o) := of_word rfl rfl rfl rfl rfl
theorem vins (o : VopA) : Statement (.vins o) := of_word rfl rfl rfl rfl rfl
theorem vredsum (o : VscalA) : Statement (.vredsum o) := of_word rfl rfl rfl rfl rfl
theorem vredmax (o : VscalA) : Statement (.vredmax o) := of_word rfl rfl rfl rfl rfl
theorem vredmin (o : VscalA) : Statement (.vredmin o) := of_word rfl rfl rfl rfl rfl
theorem vcvt (o : VopA) : Statement (.vcvt o) := of_word rfl rfl rfl rfl rfl
theorem vqscale (o : VscalA) : Statement (.vqscale o) := of_word rfl rfl rfl rfl rfl
theorem vquant (o : VopA) : Statement (.vquant o) := of_word rfl rfl rfl rfl rfl
theorem vdq (o : VopA) : Statement (.vdq o) := of_word rfl rfl rfl rfl rfl
theorem vtbl (o : VopA) : Statement (.vtbl o) := of_word rfl rfl rfl rfl rfl
theorem lmand (o : Lm2A) : Statement (.lmand o) := of_word rfl rfl rfl rfl rfl
theorem lmor (o : Lm2A) : Statement (.lmor o) := of_word rfl rfl rfl rfl rfl
theorem lmxor (o : Lm2A) : Statement (.lmxor o) := of_word rfl rfl rfl rfl rfl
theorem lmandn (o : Lm2A) : Statement (.lmandn o) := of_word rfl rfl rfl rfl rfl
theorem lmset (o : LmsetA) : Statement (.lmset o) := of_word rfl rfl rfl rfl rfl
theorem lmpopc (o : LmpopcA) : Statement (.lmpopc o) := of_word rfl rfl rfl rfl rfl
theorem mma (o : MmaA) : Statement (.mma o) := of_word rfl rfl rfl rfl rfl
theorem mmas (o : MmaA) : Statement (.mmas o) := of_word rfl rfl rfl rfl rfl
theorem mzero (com : MxCom) (slot : BitVec 3) : Statement (.mzero com slot) := of_word rfl rfl rfl rfl rfl
theorem mset (gd : Guard) (n : BitVec 3) (a : SSrc) (imm : BitVec 16) : Statement (.mset gd n a imm) := of_word rfl rfl rfl rfl rfl
theorem mdrain (o : MdrainA) : Statement (.mdrain o) := of_word rfl rfl rfl rfl rfl
theorem macc (com : MxCom) (slot : BitVec 3) (src : TOp) : Statement (.macc com slot src) := of_word rfl rfl rfl rfl rfl
theorem tmld (o : TmA) : Statement (.tmld o) := of_word rfl rfl rfl rfl rfl
theorem tmst (o : TmA) : Statement (.tmst o) := of_word rfl rfl rfl rfl rfl
theorem tmmv (com : MxCom) (tgt : TOp) (src : TOp) : Statement (.tmmv com tgt src) := of_word rfl rfl rfl rfl rfl
theorem mrset (o : MaskA) : Statement (.mrset o) := of_word rfl (encMaskR_word _ _).1 (encMaskR_word _ _).2 rfl rfl
theorem mcset (o : MaskA) : Statement (.mcset o) := of_word rfl (encMaskR_word _ _).1 (encMaskR_word _ _).2 rfl rfl
theorem descSet (gd : Guard) (ds : BitVec 4) (p : BitVec 2) (a b : SSrc) : Statement (.descSet gd ds p a b) := of_word rfl rfl rfl rfl rfl
theorem descGet (gd : Guard) (d : SDst) (ds : BitVec 4) (w : BitVec 3) : Statement (.descGet gd d ds w) := of_word rfl rfl rfl rfl rfl
theorem engStat (gd : Guard) (d : SDst) (n : BitVec 5) : Statement (.engStat gd d n) := of_word rfl rfl rfl rfl rfl
theorem ceIn (o : EngA) : Statement (.ceIn o) := of_word rfl rfl rfl rfl rfl
theorem ceOut (o : EngA) : Statement (.ceOut o) := of_word rfl rfl rfl rfl rfl
theorem ceOutr (o : EngA) (op : AOp) : Statement (.ceOutr o op) := of_word rfl rfl rfl rfl rfl
theorem ceB (o : EngA) : Statement (.ceB o) := of_word rfl rfl rfl rfl rfl
theorem ceWin (o : EngA) : Statement (.ceWin o) := of_word rfl rfl rfl rfl rfl
theorem ceGath (o : EngA) : Statement (.ceGath o) := of_word rfl rfl rfl rfl rfl
theorem ceScat (o : EngA) : Statement (.ceScat o) := of_word rfl rfl rfl rfl rfl
theorem ceXfer (o : EngA) : Statement (.ceXfer o) := of_word rfl rfl rfl rfl rfl
theorem ceFill (o : EngA) : Statement (.ceFill o) := of_word rfl rfl rfl rfl rfl
theorem colRed (o : EngA) (op : AOp) : Statement (.colRed o op) := of_word rfl rfl rfl rfl rfl
theorem colAg (o : EngA) : Statement (.colAg o) := of_word rfl rfl rfl rfl rfl
theorem colBc (o : EngA) : Statement (.colBc o) := of_word rfl rfl rfl rfl rfl
theorem colQ (o : ColqA) : Statement (.colQ o) := of_word rfl rfl rfl rfl rfl
theorem colQFree (o : ColqA) : Statement (.colQFree o) := of_word rfl rfl rfl rfl rfl
theorem teLoad (gd : Guard) (rpl : Option SDst) (tab : BitVec 3) (a b : SSrc) : Statement (.teLoad gd rpl tab a b) := of_word rfl rfl rfl rfl rfl
theorem teCfg (gd : Guard) (tab : BitVec 3) (lo hi : BitVec 2) (a : SSrc) : Statement (.teCfg gd tab lo hi a) := of_word rfl rfl rfl rfl rfl
theorem schEnq (o : SchA) : Statement (.schEnq o) := of_word rfl rfl rfl rfl rfl
theorem schRaise (o : SchA) : Statement (.schRaise o) := of_word rfl rfl rfl rfl rfl
theorem schPost (o : SchA) : Statement (.schPost o) := of_word rfl rfl rfl rfl rfl
theorem resultLanding (r : Nat) : Statement (.resultLanding r) := of_none rfl
theorem storePerform (r : Nat) : Statement (.storePerform r) := of_none rfl
theorem remoteLoadSample (r : Nat) : Statement (.remoteLoadSample r) := of_none rfl
theorem gldDataArrival (r id : Nat) : Statement (.gldDataArrival r id) := of_none rfl
theorem xlateWalkComplete (r id : Nat) : Statement (.xlateWalkComplete r id) := of_none rfl
theorem atomrResultArrival (r id : Nat) : Statement (.atomrResultArrival r id) := of_none rfl
theorem homeAtomicApply (r id : Nat) : Statement (.homeAtomicApply r id) := of_none rfl
theorem globalStorePerformed (r id : Nat) : Statement (.globalStorePerformed r id) := of_none rfl
theorem itemRefusal (r : Nat) (o : Refused) : Statement (.itemRefusal r o) := of_none rfl
theorem commit (r : Nat) : Statement (.commit r) := of_none rfl
theorem finalCommit (r : Nat) : Statement (.finalCommit r) := of_none rfl
theorem launchCompletionPost (r : Nat) : Statement (.launchCompletionPost r) := of_none rfl
theorem barArrivalEffect (r : Nat) : Statement (.barArrivalEffect r) := of_none rfl
theorem barrierPhaseComplete (r : Nat) : Statement (.barrierPhaseComplete r) := of_none rfl
theorem tlincEffect (r : Nat) : Statement (.tlincEffect r) := of_none rfl
theorem mailboxApply (r : Nat) : Statement (.mailboxApply r) := of_none rfl
theorem matrixCommandStart (r t : Nat) : Statement (.matrixCommandStart r t) := of_none rfl
theorem matrixCommandComplete (r t : Nat) : Statement (.matrixCommandComplete r t) := of_none rfl
theorem copyCommandCounted (r id : Nat) : Statement (.copyCommandCounted r id) := of_none rfl
theorem collectiveCounted (r id : Nat) (others : List Contrib) : Statement (.collectiveCounted r id others) := of_none rfl
theorem colQAnswer (r id : Nat) (granted : Option (List Nat)) : Statement (.colQAnswer r id granted) := of_none rfl
theorem tableLoadCounted (r id : Nat) : Statement (.tableLoadCounted r id) := of_none rfl
theorem schedulerFunctionApplied (r id : Nat) : Statement (.schedulerFunctionApplied r id) := of_none rfl
theorem engineContextCause (r : Nat) (o : Refused) : Statement (.engineContextCause r o) := of_none rfl
theorem deadlineFault (r : Nat) : Statement (.deadlineFault r) := of_none rfl
theorem freezeBudgetExpiry (r : Nat) : Statement (.freezeBudgetExpiry r) := of_none rfl
theorem handlerDisposition (r : Nat) : Statement (.handlerDisposition r) := of_none rfl
theorem queueDoorbell (q : Nat) (w : Word) : Statement (.queueDoorbell q w) := of_none rfl
theorem queueEnable (q : Nat) (v : Word) : Statement (.queueEnable q v) := of_none rfl
theorem queueRestart (q : Nat) : Statement (.queueRestart q) := of_none rfl
theorem pad (q : Nat) : Statement (.pad q) := of_none rfl
theorem launch (q : Nat) : Statement (.launch q) := of_none rfl
theorem wait (q : Nat) : Statement (.wait q) := of_none rfl
theorem waitSatisfied (q : Nat) (node : Option Nat) : Statement (.waitSatisfied q node) := of_none rfl
theorem signalTimeline (q : Nat) : Statement (.signalTimeline q) := of_none rfl
theorem signalStore (q : Nat) : Statement (.signalStore q) := of_none rfl
theorem signalAdd (q : Nat) : Statement (.signalAdd q) := of_none rfl
theorem signalPost (q : Nat) : Statement (.signalPost q) := of_none rfl
theorem graph (q : Nat) : Statement (.graph q) := of_none rfl
theorem graphNodeRun (q n : Nat) : Statement (.graphNodeRun q n) := of_none rfl
theorem load (q : Nat) : Statement (.load q) := of_none rfl
theorem unload (q : Nat) : Statement (.unload q) := of_none rfl
theorem launchPlacement (c : CandRef) (p : Place) (p2 : Option Place) : Statement (.launchPlacement c p p2) := of_none rfl
theorem resumption (r : Nat) (p : Place) : Statement (.resumption r p) := of_none rfl
theorem bankClearDone (x y : Nat) : Statement (.bankClearDone x y) := of_none rfl
theorem dualRunVerdict (r : Nat) : Statement (.dualRunVerdict r) := of_none rfl
theorem majorityDecision (r : Nat) : Statement (.majorityDecision r) := of_none rfl
theorem mailboxWrite (q : Nat) (n : BitVec 4) (v : Word) : Statement (.mailboxWrite q n v) := of_none rfl
theorem preemptAll (part : Nat) : Statement (.preemptAll part) := of_none rfl
theorem pageAnswerSuccess (part idx : Nat) (gen : BitVec 32) : Statement (.pageAnswerSuccess part idx gen) := of_none rfl
theorem pageAnswerRefused (part idx : Nat) (gen : BitVec 32) : Statement (.pageAnswerRefused part idx gen) := of_none rfl
theorem invalidateAddress (part : Nat) (v : Word) : Statement (.invalidateAddress part v) := of_none rfl
theorem invalidateAll (part : Nat) : Statement (.invalidateAll part) := of_none rfl
theorem invalidationComplete (part : Nat) : Statement (.invalidationComplete part) := of_none rfl
theorem globalReplay (part : Nat) : Statement (.globalReplay part) := of_none rfl
theorem registerWrite (fn bar off : Nat) (v : Word) : Statement (.registerWrite fn bar off v) := of_none rfl
theorem quadLend (q part : Nat) : Statement (.quadLend q part) := of_none rfl
theorem quadReclaim (q : Nat) : Statement (.quadReclaim q) := of_none rfl
theorem reclaimTimeout (r : Nat) : Statement (.reclaimTimeout r) := of_none rfl
theorem peerRequest (dev : BitVec 20) (tenant : BitVec 16) (addr : Nat) (op : PeerOp) : Statement (.peerRequest dev tenant addr op) := of_none rfl
theorem hostMemAccess (part addr : Nat) (op : HostOp) : Statement (.hostMemAccess part addr op) := of_none rfl
theorem pelaroRequestResend (r id : Nat) : Statement (.pelaroRequestResend r id) := of_none rfl
theorem peerUnresponsive (dev : BitVec 20) : Statement (.peerUnresponsive dev) := of_none rfl
theorem synthesisedReply (r id : Nat) : Statement (.synthesisedReply r id) := of_none rfl
theorem pelaroPortDown (port : BitVec 5) (retrains : Bool) : Statement (.pelaroPortDown port retrains) := of_none rfl
theorem hostLinkDown (c : FatalCase) (die : BitVec 2) : Statement (.hostLinkDown c die) := of_none rfl
theorem patrolScrub (sector : Nat) (f : ScrubFind) : Statement (.patrolScrub sector f) := of_none rfl
theorem deviceReset (b : BootRec) : Statement (.deviceReset b) := of_none rfl
theorem quoteRequest (nonce : BitVec 256) : Statement (.quoteRequest nonce) := of_none rfl
theorem turnoverStart (t : TurnRec) : Statement (.turnoverStart t) := of_none rfl
theorem clockCapWrite (v : Word) : Statement (.clockCapWrite v) := of_none rfl
theorem clockStepChange (o : StepChange) : Statement (.clockStepChange o) := of_none rfl
theorem quadPowerGate (q : Nat) : Statement (.quadPowerGate q) := of_none rfl
theorem quadWakeDone (q : Nat) : Statement (.quadWakeDone q) := of_none rfl
theorem errorOverflowClear (fn : Nat) : Statement (.errorOverflowClear fn) := of_none rfl
theorem errorCounterClear (fn : Nat) (c : ErrCtr) : Statement (.errorCounterClear fn c) := of_none rfl
theorem aerStatusClear (fn : Nat) (corrected : Bool) (v : Word) : Statement (.aerStatusClear fn corrected v) := of_none rfl
theorem deviceReadmission (dev : BitVec 20) (epoch : BitVec 10) : Statement (.deviceReadmission dev epoch) := of_none rfl
theorem hostCompletionTimeout (r : Nat) (o : Unanswered) : Statement (.hostCompletionTimeout r o) := of_none rfl
theorem controlStateLost (r t : Nat) : Statement (.controlStateLost r t) := of_none rfl

end Sys2Proof.Laws.EncodedWord
end

