-- ==== Sys2Proof/Laws/Storage.lean ====
section
/-! SUPPORT. What the shared operations of the machine do to the storage outside the tiles: its canonical form stays
(`StorageForm`). An operation that writes none of it keeps the form because the three memories are the same. -/

namespace Sys2Proof.Machine

/-! ### Updates that write no storage -/

theorem form_of_eq {s t : State} (hs : StorageForm s) (h1 : t.hbm = s.hbm) (h2 : t.host = s.host) (h3 : t.peers = s.peers) :
    StorageForm t := by
  unfold StorageForm
  rw [h1, h2, h3]
  exact hs

theorem form_setRegion {s : State} (g : Region) (h : StorageForm s) : StorageForm (s.setRegion g) := h
theorem form_modRegion {s : State} (r : Nat) (f : Region → Region) (h : StorageForm s) : StorageForm (s.modRegion r f) := h
theorem form_dropRegion {s : State} (r : Nat) (h : StorageForm s) : StorageForm (s.dropRegion r) := h
theorem form_setPart {s : State} (p : Part) (h : StorageForm s) : StorageForm (s.setPart p) := h
theorem form_modPart {s : State} (n : Nat) (f : Part → Part) (h : StorageForm s) : StorageForm (s.modPart n f) := h
theorem form_modQueue {s : State} (q : Nat) (f : Queue → Queue) (h : StorageForm s) : StorageForm (s.modQueue q f) := h
theorem form_leaveReqs {s : State} (n : Nat) (f : Asker → Bool) (h : StorageForm s) : StorageForm (s.leaveReqs n f) := h

theorem form_foldl {α : Type} {f : State → α → State} (hf : ∀ s a, StorageForm s → StorageForm (f s a)) :
    ∀ (l : List α) {s : State}, StorageForm s → StorageForm (l.foldl f s)
  | [], _, h => h
  | a :: l, _, h => form_foldl hf l (hf _ a h)

/-! ### Writes -/

theorem form_homeWrite {s : State} (n : Nat) (x : Home) (ps : List PByte) (h : StorageForm s) :
    StorageForm (s.homeWrite n x ps) := by
  unfold State.homeWrite
  split
  · exact h
  · split
    · exact ⟨writeLocal_wf _ _ _ _ h.1, h.2⟩
    · exact ⟨h.1, write_wf _ _ _ h.2.1, h.2.2⟩
    · exact ⟨h.1, write_wf _ _ _ h.2.1, h.2.2⟩
    · refine ⟨h.1, h.2.1, fun y hy => ?_⟩
      obtain ⟨x, hx, rfl⟩ := List.mem_map.1 hy
      split
      · exact write_wf _ _ _ (h.2.2 x hx)
      · exact h.2.2 x hx

theorem form_vwrite (f : Nat) {s : State} (n va : Nat) (ps : List PByte) (h : StorageForm s) :
    StorageForm (State.vwrite f s n va ps).1 := by
  induction f generalizing s va ps with
  | zero => exact h
  | succ f ih =>
    unfold State.vwrite
    split
    · exact h
    · split
      · exact h
      · dsimp only
        split
        · exact h
        · exact ih _ _ (form_homeWrite _ _ _ h)

theorem form_writeV {s : State} (n va : Nat) (ps : List PByte) (h : StorageForm s) : StorageForm (s.writeV n va ps).1 :=
  form_vwrite _ _ _ _ h

theorem form_post {s t : State} {n d : Nat} {p : Posting} (h : StorageForm s) (ht : s.post n d p = .ok t) : StorageForm t := by
  unfold State.post at ht
  split at ht
  · cases ht; exact h
  · cases hr : s.readV n d 32 with
    | error e => simp [hr, bind, Except.bind] at ht
    | ok old =>
      simp only [hr, bind, Except.bind] at ht
      have hw := form_writeV n d (clean (postBytes (old.map (·.1)) p)) h
      generalize s.writeV n d (clean (postBytes (old.map (·.1)) p)) = w at ht hw
      obtain ⟨u, c⟩ := w
      cases c with
      | none => simp only [pure, Except.pure, Except.ok.injEq] at ht; rw [← ht]; exact hw
      | some c => cases ht

/-! ### Records -/

theorem ringWrite_wf {m : Mem} (r : ErrRegs) (tag : BitVec 16) (e : Event) (h : m.wf = true) :
    (ringWrite m r tag e).1.wf = true := by
  unfold ringWrite
  dsimp only
  split
  · exact h
  · simp only [write_wf _ _ _ h]

theorem form_recordPf {s : State} (tag : BitVec 16) (e : Event) (h : StorageForm s) : StorageForm (s.recordPf tag e) :=
  ⟨h.1, ringWrite_wf _ _ _ h.2.1, h.2.2⟩

theorem form_record {s : State} (n : Nat) (b : Bool) (e : Event) (h : StorageForm s) : StorageForm (s.record n b e) := by
  unfold State.record
  split
  · exact h
  · next p _ =>
    refine form_recordPf _ _ ?_
    have hw := ringWrite_wf p.err p.tag e h.2.1
    generalize ringWrite s.host p.err p.tag e = w at hw
    obtain ⟨m, r⟩ := w
    split
    · exact ⟨h.1, hw, h.2.2⟩
    · exact form_setPart _ h

theorem form_notice {s : State} (n : Nat) (e : Event) (h : StorageForm s) : StorageForm (s.notice n e) := by
  unfold State.notice
  split
  · exact h
  · exact form_record _ _ _ h

theorem form_corrected {s : State} (n : Option Nat) (c : ErrCtr) (h : StorageForm s) : StorageForm (s.corrected n c) := by
  unfold State.corrected
  dsimp only
  repeat' split
  all_goals first
    | exact h
    | exact form_recordPf _ _ h
    | exact form_setPart _ (form_recordPf _ _ h)
    | exact form_notice _ _ (form_setPart _ (form_recordPf _ _ h))
    | exact form_notice _ _ h

theorem writeReqs_wf (f : Nat) {m : Mem} (p : Part) (h : m.wf = true) : (writeReqs f m p).1.wf = true := by
  induction f generalizing m p with
  | zero => exact h
  | succ f ih =>
    unfold writeReqs
    split
    · exact h
    · split
      · exact ih _ h
      · split
        · exact h
        · exact ih _ (write_wf _ _ _ h)

theorem form_flushReqs {s : State} (n : Nat) (h : StorageForm s) : StorageForm (s.flushReqs n) := by
  unfold State.flushReqs
  split
  · exact h
  · exact ⟨h.1, writeReqs_wf _ _ h.2.1, h.2.2⟩

theorem form_pageRequest {s : State} (n va : Nat) (gen : BitVec 32) (a : Asker) (w c o t : Nat) (h : StorageForm s) :
    StorageForm (s.pageRequest n va gen a w c o t) := by
  unfold State.pageRequest
  split
  · exact h
  · dsimp only
    split
    · exact h
    · exact form_flushReqs _ (form_setPart _ h)

/-! ### Saving -/

theorem form_putLocal {s : State} (p : Part) (a : Nat) (ps : List PByte) (h : StorageForm s) :
    StorageForm (s.putLocal p a ps) := ⟨writeLocal_wf _ _ _ _ h.1, h.2⟩

theorem form_writeOut {s : State} (p : Part) (pos : Nat) (g : Region) (x : HeldTile) (h : StorageForm s) :
    StorageForm (s.writeOut p pos g x) := by
  refine form_foldl (fun s r h => ?_) _ h
  dsimp only
  split
  · exact form_putLocal _ _ _ h
  · exact h

theorem form_writeSave {s : State} (p : Part) (g : Region) (ra : Option Raise) (pos : Nat) (h : StorageForm s) :
    StorageForm (s.writeSave p g ra pos) := by
  unfold State.writeSave
  have all := form_putLocal p (pos + 64 + g.saveBytes) (clean (g.parkedCmds.flatMap Cmd.record))
    (form_foldl (f := fun s t => s.putLocal p (pos + g.bodyAt t) (g.bodyHead t)) (fun s t h => form_putLocal p _ _ h)
      (List.range g.tiles.length)
      (form_foldl (f := fun s t => s.putLocal p (pos + blockAt t) (clean (tileBlock g t))) (fun s t h => form_putLocal p _ _ h)
        (List.range g.tiles.length) (form_putLocal p pos (clean (g.saveHeader s.fresh)) h)))
  dsimp only
  split
  · exact all
  · exact form_putLocal _ _ _ all

theorem form_releaseHeld {s : State} (g : Region) (out : HeldTile → HeldTile) (h : StorageForm s) :
    StorageForm (s.releaseHeld g out) := by
  unfold State.releaseHeld
  split
  · exact form_setRegion _ (form_foldl (fun _ _ h => form_writeOut _ _ _ _ h) _ h)
  · exact h

theorem form_emptyQuad {s : State} (q : Nat) (h : StorageForm s) : StorageForm (s.emptyQuad q) :=
  form_foldl (fun _ _ h => form_releaseHeld _ _ h) _ h

theorem form_saveNow {s : State} (p : Part) (g : Region) (ra : Option Raise) (h : StorageForm s) :
    StorageForm (s.saveNow p g ra) := by
  unfold State.saveNow
  dsimp only
  split
  · exact form_of_eq (form_writeSave p g ra _ h) rfl rfl rfl
  · exact form_of_eq (form_foldl (fun _ x h => form_writeOut p _ g x h) _ (form_writeSave p g ra _ h)) rfl rfl rfl

theorem form_trySave {s : State} (r : Nat) (h : StorageForm s) : StorageForm (s.trySave r) := by
  unfold State.trySave
  split
  · exact h
  · split
    · split
      · exact form_saveNow _ _ _ h
      · exact h
    · exact h

theorem form_startSave {s : State} (r : Nat) (ra : Option Raise) (h : StorageForm s) : StorageForm (s.startSave r ra) := by
  unfold State.startSave
  split
  · exact h
  · exact form_trySave _ (form_setRegion _ h)

/-! ### Ending, killing -/

theorem form_dropReqs {s : State} (g : Region) (as : List Await) (h : StorageForm s) : StorageForm (s.dropReqs g as) := by
  unfold State.dropReqs
  dsimp only
  split <;> exact h

theorem form_endRegion {s : State} (g : Region) (c : Cause) (h : StorageForm s) : StorageForm (s.endRegion g c) := h

theorem form_leave {s : State} (x : Region) (h : StorageForm s) : StorageForm (s.leave x) := h

theorem form_killInterrupted {s : State} (g : Region) (h : StorageForm s) : StorageForm (s.killInterrupted g) := by
  unfold State.killInterrupted
  split
  · split <;> exact h
  · exact h

theorem form_kill {s : State} (r : Nat) (c : Cause) (h : StorageForm s) : StorageForm (s.kill r c) := by
  unfold State.kill
  split
  · exact h
  · split
    · exact h
    · refine form_killInterrupted _ (form_endRegion _ _ (form_foldl (fun s x h => ?_) _ h))
      split <;> exact h
    · exact h
    · dsimp only
      split
      · exact form_killInterrupted _ (form_setRegion _ (form_endRegion _ _ h))
      · exact h
    · exact form_killInterrupted _ (form_endRegion _ _ h)

/-! ### Suspect quads -/

theorem form_checkShort {s : State} (h : StorageForm s) : StorageForm s.checkShort := by
  unfold State.checkShort
  split
  · exact form_recordPf _ _ h
  · exact h

theorem form_quarantine {s : State} (q : Nat) (h : StorageForm s) : StorageForm (s.quarantine q) := by
  unfold State.quarantine
  apply form_checkShort
  dsimp only
  repeat' split
  all_goals first
    | exact form_notice _ _ (form_emptyQuad _ h)
    | exact form_recordPf _ _ (form_emptyQuad _ h)
    | exact form_notice _ _ h
    | exact form_recordPf _ _ h

theorem form_suspect {s : State} (q n : Nat) (h : StorageForm s) : StorageForm (s.suspect q n) := by
  unfold State.suspect
  dsimp only
  split
  · exact form_quarantine _ h
  · exact h

/-! ### Taking a cause -/

theorem form_recordCause {s : State} (g : Region) (ra : Raise) (a : Action) (f n : Bool) (h : StorageForm s) :
    StorageForm (s.recordCause g ra a f n) := form_record _ _ _ h

theorem form_tellPage {s : State} (n page : Nat) (h : StorageForm s) : StorageForm (s.tellPage n page).1 := by
  unfold State.tellPage
  split
  · exact h
  · split <;> exact h

theorem form_queuePark {s : State} (n q : Nat) (c : Cause) (va : Nat) (h : StorageForm s) :
    StorageForm (s.queuePark n q c va) := by
  unfold State.queuePark
  split
  · exact h
  · dsimp only
    split
    · exact form_record _ _ _ (form_pageRequest _ _ _ _ _ _ _ _ (form_modQueue _ _ h))
    · split
      · exact form_tellPage _ _ (form_modQueue _ _ h)
      · exact form_record _ _ _ (form_tellPage _ _ (form_modQueue _ _ h))

theorem form_queueCauseN (f : Nat) {s : State} (n q : Nat) (c : Cause) (va : Nat) (o : Option Nat) (h : StorageForm s) :
    StorageForm (s.queueCauseN f n q c va o) := by
  induction f generalizing s q c va o with
  | zero => exact h
  | succ f ih =>
    unfold State.queueCauseN
    split
    · exact h
    · split
      · exact form_queuePark _ _ _ _ h
      · dsimp only
        repeat' split
        all_goals first
          | exact form_modQueue _ _ (form_record _ _ _ (form_modQueue _ _ h))
          | exact ih _ _ _ _ (form_record _ _ _ (form_modQueue _ _ h))
          | exact form_record _ _ _ (form_modQueue _ _ h)

theorem form_queueCause {s : State} (n q : Nat) (c : Cause) (va : Nat) (h : StorageForm s) :
    StorageForm (s.queueCause n q c va) := form_queueCauseN _ _ _ _ _ _ h

theorem form_forward {s : State} (r : Nat) (ra : Raise) (q : Nat) (h : StorageForm s) : StorageForm (s.forward r ra q) := by
  unfold State.forward
  split
  · exact h
  · split
    · exact form_kill _ _ h
    · dsimp only
      split
      · exact form_startSave _ _ (form_setRegion _ (form_modQueue _ _ (form_leaveReqs _ _ h)))
      · exact form_queueCause _ _ _ _ (form_kill _ _ (form_leaveReqs _ _ h))
      · exact form_kill _ _ (form_leaveReqs _ _ h)

theorem form_frog {s : State} (r : Nat) (c : Option Cause) (h : StorageForm s) : StorageForm (s.frog r c) := by
  unfold State.frog
  split
  · exact h
  · exact form_foldl (fun _ _ h => form_leaveReqs _ _ h) _ (form_dropReqs _ _ h)

theorem form_frogAct {s : State} (r : Nat) (ra : Raise) (h : StorageForm s) : StorageForm (s.frogAct r ra) := by
  unfold State.frogAct
  split
  · exact h
  · split
    · exact form_modRegion _ _ (form_frog _ _ h)
    · exact h

theorem form_act {s : State} (r : Nat) (ra : Raise) (a : Action) (q : Nat) (h : StorageForm s) : StorageForm (s.act r ra a q) := by
  unfold State.act
  split
  · exact h
  · split
    · exact form_kill _ _ h
    · split
      · exact h
      · exact form_trySave _ (form_setRegion _ h)
      · exact form_trySave _ h
      · exact h
      · dsimp only
        split
        · exact form_startSave _ _ (form_setRegion _ h)
        · exact h
    · dsimp only
      split <;> exact h
    · split
      · split
        · exact form_forward _ _ _ (form_frogAct _ _ (form_kill _ _ h))
        · exact form_kill _ _ h
      · exact form_forward _ _ _ (form_foldl (fun _ _ h => form_kill _ _ h) _ h)
      · exact form_kill _ _ h
      · exact form_forward _ _ _ h

theorem form_apply {s : State} (g : Region) (ra : Raise) (a : Action) (e : BitVec 32) (h : StorageForm s) :
    StorageForm (s.apply g ra a e) := form_act _ _ _ _ (form_recordCause _ _ _ _ _ (form_setRegion _ h))

theorem form_pastLimit {s : State} (p : Part) (g : Region) (ra : Raise) (h : StorageForm s) : StorageForm (s.pastLimit p g ra) :=
  form_apply _ _ _ _ h

theorem form_byTable {s : State} (r : Nat) (ra : Raise) (h : StorageForm s) : StorageForm (s.byTable r ra) := by
  unfold State.byTable
  split
  · exact h
  · split
    · exact h
    · dsimp only
      split
      · exact form_pastLimit _ _ _ h
      · exact form_apply _ _ _ _ h

theorem form_fixedReplay {s : State} (r : Nat) (ra : Raise) (c : Bool) (h : StorageForm s) :
    StorageForm (s.fixedReplay r ra c) := by
  unfold State.fixedReplay
  split
  · exact h
  · split
    · exact h
    · dsimp only
      split
      · exact form_pastLimit _ _ _ h
      · exact form_act _ _ _ _ (form_recordCause _ _ _ _ _ (form_setRegion _ h))

theorem form_fixedKill {s : State} (r : Nat) (ra : Raise) (h : StorageForm s) : StorageForm (s.fixedKill r ra) := by
  unfold State.fixedKill
  split
  · exact h
  · exact form_kill _ _ (form_recordCause _ _ _ _ _ h)

theorem form_takeRefetch {s : State} (g : Region) (ra : Raise) (h : StorageForm s) : StorageForm (s.takeRefetch g ra) := by
  unfold State.takeRefetch
  dsimp only
  split
  · exact form_byTable _ _ h
  · exact form_fixedReplay _ _ _ (form_modRegion _ _ h)

theorem form_takePoisonWalk {s : State} (g : Region) (ra : Raise) (h : StorageForm s) :
    StorageForm (s.takePoisonWalk g ra) := by
  unfold State.takePoisonWalk
  dsimp only
  have hw := form_tellPage g.launch.part (s.poisonPage g.launch.part ra.va) h
  generalize s.tellPage g.launch.part (s.poisonPage g.launch.part ra.va) = w at hw
  obtain ⟨u, b⟩ := w
  refine form_act _ _ _ _ ?_
  split
  · exact hw
  · exact form_recordCause _ _ _ _ _ hw

theorem form_takeMiss {s : State} (g : Region) (ra : Raise) (h : StorageForm s) : StorageForm (s.takeMiss g ra) :=
  form_act _ _ _ _ (form_recordCause _ _ _ _ _ (form_pageRequest _ _ _ _ _ _ _ _ h))

theorem form_takeDetection {s : State} (g : Region) (ra : Raise) (h : StorageForm s) : StorageForm (s.takeDetection g ra) := by
  unfold State.takeDetection
  dsimp only
  split
  · exact form_byTable _ _ (form_modRegion _ _ (form_suspect _ _ h))
  · exact form_fixedReplay _ _ _ (form_modRegion _ _ (form_suspect _ _ h))

theorem form_takeCause {s : State} (r : Nat) (ra : Raise) (h : StorageForm s) : StorageForm (s.takeCause r ra) := by
  unfold State.takeCause
  split
  · exact h
  · have hf := form_frog r (some ra.cause) h
    dsimp only
    split
    · exact form_takeMiss _ _ hf
    · exact form_takePoisonWalk _ _ hf
    iterate 3
      · exact form_takeDetection _ _ hf
    · exact form_takeRefetch _ _ hf
    · split
      · exact form_fixedReplay _ _ _ (form_modRegion _ _ (form_suspect _ _ hf))
      · exact form_fixedKill _ _ (form_suspect _ _ hf)
    iterate 2
      · exact form_fixedKill _ _ (form_suspect _ _ hf)
    · exact form_byTable _ _ hf

end Sys2Proof.Machine
end

