-- ==== Sys2Proof/Tests/Slice0.lean ====
section
/-! SUPPORT. The model's own tests: ill-formed terms refused, words assembled from the encoding tables read, causes of
illegal bundles, single steps with results worked from the spec, and for every statement a witness of its hypotheses. -/

set_option maxRecDepth 100000

set_option exponentiation.threshold 1100

namespace Sys2Proof.Tests

open Sys2Proof Machine Claims

/-! ### WellFormed: one ill-formed term for each check -/

def g0 : Guard := ⟨0, false⟩

def vm (f : Fmt) : VMod := ⟨⟨0, false⟩, f, false, false, .rne, false, 0⟩

def mc : MxCom := ⟨g0, false, 0, 0, 0, 0⟩

def at0 : GAtt := ⟨0, .dev, .plain, 0⟩

def illFormed : List Instr :=
  [.bfx ⟨g0, .g 1, .g 2, .imm 60 4⟩, .bfxs ⟨g0, .g 1, .g 2, .imm 63 1⟩, .bfi ⟨g0, .g 1, .g 2, .g 3, 1, 63⟩,
   .ldx ⟨g0, .d, true, .g 1, .g 2, .g 3, 0, 0, 0⟩, .gld ⟨g0, .d, true, .g 1, 0, .g 2, at0, 0⟩,
   .gld ⟨g0, .w, false, .g 1, 0, .g 2, { at0 with flav := .rel }, 0⟩, .gst ⟨g0, .w, 0, .g 1, .g 2, { at0 with flav := .acq }, 0⟩,
   .atom ⟨g0, .add, false, 0, .g 1, .g 2, at0, 0⟩, .atom ⟨g0, .and, false, 0, .g 1, .g 2, { at0 with flav := .ar }, 0⟩,
   .red ⟨g0, .cas, false, 0, .g 1, .g 2, at0, 0⟩, .red ⟨g0, .fadd, true, 0, .g 1, .g 2, at0, 0⟩,
   .atomr ⟨.fadd, true, .g 1, 0, .g 1, .g 2, at0, none⟩, .vgath ⟨g0, 0, .w, true, 0, .g 1, 0, .g 0, 0, 0⟩]

def illFormedVector : List Instr :=
  [.vadd ⟨vm .i4, 0, .v 1, .v 2, .v 0⟩, .vadd ⟨{ vm .i32 with rnd := .rtz }, 0, .v 1, .v 2, .v 0⟩,
   .vadd ⟨{ vm .f32 with sat := true }, 0, .v 1, .v 2, .v 0⟩, .vmin ⟨{ vm .f32 with v4 := true }, 0, .v 1, .v 2, .v 0⟩,
   .vmax ⟨{ vm .f32 with v5 := true }, 0, .v 1, .v 2, .v 0⟩, .vsel ⟨{ vm .f32 with x := 0x10 }, 0, .v 1, .v 2, .v 0⟩,
   .vadd ⟨vm .f32, 0, .v 1, .v 2, .v 3⟩, .vperm ⟨vm .f32, 0, .g 1, .v 2, .v 0⟩, .vbcast ⟨vm .f32, 0, .v 1, .v 2, .v 0⟩,
   .vquant ⟨{ vm .e4m3 with x := 9 }, 0, .v 1, .imm 0, .v 0⟩, .vcvt ⟨{ vm .f32 with x := 9 }, 0, .v 1, .v 0, .v 0⟩,
   .vcvt ⟨{ vm .f32 with x := 0x27 }, 0, .v 1, .v 0, .v 0⟩, .vcvt ⟨{ vm .f32 with x := 13 }, 0, .v 1, .v 0, .v 0⟩,
   .vcmpeq ⟨vm .e8m0, 0, .v 1, .v 2⟩, .vext ⟨vm .f32, .g 1, 0, .v 2⟩, .lmset ⟨⟨0, false⟩, false, 0, .v 1⟩]

def illFormedCommands : List Instr :=
  [.mma ⟨{ mc with wait := 21 }, 0, false, false, .g 1, .g 2, .g 3⟩, .mma ⟨mc, 0, false, true, .g 1, .g 2, .g 0⟩,
   .mmas ⟨mc, 0, false, true, .g 0, .g 2, .g 0⟩, .mzero { mc with sa := 1 } 0, .mdrain ⟨{ mc with sb := 1 }, 0, false, .g 1, .g 2⟩,
   .mdrain ⟨mc, 0, true, .g 1, .g 0⟩, .macc { mc with sb := 1 } 0 (.acc 0), .tmld ⟨{ mc with sb := 1 }, .acc 0, .g 1, .g 2⟩,
   .tmst ⟨{ mc with wait := 31 }, .acc 0, .g 1, .g 2⟩, .tmmv { mc with sa := 1 } (.acc 0) (.acc 1), .engStat g0 (.g 1) 20,
   .ceOutr ⟨g0, none, 0, 0, .g 1, .g 2⟩ .swap, .ceB ⟨g0, none, 0, 0, .g 1, .g 2⟩, .ceFill ⟨g0, none, 0, 0, .g 1, .g 2⟩,
   .colRed ⟨g0, none, 0, 0, .g 1, .g 2⟩ .fadd, .colRed ⟨g0, none, 4, 0, .g 1, .g 2⟩ .add, .colAg ⟨g0, none, 4, 0, .g 1, .g 2⟩,
   .colBc ⟨g0, none, 15, 0, .g 1, .g 2⟩, .teCfg g0 0 3 0 (.g 1), .teCfg g0 0 0 3 (.g 1)]

theorem test_ill_formed_refused : illFormed.all (fun i => !i.wf) = true := by decide

theorem test_ill_formed_vector_refused : illFormedVector.all (fun i => !i.wf) = true := by decide

theorem test_ill_formed_commands_refused : illFormedCommands.all (fun i => !i.wf) = true := by decide

/-! ### Every constructor of the bundle rows, by a word assembled from the encoding tables (07 R165 to R190; 08 to 12) -/

/-- The decoder reads exactly these words as the one instruction. -/
def reads (p : List Word32 × Instr) : Bool :=
  match decodeBundle tableEnv p.1 with
  | .ok b => b.len == p.1.length && (b.single == some p.2)
  | .error _ => false

def scalarWords1 : List (List Word32 × Instr) :=
  [([0xB0004680], .idleBundle 17 5),
   ([0xB0010001, 0x0029C33F, 0x4A000000], .add ⟨⟨9, true⟩, true, .k 3, .g 63, .op (.latch .lm)⟩),
   ([0xB0000002, 0x06BEE447], .sub ⟨⟨5, false⟩, false, .g 62, .imm 100, .op (.k 7)⟩),
   ([0xB0020002, 0x08100153, 0x0000FFFE], .and ⟨⟨0, false⟩, false, .g 1, .ident .h, .imm16 0xFFFE⟩),
   ([0xB0010001, 0x0C29C33F, 0x4A000000], .or ⟨⟨9, true⟩, true, .k 3, .g 63, .op (.latch .lm)⟩),
   ([0xB0000002, 0x12BEE447], .xor ⟨⟨5, false⟩, false, .g 62, .imm 100, .op (.k 7)⟩),
   ([0xB0020002, 0x14100153, 0x0000FFFE], .andn ⟨⟨0, false⟩, false, .g 1, .ident .h, .imm16 0xFFFE⟩),
   ([0xB0010001, 0x1829C33F, 0x4A000000], .shl ⟨⟨9, true⟩, true, .k 3, .g 63, .op (.latch .lm)⟩),
   ([0xB0000002, 0x1EBEE447], .shr ⟨⟨5, false⟩, false, .g 62, .imm 100, .op (.k 7)⟩),
   ([0xB0020002, 0x20100153, 0x0000FFFE], .sar ⟨⟨0, false⟩, false, .g 1, .ident .h, .imm16 0xFFFE⟩),
   ([0xB0010001, 0x2429C33F, 0x4A000000], .min ⟨⟨9, true⟩, true, .k 3, .g 63, .op (.latch .lm)⟩),
   ([0xB0000002, 0x2ABEE447], .max ⟨⟨5, false⟩, false, .g 62, .imm 100, .op (.k 7)⟩),
   ([0xB0020002, 0x2C100153, 0x0000FFFE], .minu ⟨⟨0, false⟩, false, .g 1, .ident .h, .imm16 0xFFFE⟩),
   ([0xB0010001, 0x3029C33F, 0x4A000000], .maxu ⟨⟨9, true⟩, true, .k 3, .g 63, .op (.latch .lm)⟩),
   ([0xB0000002, 0x36BEE447], .mul ⟨⟨5, false⟩, false, .g 62, .imm 100, .op (.k 7)⟩),
   ([0xB0020002, 0x38100153, 0x0000FFFE], .mulh ⟨⟨0, false⟩, false, .g 1, .ident .h, .imm16 0xFFFE⟩),
   ([0xB0010001, 0x3C29C33F, 0x4A000000], .mulhu ⟨⟨9, true⟩, true, .k 3, .g 63, .op (.latch .lm)⟩),
   ([0xB0000002, 0x42BEE447], .div ⟨⟨5, false⟩, false, .g 62, .imm 100, .op (.k 7)⟩),
   ([0xB0020002, 0x44100153, 0x0000FFFE], .divu ⟨⟨0, false⟩, false, .g 1, .ident .h, .imm16 0xFFFE⟩),
   ([0xB0010001, 0x4829C33F, 0x4A000000], .rem ⟨⟨9, true⟩, true, .k 3, .g 63, .op (.latch .lm)⟩),
   ([0xB0000002, 0x4EBEE447], .remu ⟨⟨5, false⟩, false, .g 62, .imm 100, .op (.k 7)⟩),
   ([0xB0010001, 0x50305004, 0x00008001], .cmpeq ⟨⟨0, false⟩, true, 8, .g 4, .imm16 0x8001⟩)]

def scalarWords2 : List (List Word32 × Instr) :=
  [([0xB0000001, 0x54C90489], .cmpne ⟨⟨1, false⟩, false, 1, .g 4, .op (.imm 9)⟩),
   ([0xB0010001, 0x58305204, 0x00008001], .cmplt ⟨⟨0, false⟩, true, 10, .g 4, .imm16 0x8001⟩),
   ([0xB0000001, 0x5CCB0489], .cmple ⟨⟨1, false⟩, false, 3, .g 4, .op (.imm 9)⟩),
   ([0xB0010001, 0x60305404, 0x00008001], .cmpltu ⟨⟨0, false⟩, true, 12, .g 4, .imm16 0x8001⟩),
   ([0xB0000001, 0x64CD0489], .cmpleu ⟨⟨1, false⟩, false, 5, .g 4, .op (.imm 9)⟩),
   ([0xB0020002, 0x6800491F, 0x08000000], .pand ⟨⟨0, false⟩, 1, ⟨15, true⟩, ⟨8, false⟩⟩),
   ([0xB0020002, 0x6C004A1F, 0x08000000], .por ⟨⟨0, false⟩, 2, ⟨15, true⟩, ⟨8, false⟩⟩),
   ([0xB0020002, 0x70004B1F, 0x08000000], .pxor ⟨⟨0, false⟩, 3, ⟨15, true⟩, ⟨8, false⟩⟩),
   ([0xB0020002, 0x74004C1F, 0x08000000], .pandn ⟨⟨0, false⟩, 4, ⟨15, true⟩, ⟨8, false⟩⟩),
   ([0xB0010001, 0x78000203, 0x04120000], .sel ⟨⟨0, false⟩, .g 2, ⟨2, true⟩, .g 3, .op (.g 4)⟩),
   ([0xB0010001, 0x78100203, 0x0002004D], .sel ⟨⟨0, false⟩, .g 2, ⟨2, false⟩, .g 3, .imm16 77⟩),
   ([0xB0010001, 0x7C000203, 0x000001C5], .bfx ⟨⟨0, false⟩, .g 2, .g 3, .imm 5 7⟩),
   ([0xB0010001, 0x80100203, 0x04050000], .bfxs ⟨⟨0, false⟩, .g 2, .g 3, .reg (.g 4) (.g 5)⟩),
   ([0xB0010001, 0x84000203, 0x040001C5], .bfi ⟨⟨0, false⟩, .g 2, .g 3, .g 4, 5, 7⟩),
   ([0xB0010001, 0x88200203, 0x00000000], .clz ⟨⟨0, false⟩, true, .g 2, .g 3⟩),
   ([0xB0010001, 0x8C200203, 0x00000000], .ctz ⟨⟨0, false⟩, true, .g 2, .g 3⟩),
   ([0xB0010001, 0x90200203, 0x00000000], .popc ⟨⟨0, false⟩, true, .g 2, .g 3⟩),
   ([0xB0020002, 0x94000203, 0x04050243], .agen2 ⟨⟨0, false⟩, .g 2, .g 3, .g 4, .g 5, 3, 9⟩),
   ([0xB0820002, 0x98000200, 0x00001234, 0x3ABCDEF0], .li ⟨0, false⟩ (.g 2) 0x1ABCDEF01234),
   ([0xB0020002, 0x98000200, 0x0000FFFF], .li ⟨0, false⟩ (.g 2) 0x1FFFFFFFFFFF),
   ([0xB0820002, 0x98100203, 0x00000000, 0x2004BCDE], .liHi ⟨0, false⟩ (.g 2) (.g 3) 0x4BCDE),
   ([0xB0010001, 0x9C000208, 0x00000000], .rdsr ⟨0, false⟩ (.g 2) .level)]

def scalarWords3 : List (List Word32 × Instr) :=
  [([0xB0000001, 0xA0000607], .wrsr ⟨0, false⟩ (.g 7)),
   ([0xB0000001, 0xA4020B00], .rdmb ⟨0, false⟩ (.g 2) 11)]

theorem test_scalarWords1 : scalarWords1.all reads = true := by decide

theorem test_scalarWords2 : scalarWords2.all reads = true := by decide

theorem test_scalarWords3 : scalarWords3.all reads = true := by decide

def controlWords1 : List (List Word32 × Instr) :=
  [([0xB0000040, 0x01800000], .nop ⟨3, false⟩),
   ([0xB0400040, 0x04328000, 0x0000FFF0], .br ⟨2, true⟩ 0x3FFF0),
   ([0xB0400040, 0x08000009, 0x00000040], .bri ⟨0, false⟩ (.g 9) 0x40),
   ([0xB0400040, 0x0C100600, 0x00000002], .call ⟨0, false⟩ (.g 6) 0x10002),
   ([0xB0000040, 0x10000600], .ret ⟨0, false⟩ (.g 6)),
   ([0xB0400040, 0x14000300, 0x12340063], .loop ⟨⟨0, false⟩, 3, 0x1234⟩ 99),
   ([0xB0400040, 0x18000207, 0x12340000], .loopr ⟨⟨0, false⟩, 2, 0x1234⟩ (.g 7)),
   ([0xB0000040, 0x1C800000], .lexit ⟨1, false⟩),
   ([0xB0400040, 0x20000000, 0x00000008], .fork ⟨0, false⟩ 8),
   ([0xB0000040, 0x24000000], .join ⟨0, false⟩),
   ([0xB0000040, 0x28008D00], .jset ⟨0, false⟩ 13),
   ([0xB0000040, 0x2C008E00], .jclr ⟨0, false⟩ 14),
   ([0xB0000040, 0x30008F00], .jwait ⟨0, false⟩ 15),
   ([0xB0000040, 0x3400AA00], .trap ⟨0, false⟩ 42),
   ([0xB0000040, 0x3A000000], .exit ⟨4, false⟩),
   ([0xB0400040, 0x40000000, 0x0000ABCD], .mark 0xABCD),
   ([0xB0400040, 0x44000000, 0x00000005], .markD 5),
   ([0xB0400040, 0x4800007F, 0x04000003], .barInit ⟨0, false⟩ 127 .region (.g 4)),
   ([0xB0400040, 0x4C000040, 0x00000000], .barArr ⟨0, false⟩ 64),
   ([0xB0400040, 0x4C100041, 0x00000006], .barArrRel 65 6),
   ([0xB0400040, 0x50000042, 0x00000000], .barWait ⟨0, false⟩ 66),
   ([0xB0400040, 0x54000043, 0x00000000], .barAw ⟨0, false⟩ 67)]

def controlWords2 : List (List Word32 × Instr) :=
  [([0xB0400040, 0x5800001F, 0x000003E8], .tlwait ⟨0, false⟩ 31 1000),
   ([0xB0400040, 0x5C000018, 0x03000000], .tlinc ⟨0, false⟩ 0 (.g 3) none),
   ([0xB0400040, 0x5C10001F, 0x0300FF02], .tlinc ⟨0, false⟩ 7 (.g 3) (some (0xFF, 2))),
   ([0xB0000040, 0x60021E00], .tlrd ⟨0, false⟩ (.g 2) 30),
   ([0xB0400040, 0x64101D03, 0x00000000], .tlbase ⟨0, false⟩ 29 true (.g 3))]

theorem test_controlWords1 : controlWords1.all reads = true := by decide

theorem test_controlWords2 : controlWords2.all reads = true := by decide

def memoryWords1 : List (List Word32 × Instr) :=
  [([0xB0840004, 0x00098203, 0x0405FFF8, 0x400FFFF0], .ldB ⟨⟨9, true⟩, .g 2, .g 3, .g 4, .g 5, 0xFFF8, 0xFFFF0⟩),
   ([0xB0840004, 0x04098203, 0x0405FFF8, 0x400FFFF1], .ldH ⟨⟨9, true⟩, .g 2, .g 3, .g 4, .g 5, 0xFFF8, 0xFFFF1⟩),
   ([0xB0840004, 0x08098203, 0x0405FFF8, 0x400FFFF2], .ldW ⟨⟨9, true⟩, .g 2, .g 3, .g 4, .g 5, 0xFFF8, 0xFFFF2⟩),
   ([0xB0840004, 0x0C098203, 0x0405FFF8, 0x400FFFF3], .ldD ⟨⟨9, true⟩, .g 2, .g 3, .g 4, .g 5, 0xFFF8, 0xFFFF3⟩),
   ([0xB0840004, 0x10098203, 0x0405FFF8, 0x400FFFF4], .ldsB ⟨⟨9, true⟩, .g 2, .g 3, .g 4, .g 5, 0xFFF8, 0xFFFF4⟩),
   ([0xB0840004, 0x14098203, 0x0405FFF8, 0x400FFFF5], .ldsH ⟨⟨9, true⟩, .g 2, .g 3, .g 4, .g 5, 0xFFF8, 0xFFFF5⟩),
   ([0xB0840004, 0x18098203, 0x0405FFF8, 0x400FFFF6], .ldsW ⟨⟨9, true⟩, .g 2, .g 3, .g 4, .g 5, 0xFFF8, 0xFFFF6⟩),
   ([0xB0000004, 0x20000304], .stB ⟨⟨0, false⟩, .g 3, .g 4, .g 0, 0, 0⟩),
   ([0xB0000004, 0x24000304], .stH ⟨⟨0, false⟩, .g 3, .g 4, .g 0, 0, 0⟩),
   ([0xB0000004, 0x28000304], .stW ⟨⟨0, false⟩, .g 3, .g 4, .g 0, 0, 0⟩),
   ([0xB0000004, 0x2C000304], .stD ⟨⟨0, false⟩, .g 3, .g 4, .g 0, 0, 0⟩),
   ([0xB0040004, 0x30600203, 0x0005FF03], .ldx ⟨⟨0, false⟩, .w, true, .g 2, .g 3, .g 5, 0xFF, 3, 0⟩),
   ([0xB0040004, 0x34300003, 0x040501FE], .stx ⟨⟨0, false⟩, .d, .g 3, .g 4, .g 5, 1, 0xFE, 0⟩),
   ([0xB0040004, 0x38000F03, 0x04050100], .xlate ⟨⟨0, false⟩, 15, .g 3, .g 4, .g 5, 0x100, 0⟩),
   ([0xB0000004, 0x3C070000], .hrel ⟨0, false⟩ 7),
   ([0xB0040004, 0x42800207, 0x0400EAD5], .gld ⟨⟨0, false⟩, .w, true, .g 2, 7, .g 4, ⟨14, .sys, .acq, 0x55⟩, 0⟩),
   ([0xB0840004, 0x45000007, 0x04053901, 0x40000008], .gst ⟨⟨0, false⟩, .h, 7, .g 4, .g 5, ⟨3, .dev, .rel, 1⟩, 8⟩),
   ([0xB0040004, 0x49200007, 0x04050800], .atom ⟨⟨0, false⟩, .min, true, 7, .g 4, .g 5, ⟨0, .dev, .plain, 0⟩, 0⟩),
   ([0xB0840004, 0x4EA00207, 0x04050980, 0x40000009], .atomr ⟨.cas, true, .g 2, 7, .g 4, .g 5, ⟨0, .dev, .ar, 0⟩, some 9⟩),
   ([0xB0040004, 0x52000007, 0x04050800], .red ⟨⟨0, false⟩, .fadd, false, 7, .g 4, .g 5, ⟨0, .dev, .plain, 0⟩, 0⟩),
   ([0xB0040004, 0x54000000, 0x00008001], .fenceC ⟨0, false⟩ 0x8001),
   ([0xB0840004, 0x60501F03, 0x04050080, 0x40000080], .vld ⟨⟨0, false⟩, 5, 31, .g 3, .g 4, .g 5, 128, 128⟩)]

def memoryWords2 : List (List Word32 × Instr) :=
  [([0xB0000004, 0x6400031E], .vst ⟨⟨0, false⟩, 0, .g 3, 30, .g 0, 0, 0⟩),
   ([0xB0040004, 0x6AB01F03, 0x1D050004], .vgath ⟨⟨0, false⟩, 3, .h, true, 31, .g 3, 29, .g 5, 4, 0⟩),
   ([0xB0000004, 0x681F031D], .vgath ⟨⟨0, false⟩, 0, .w, false, 31, .g 3, 29, .g 0, 0, 0⟩),
   ([0xB0040004, 0x6D60001C, 0x1D050004], .vscat ⟨⟨0, false⟩, 6, .w, 28, 29, .g 5, 4, 0⟩)]

theorem test_memoryWords1 : memoryWords1.all reads = true := by decide

theorem test_memoryWords2 : memoryWords2.all reads = true := by decide

def vectorWords1 : List (List Word32 × Instr) :=
  [([0xB0080008, 0x00959F1E, 0xE1000001], .vadd ⟨⟨⟨5, true⟩, .f32, false, false, .rtz, false, 0⟩, 31, .v 30, .imm 33, .v 0⟩),
   ([0xB0080008, 0x04969F1E, 0xE1000002], .vsub ⟨⟨⟨6, true⟩, .f32, false, false, .rup, false, 0⟩, 31, .v 30, .imm 33, .v 0⟩),
   ([0xB0080008, 0x08979F1E, 0xE1000003], .vmul ⟨⟨⟨7, true⟩, .f32, false, false, .rdn, false, 0⟩, 31, .v 30, .imm 33, .v 0⟩),
   ([0xB0080008, 0x0D500142, 0x03000000], .vmin ⟨⟨⟨0, false⟩, .i8, true, false, .rne, false, 0⟩, 1, .g 2, .v 3, .v 0⟩),
   ([0xB0000008, 0x1381028C], .vmax ⟨⟨⟨7, false⟩, .f32, false, false, .rne, false, 0⟩, 1, .v 2, .latch .lx, .v 0⟩),
   ([0xB0080008, 0x14700102, 0x00000000], .vabs ⟨⟨⟨0, false⟩, .bf16, false, false, .rne, false, 0⟩, 1, .v 2, .v 0, .v 0⟩),
   ([0xB0000008, 0x18010200], .vneg ⟨⟨⟨0, false⟩, .f32, false, false, .rne, false, 0⟩, 1, .v 2, .v 0, .v 0⟩),
   ([0xB0080008, 0x1C800102, 0x03040004], .vfma ⟨⟨⟨0, false⟩, .f16, false, false, .sr, false, 0⟩, 1, .v 2, .v 3, .v 4⟩),
   ([0xB0000008, 0x20010285], .vand ⟨⟨⟨0, false⟩, .i32, false, false, .rne, false, 0⟩, 1, .v 2, .k 5, .v 0⟩),
   ([0xB0000008, 0x24010285], .vor ⟨⟨⟨0, false⟩, .i32, false, false, .rne, false, 0⟩, 1, .v 2, .k 5, .v 0⟩),
   ([0xB0000008, 0x28010285], .vxor ⟨⟨⟨0, false⟩, .i32, false, false, .rne, false, 0⟩, 1, .v 2, .k 5, .v 0⟩),
   ([0xB0000008, 0x2C010285], .vshl ⟨⟨⟨0, false⟩, .i32, false, false, .rne, false, 0⟩, 1, .v 2, .k 5, .v 0⟩),
   ([0xB0000008, 0x30010285], .vshr ⟨⟨⟨0, false⟩, .i32, false, false, .rne, false, 0⟩, 1, .v 2, .k 5, .v 0⟩),
   ([0xB0000008, 0x34010285], .vsar ⟨⟨⟨0, false⟩, .i32, false, false, .rne, false, 0⟩, 1, .v 2, .k 5, .v 0⟩),
   ([0xB0080008, 0x38B00102, 0x03000000], .vadds ⟨⟨⟨0, false⟩, .i32, false, false, .rne, false, 0⟩, 1, .v 2, .v 3, .v 0⟩),
   ([0xB0080008, 0x3DB00102, 0x03000000], .vsubs ⟨⟨⟨0, false⟩, .i32, true, false, .rne, false, 0⟩, 1, .v 2, .v 3, .v 0⟩),
   ([0xB0080008, 0x42902402, 0x03000000], .vcmpeq ⟨⟨⟨0, false⟩, .f32, false, true, .rne, false, 0⟩, 4, .v 2, .v 3⟩),
   ([0xB0080008, 0x46902502, 0x03000000], .vcmpne ⟨⟨⟨0, false⟩, .f32, false, true, .rne, false, 0⟩, 5, .v 2, .v 3⟩),
   ([0xB0080008, 0x4A902602, 0x03000000], .vcmplt ⟨⟨⟨0, false⟩, .f32, false, true, .rne, false, 0⟩, 6, .v 2, .v 3⟩),
   ([0xB0080008, 0x4E902702, 0x03000000], .vcmple ⟨⟨⟨0, false⟩, .f32, false, true, .rne, false, 0⟩, 7, .v 2, .v 3⟩),
   ([0xB0080008, 0x50900102, 0x030000B0], .vsel ⟨⟨⟨0, false⟩, .f32, false, false, .rne, false, 0xB⟩, 1, .v 2, .v 3, .v 0⟩),
   ([0xB0000008, 0x5401C500], .vmov ⟨⟨⟨0, false⟩, .f32, false, false, .rne, false, 0⟩, 1, .imm 5, .v 0, .v 0⟩)]

def vectorWords2 : List (List Word32 × Instr) :=
  [([0xB0080008, 0x58900102, 0x430001F0], .vbcast ⟨⟨⟨0, false⟩, .f32, false, false, .rne, false, 31⟩, 1, .v 2, .g 3, .v 0⟩),
   ([0xB0000008, 0x5C010203], .vperm ⟨⟨⟨0, false⟩, .f32, false, false, .rne, false, 0⟩, 1, .v 2, .v 3, .v 0⟩),
   ([0xB0080008, 0x61900502, 0xC00001F0], .vext ⟨⟨⟨0, false⟩, .f32, true, false, .rne, false, 31⟩, .g 5, 2, .imm 0⟩),
   ([0xB0080008, 0x64900142, 0x43000070], .vins ⟨⟨⟨0, false⟩, .f32, false, false, .rne, false, 7⟩, 1, .g 2, .g 3, .v 0⟩),
   ([0xB0080008, 0x68900502, 0x00000001], .vredsum ⟨⟨⟨0, false⟩, .f32, false, false, .rtz, false, 0⟩, .g 5, 2, .v 0⟩),
   ([0xB0080008, 0x6DB00502, 0x00000000], .vredmax ⟨⟨⟨0, false⟩, .i32, true, false, .rne, false, 0⟩, .g 5, 2, .v 0⟩),
   ([0xB0000008, 0x70450200], .vredmin ⟨⟨⟨0, false⟩, .f32, false, false, .rne, false, 0⟩, .k 5, 2, .v 0⟩),
   ([0xB0080008, 0x74000102, 0x00000399], .vcvt ⟨⟨⟨0, false⟩, .e4m3, false, false, .rtz, true, 0x39⟩, 1, .v 2, .v 0, .v 0⟩),
   ([0xB0080008, 0x78000502, 0x00000090], .vqscale ⟨⟨⟨0, false⟩, .e4m3, false, false, .rne, false, 9⟩, .g 5, 2, .v 0⟩),
   ([0xB0080008, 0x7C000102, 0x43000290], .vquant ⟨⟨⟨0, false⟩, .e4m3, false, false, .rne, false, 0x29⟩, 1, .v 2, .g 3, .v 0⟩),
   ([0xB0080008, 0x80900102, 0x43000140], .vdq ⟨⟨⟨0, false⟩, .f32, false, false, .rne, false, 0x14⟩, 1, .v 2, .g 3, .v 0⟩),
   ([0xB0080008, 0x84900102, 0x00001890], .vtbl ⟨⟨⟨0, false⟩, .f32, false, false, .rne, false, 0x189⟩, 1, .v 2, .v 0, .v 0⟩),
   ([0xB0000008, 0x88270605], .lmand ⟨⟨0, false⟩, 7, 6, 5⟩),
   ([0xB0000008, 0x8CA70605], .lmor ⟨⟨1, false⟩, 7, 6, 5⟩),
   ([0xB0000008, 0x91270605], .lmxor ⟨⟨2, false⟩, 7, 6, 5⟩),
   ([0xB0000008, 0x95A70605], .lmandn ⟨⟨3, false⟩, 7, 6, 5⟩),
   ([0xB0080008, 0x99B2A746, 0x00000000], .lmset ⟨⟨2, true⟩, true, 7, .g 6⟩),
   ([0xB0000008, 0x9C090600], .lmpopc ⟨⟨0, false⟩, .g 9, 6⟩)]

theorem test_vectorWords1 : vectorWords1.all reads = true := by decide

theorem test_vectorWords2 : vectorWords2.all reads = true := by decide

def matrixWords : List (List Word32 × Instr) :=
  [([0xB0900010, 0x03698003, 0x0405A7FF, 0x8FFFC001], .mma ⟨⟨⟨9, true⟩, true, 20, 2047, 1, 16383⟩, 5, true, false, .g 3, .g 4, .g 5⟩),
   ([0xB0100010, 0x00100000, 0x04000000], .mma ⟨⟨⟨0, false⟩, false, 0, 0, 0, 0⟩, 0, false, true, .g 0, .g 4, .g 0⟩),
   ([0xB0100010, 0x05C00003, 0x04050000], .mmas ⟨⟨⟨0, false⟩, false, 0, 0, 0, 0⟩, 7, false, false, .g 3, .g 4, .g 5⟩),
   ([0xB0000010, 0x08000600], .mzero ⟨⟨0, false⟩, false, 0, 0, 0, 0⟩ 6),
   ([0xB0100010, 0x0C700003, 0x00008000], .mset ⟨0, false⟩ 7 (.g 3) 0x8000),
   ([0xB0100010, 0x10C00003, 0x00050800], .mdrain ⟨⟨⟨0, false⟩, false, 1, 0, 0, 0⟩, 3, false, .g 3, .g 5⟩),
   ([0xB0100010, 0x15800017, 0x00000000], .macc ⟨⟨0, false⟩, false, 0, 0, 0, 0⟩ 6 (.acc 7)),
   ([0xB0100010, 0x18F00003, 0x00050000], .tmld ⟨⟨⟨0, false⟩, false, 0, 0, 0, 0⟩, .blk 15, .g 3, .g 5⟩),
   ([0xB0900010, 0x1D300003, 0x00050000, 0x80000004], .tmst ⟨⟨⟨0, false⟩, false, 0, 0, 4, 0⟩, .acc 3, .g 3, .g 5⟩),
   ([0xB0100010, 0x2100000F, 0x00000000], .tmmv ⟨⟨0, false⟩, false, 0, 0, 0, 0⟩ (.acc 0) (.blk 15)),
   ([0xB0000010, 0x24030500], .mrset ⟨⟨0, false⟩, 3, .g 5, none⟩),
   ([0xB0100010, 0x28100205, 0x06000000], .mcset ⟨⟨0, false⟩, 2, .g 5, some (.g 6)⟩)]

theorem test_matrixWords : matrixWords.all reads = true := by decide

def engineWords : List (List Word32 × Instr) :=
  [([0xB0200020, 0x00000003, 0x04003F00], .descSet ⟨0, false⟩ 15 3 (.g 3) (.g 4)),
   ([0xB0200020, 0x00000900, 0x00007F81], .descGet ⟨0, false⟩ (.g 9) 15 7),
   ([0xB0200020, 0x00000900, 0x00001782], .engStat ⟨0, false⟩ (.g 9) 23),
   ([0xB0200020, 0x00024103, 0x040F0E88], .ceIn ⟨⟨2, false⟩, some (.k 1), 15, 14, .g 3, .g 4⟩),
   ([0xB0200020, 0x00024103, 0x040F0E89], .ceOut ⟨⟨2, false⟩, some (.k 1), 15, 14, .g 3, .g 4⟩),
   ([0xB0200020, 0x00024103, 0x040F7E8A], .ceOutr ⟨⟨2, false⟩, some (.k 1), 15, 14, .g 3, .g 4⟩ .maxu),
   ([0xB0200020, 0x00024103, 0x000F0E8B], .ceB ⟨⟨2, false⟩, some (.k 1), 15, 14, .g 3, .g 0⟩),
   ([0xB0200020, 0x00024103, 0x040F0E8C], .ceWin ⟨⟨2, false⟩, some (.k 1), 15, 14, .g 3, .g 4⟩),
   ([0xB0200020, 0x00024103, 0x040F0E8D], .ceGath ⟨⟨2, false⟩, some (.k 1), 15, 14, .g 3, .g 4⟩),
   ([0xB0200020, 0x00024103, 0x040F0E8E], .ceScat ⟨⟨2, false⟩, some (.k 1), 15, 14, .g 3, .g 4⟩),
   ([0xB0200020, 0x00024103, 0x040F0E8F], .ceXfer ⟨⟨2, false⟩, some (.k 1), 15, 14, .g 3, .g 4⟩),
   ([0xB0200020, 0x00024100, 0x040F0E90], .ceFill ⟨⟨2, false⟩, some (.k 1), 15, 14, .g 0, .g 4⟩),
   ([0xB0200020, 0x00000003, 0x04035E20], .colRed ⟨⟨0, false⟩, none, 3, 14, .g 3, .g 4⟩ .max),
   ([0xB0200020, 0x00000003, 0x04030E21], .colAg ⟨⟨0, false⟩, none, 3, 14, .g 3, .g 4⟩),
   ([0xB0200020, 0x00000003, 0x04030E22], .colBc ⟨⟨0, false⟩, none, 3, 14, .g 3, .g 4⟩),
   ([0xB0200020, 0x00000000, 0x00020E23], .colQ ⟨⟨0, false⟩, none, 2, 14⟩),
   ([0xB0200020, 0x00000000, 0x00021E23], .colQFree ⟨⟨0, false⟩, none, 2, 14⟩),
   ([0xB0200020, 0x00000003, 0x04000730], .teLoad ⟨0, false⟩ none 7 (.g 3) (.g 4)),
   ([0xB0200020, 0x00000003, 0x00004E31], .teCfg ⟨0, false⟩ 6 1 2 (.g 3)),
   ([0xB0200020, 0x00000803, 0x040000C0], .schEnq ⟨⟨0, false⟩, some (.g 8), .g 3, .g 4⟩),
   ([0xB0200020, 0x00000803, 0x040000C1], .schRaise ⟨⟨0, false⟩, some (.g 8), .g 3, .g 4⟩),
   ([0xB0200020, 0x00000803, 0x040000C2], .schPost ⟨⟨0, false⟩, some (.g 8), .g 3, .g 4⟩)]

theorem test_engineWords : engineWords.all reads = true := by decide
/-- The first illegal feature of these words, for a stream A that owns every slot. -/
def refusal (ws : List Word32) : Option (Cause × Nat) :=
  match decodeBundle tableEnv ws with
  | .ok _ => none
  | .error e => some (e.cause, e.slot)

/-- 07 R190, R191: the causes of the header, of a slot word, of an extension word and of the last checks. -/
def refused : List (List Word32 × Cause × Nat) :=
  [([0xA0000040, 0], 0x001, 7), ([0xB2000040, 0], 0x002, 7), ([0xB1800040, 0], 0x003, 7), ([0xB0400000], 0x004, 7),
   ([0xB0000084, 0], 0x005, 7), ([0xB0000041, 0], 0x006, 7), ([], 0x006, 7),
   ([0xB0000001, 0xA8000000], 0x011, 0), ([0xB0000090, 0xE0000000], 0x012, 4),
   ([0xB0010001, 0x00400000, 0x00000000], 0x013, 0), ([0xB0000001, 0x78000000], 0x014, 0),
   ([0xB0080008, 0x00980000, 0], 0x015, 3), ([0xB0000001, 0x00004D00], 0x020, 0), ([0xB0000008, 0x00002000], 0x021, 3),
   ([0xB0000001, 0x00480000], 0x022, 0), ([0xB0000001, 0x50000000], 0x023, 0), ([0xB0080008, 0x00D00000, 0], 0x024, 3),
   ([0xB0080008, 0x00900000, 5], 0x025, 3), ([0xB0040004, 0x40000000, 0x00000C00], 0x026, 2),
   ([0xB0040004, 0x40000000, 0x00000100], 0x027, 2), ([0xB0800040, 0, 0xE0000000], 0x030, 7),
   ([0xB0800040, 0, 0x40000000], 0x031, 2), ([0xB0800040, 0, 0xC0000000], 0x032, 6),
   ([0xB1000004, 0x20000000, 0x40000001, 0x40000001], 0x033, 2), ([0xB0800004, 0x20000000, 0x40100000], 0x034, 2),
   ([0xB0000440, 0], 0x038, 6), ([0xB0400040, 0x40010000, 0], 0x03A, 6),
   ([0xB0400040, 0x50000080, 0], 0x0A5, 6), ([0xB0400040, 0x50000080, 0x01000000], 0x023, 6)]

theorem test_refusals : refused.all (fun p => refusal p.1 == some p.2) = true := by decide

/-- 07 R191: the first illegal feature wins: a bad slot word before a bad extension word. -/
theorem test_refusal_order : refusal [0xB0800001, 0xA8000000, 0xE0000000] = some (0x011, 0) := by decide

/-- 07 R185: a vector family of the LS slot in a stream that does not own VA. -/
theorem test_vector_load_needs_va :
    (match decodeBundle ⟨false, 2, some false⟩ [0xB0000004, 0x60010300] with
     | .error e => some e.cause | .ok _ => none) = some 0x039 := by decide

/-- 02 R45: stream B presents nothing in a slot that stream A owns. -/
theorem test_unowned_slot :
    (match decodeBundle ⟨false, 0, some true⟩ [0xB0000004, 0x20000000] with
     | .error e => some (e.cause, e.slot) | .ok _ => none) = some (0x010, 2) := by decide

/-- 07 R192's worked example: the LS halt bit with MZERO in short form is legal. -/
theorem test_worked_example_r192 :
    ((decodeBundle tableEnv [0xB0000090, 0x08000000]).toOption.map fun b => (b.halt, b.ops)) =
      some (1, [(4, .mzero ⟨⟨0, false⟩, false, 0, 0, 0, 0⟩ 0)]) := by decide

/-- A pad of zeros is no bundle, and no row of the table's machine steps has a word. -/
theorem test_no_word_for_events : decodeTableWord 32 0 = none ∧ encode (.commit 0) = [] := by decide

/-! ### Small states: one region of 2 x 2 tiles in split mode, stream A of tile 0 issuing -/

/-- A record the pattern declares, beside the terminal record 0. -/
def recW (id : BitVec 16) : SafePt := ⟨id, 16384, none, 0, 0, 0, 0, 0, 0, 0, 0, 0, 0, 0, [], [], 0⟩

/-- Eight idle bundles of code. -/
def patW : Pattern := { fetchPattern (List.replicate 8 0xB0000000) with recs := [recW 0, recW 7] }

def regW : Region := State.reset.newRegion patW fetchLaunch .single ⟨0, 0, 0⟩ none

def curW : Cursor := ⟨0, 0, false, 0, none, 0, 8, 0, false⟩

/-- The cursor of a slot. -/
def inSlot (n : Nat) : Cursor := { curW with slot := n }

/-- The state in which the region stands and the cursor issues. -/
def on (g : Region) (cu : Cursor) : State := { State.reset with regions := [g], cur := some cu }

theorem issuing {g : Region} {cu : Cursor} (h : g.rid = cu.r) : Issuing (on g cu) cu g :=
  ⟨rfl, by simp [on, State.region?, h]⟩

theorem no_missing {g : Region} {cu : Cursor} (h : g.awaits = []) : NoneMissing g cu := by
  intro a ha; rw [h] at ha; cases ha

/-- Stream A of tile 0 changed. -/
def withA (f : Stream → Stream) (g : Region) : Region := { g with tiles := g.tiles.modify 0 fun x => { x with a := f x.a } }

def withBank (f : Bank → Bank) : Region → Region := withA fun x => { x with bank := f x.bank }

def withTile (f : Tile → Tile) (g : Region) : Region := { g with tiles := g.tiles.modify 0 f }

/-- General register n of stream A on tile 0. -/
def withG (n : Nat) (v : Word) : Region → Region := withBank fun k => { k with g := k.g.set! n ⟨v, false⟩ }

def withH (n : Nat) (h : Handle) : Region → Region := withBank fun k => { k with h := k.h.set! n (some h) }

def depthW (n : Nat) : Region → Region := withA fun x => { x with loops := { x.loops with depth := n } }

def stuck (op : Instr) (as : List Val) : Sticky := ⟨op, 0, as⟩

/-! ### Witnesses: scalar and control families -/

theorem test_witness_ScalarOperandsDeliver :
    NoneMissing regW curW ∧
      NoneMissing { regW with awaits := [⟨0, .atomr, .waiting, 0, false, 1, 0, 0, none, none, true, true, none, 0, false, false, [], 0⟩] }
        curW := by
  refine ⟨no_missing rfl, ?_⟩
  intro a ha _ _; rw [List.mem_singleton.mp ha]; decide

/-- The hypotheses of the scalar statements: p0 as it stands, p3 negated, and p3 for a guard that reads false. -/
theorem test_witness_TwoSourceArithmeticResult :
    Issuing (on regW curW) curW regW ∧ On regW curW ⟨0, false⟩ ∧ On regW curW ⟨3, true⟩ ∧ NoneMissing regW curW ∧
      aluRows.length = 20 :=
  ⟨issuing rfl, ⟨by decide, by decide⟩, ⟨by decide, by decide⟩, no_missing rfl, rfl⟩

theorem test_witness_CompareAndPredicateLogicResult :
    Issuing (on regW curW) curW regW ∧ On regW curW ⟨15, true⟩ ∧ NoneMissing regW curW ∧ cmpRows.length = 6 ∧
      plogRows.length = 4 :=
  ⟨issuing rfl, ⟨by decide, by decide⟩, no_missing rfl, rfl, rfl⟩

def regBf (p l : Word) : Region := withG 1 p (withG 2 l regW)

def bfR : BfxA := ⟨g0, .g 3, .g 4, .reg (.g 1) (.g 2)⟩

theorem test_witness_SelectFieldCountAndConstantResult :
    (∀ p l : Word, Issuing (on (regBf p l) curW) curW (regBf p l) ∧ NoneMissing (regBf p l) curW) ∧
    On (regBf 63 1) curW g0 ∧ bfR.ok = true ∧
    fieldValue (on (regBf 63 1) curW) (regBf 63 1) curW bfR.f = (63, 1, false) ∧
    fieldValue (on (regBf 0 64) curW) (regBf 0 64) curW bfR.f = (0, 64, false) ∧
    fieldValue (on (regBf 64 1) curW) (regBf 64 1) curW bfR.f = (64, 1, false) ∧
    fieldValue (on (regBf 0 0) curW) (regBf 0 0) curW bfR.f = (0, 0, false) ∧
    fieldValue (on (regBf 1 64) curW) (regBf 1 64) curW bfR.f = (1, 64, false) ∧
    (⟨g0, .g 3, .g 4, .imm 63 0⟩ : BfxA).ok = true ∧ (⟨g0, .g 3, .g 4, .imm 0 63⟩ : BfxA).ok = true ∧
    bitFieldOk 63 0 = true ∧ bitFieldOk 0 63 = true ∧ cntRows.length = 3 :=
  ⟨fun _ _ => ⟨issuing rfl, no_missing rfl⟩, ⟨by decide, by decide⟩, by decide, by decide, by decide, by decide, by decide,
    by decide, by decide, by decide, by decide, by decide, rfl⟩

theorem test_witness_SpecialRegisterAndMailboxAccess :
    Issuing (on regW curW) curW regW ∧ On regW curW g0 ∧ NoneMissing regW curW ∧
    (operandValue (on regW curW) regW curW (.imm 64)).bad = false ∧
    3 < (withA (fun x => { x with srNext := some 7 }) regW).tiles.length ∧
    ((withA (fun x => { x with srNext := some 7 }) regW).str 0 false).srNext = some 7 ∧ regW.endEffs = [] :=
  ⟨issuing rfl, ⟨by decide, by decide⟩, no_missing rfl, by decide, by decide, by decide, rfl⟩

theorem test_witness_FalseGuardHasNoEffect :
    Issuing (on regW curW) curW regW ∧ Off regW curW ⟨3, false⟩ ∧ Off regW curW ⟨0, true⟩ :=
  ⟨issuing rfl, ⟨by decide, by decide⟩, ⟨by decide, by decide⟩⟩

def regStub : Region := withA (fun x => { x with resumeAt := some (8, false, 2, []) }) { regW with stub := true }

theorem test_witness_TakenTransferLeavesItsTarget :
    Issuing (on regW curW) curW regW ∧ On regW curW g0 ∧ NoneMissing regW curW ∧ regW.stub = false ∧
    (operandValue (on regW curW) regW curW (.g 9)).bad = false ∧ regW.nextOffset 4 = some 8 ∧ regW.nextOffset 8 = some 12 ∧
    Issuing (on regStub curW) curW regStub ∧ On regStub curW g0 ∧ regStub.stub = true ∧
    (regStub.cur curW).resumeAt = some (8, false, 2, []) :=
  ⟨issuing rfl, ⟨by decide, by decide⟩, no_missing rfl, rfl, by decide, by decide, by decide,
    issuing rfl, ⟨by decide, by decide⟩, rfl, by decide⟩

/-- LOOP at level 0 with its end in the last word, at level 3, at a wrong level, with all four levels open, with E = 0 and
with its end one word past the code; LEXIT at depths 0, 1 and 4. -/
theorem test_witness_LoopEntryAndExit :
    (∀ n, Issuing (on (depthW n regW) curW) curW (depthW n regW) ∧ (depthW n regW).stub = false ∧
      NoneMissing (depthW n regW) curW) ∧ curW.t < (depthW 4 regW).tiles.length ∧ On (depthW 4 regW) curW g0 ∧
    ((depthW 0 regW).cur curW).loops.depth = (0 : BitVec 2).toNat ∧ ((depthW 3 regW).cur curW).loops.depth = (3 : BitVec 2).toNat ∧
    (7 : BitVec 16) ≠ 0 ∧ curW.offset.toNat + 4 * (7 : BitVec 16).toNat < 4 * regW.pat.code.length ∧
    ((depthW 1 regW).cur curW).loops.depth ≠ (0 : BitVec 2).toNat ∧ ((depthW 4 regW).cur curW).loops.depth ≠ (3 : BitVec 2).toNat ∧
    4 * regW.pat.code.length ≤ curW.offset.toNat + 4 * (8 : BitVec 16).toNat ∧
    ((depthW 0 regW).cur curW).loops.depth = 0 ∧ ((depthW 1 regW).cur curW).loops.depth = 0 + 1 ∧
    ((depthW 4 regW).cur curW).loops.depth = 3 + 1 :=
  ⟨fun _ => ⟨issuing rfl, rfl, no_missing rfl⟩, by decide, ⟨by decide, by decide⟩, by decide, by decide, by decide, by decide,
    by decide, by decide, by decide, by decide, by decide, by decide⟩

def regB : Region := withTile (fun x => { x with b := { x.b with running := true } }) regW

theorem test_witness_StreamsAndSyncBits :
    Issuing (on regStub curW) curW regStub ∧ regStub.stub = true ∧ Issuing (on regW curW) curW regW ∧ On regW curW g0 ∧ regW.stub = false ∧ NoneMissing regW curW ∧ curW.b = false ∧
    (regW.tile curW.t).b.running = false ∧ (regB.tile curW.t).b.running = true ∧ Issuing (on regB curW) curW regB ∧
    Issuing (on regB { curW with b := true }) { curW with b := true } regB ∧ On regB { curW with b := true } g0 :=
  ⟨issuing rfl, rfl, issuing rfl, ⟨by decide, by decide⟩, rfl, no_missing rfl, rfl, by decide, by decide, issuing rfl, issuing rfl,
    ⟨by decide, by decide⟩⟩

def regLs : Region := withA (fun x => { x with ls := some (stuck (.nop g0) []) }) regW

theorem test_witness_CommitInstructionsPresentTheirRecord :
    Issuing (on regW (inSlot 6)) (inSlot 6) regW ∧ MayCommit regW (inSlot 6) 7 ∧
    (regW.pat.recs.find? fun r => r.id = 8) = none ∧
    Issuing (on regLs (inSlot 6)) (inSlot 6) regLs ∧ (regLs.cur (inSlot 6)).ls.isSome = true ∧
    (regLs.pat.recs.find? fun r => r.id = 7).isSome = true ∧ Issuing (on regStub (inSlot 6)) (inSlot 6) regStub ∧ regStub.stub = true :=
  ⟨issuing rfl, ⟨rfl, ⟨by decide, by decide⟩, ⟨by decide, by decide, by decide⟩⟩, by decide, issuing rfl, by decide, by decide,
    issuing rfl, rfl⟩

/-- Barrier 127 of tile 0 changed. -/
def withBar (f : Barrier → Barrier) (g : Region) : Region :=
  withTile (fun x => { x with bars := x.bars.set! 127 (f x.bars[127]) }) g

theorem test_witness_BarrierInstructions :
    Issuing (on regW curW) curW regW ∧ On regW curW g0 ∧ NoneMissing regW curW ∧
    (operandValue (on regW curW) regW curW (.imm 8)).bits.toNat = 8 ∧ 8 ≤ countLimit regW .region ∧ 8 ≤ countLimit regW .quad ∧
    2 ≤ countLimit regW .tile ∧ (barrier regW curW 127).a = 0 ∧ ¬(1 ≤ 9 ∧ 9 ≤ countLimit regW .quad) ∧
    (operandValue (on regW curW) regW curW (.imm 9)).bits.toNat = 9 ∧ ¬(1 ≤ 0 ∧ 0 ≤ countLimit regW .tile) ∧
    (operandValue (on regW curW) regW curW (.imm 0)).bits.toNat = 0 ∧
    (barrier (withBar (fun x => { x with a := 1 }) regW) curW 127).a ≠ 0 ∧
    pendingFlag (barrier (withBar (fun x => { x with pendA := true }) regW) curW 127) curW.b = true ∧
    pendingFlag (barrier regW curW 127) curW.b = false ∧ (regW.cur curW).arrived = false :=
  ⟨issuing rfl, ⟨by decide, by decide⟩, no_missing rfl, by decide, by decide, by decide, by decide, by decide, by decide, by decide,
    by decide, by decide, by decide, by decide, by decide, by decide⟩

def regArr : Region :=
  withA (fun x => { x with arrived := true }) (withBar (fun x => { x with pendA := true, phase := 1 }) regW)

theorem test_witness_BarrierInstructions_aw :
    Issuing (on regArr curW) curW regArr ∧ On regArr curW g0 ∧ (regArr.cur curW).arrived = true ∧
    (∀ f ∈ regArr.flights, f.what = .arrive 127 false → f.tile = curW.t → f.strB = curW.b → False) ∧
    pendingFlag (barrier regArr curW 127) curW.b = true ∧
    (barrier regArr curW 127).phase ≠ targetPhase (barrier regArr curW 127) curW.b :=
  ⟨issuing rfl, ⟨by decide, by decide⟩, by decide, (fun _ h => by cases h), by decide, by decide⟩

/-- A command of context n of tile 0, captured at issue. -/
def cmdW (fn : EngFn) (n : Nat) (st : CmdSt) : Cmd :=
  ⟨1, fn, n, 1, Vector.replicate 8 {}, 0, 0, 0, 0, st, none, 1, [], false, false, 0, [], [], 0⟩

def withTl (n : Nat) (v : Word) : Region → Region := withTile fun x => { x with tl := x.tl.set! n v }

theorem not_gated {g : Region} {cu : Cursor} {n : Nat} {v : Word} (h : g.cmds = []) : ¬coversGated g cu n v := by
  rintro ⟨c, hc, _⟩; rw [h] at hc; cases hc

/-- A wait at exactly its counter, one below it on a wall-time counter (19 and 22) and on a counter of the region clock
(20), and on a gated command whose number is the target. -/
theorem test_witness_TimelineInstructions :
    Issuing (on (withTl 19 5 regW) curW) curW (withTl 19 5 regW) ∧ On regW curW g0 ∧ NoneMissing regW curW ∧
    ¬coversGated (withTl 19 5 regW) curW 19 (waitTarget (withTl 19 5 regW) curW 19 5) ∧
    waitTarget (withTl 19 5 regW) curW 19 5 ≤ timeline (withTl 19 5 regW) curW 19 ∧
    ¬waitTarget (withTl 19 5 regW) curW 19 6 ≤ timeline (withTl 19 5 regW) curW 19 ∧ wallCounter 19 = true ∧
    wallCounter 20 = false ∧ wallCounter 22 = true ∧ wallCounter 24 = false ∧ ¬waitTarget regW curW 20 1 ≤ timeline regW curW 20 ∧
    regW.frozen = .no ∧ (∀ c ∈ [cmdW .ceIn 0 .sent], c.parked? = false) ∧
    coversGated { regW with cmds := [cmdW .ceIn 0 .gated] } curW 0 (waitTarget regW curW 0 1) ∧
    regW.remote curW.t 1 1 = some (3, 2, 0) ∧ regW.remote curW.t 2 0 = none ∧ regW.remote curW.t 0xFF 0 = none :=
  ⟨issuing rfl, ⟨by decide, by decide⟩, no_missing rfl, not_gated rfl, by decide, by decide, by decide, by decide, by decide, by decide,
    by decide, rfl, by decide, ⟨_, .head _, rfl, rfl, by decide, rfl⟩, by decide, by decide, by decide⟩

/-- A BAR.AW that has arrived and holds its stream: the arrival is on its way, the flag has cleared, the phase stands. -/
theorem test_witness_BarrierInstructions_aw_holds :
    (∃ f ∈ (sending regArr curW 3 (.arrive 127 false)).flights, f.what = .arrive 127 false ∧ f.tile = curW.t ∧ f.strB = curW.b) ∧
    pendingFlag (barrier (withA (fun x => { x with arrived := true }) regW) curW 127) curW.b = false ∧
    (barrier (withBar (fun x => { x with phase := 0 }) regArr) curW 127).phase =
      targetPhase (barrier (withBar (fun x => { x with phase := 0 }) regArr) curW 127) curW.b ∧
    (∀ g ∈ [sending regArr curW 3 (.arrive 127 false), withBar (fun x => { x with phase := 0 }) regArr],
      (g.cur curW).arrived = true) :=
  ⟨⟨_, List.mem_append_right _ (.head _), rfl, rfl, rfl⟩, by decide, by decide, by decide⟩

/-- A wait that began in sc 2 with a clear flag, and a phase completed in sc 2 or 1. -/
theorem test_witness_BarrierInstructions_clear_flag :
    (∃ d, (barrier (withBar (fun x => { x with lastDone := some 2 }) regW) curW 127).lastDone = some d ∧
      ((withA (fun x => { x with waitFrom := some 2 }) regW).cur curW).waitFrom.getD 9 ≤ d) ∧
    ¬(2 : Nat) ≤ 1 :=
  ⟨⟨2, by decide, by decide⟩, by decide⟩

/-! ### Witnesses: memory class -/

/-- A read-write page of 64 KiB at 0x10000, under owner tag 5. -/
def pageW : Page := ⟨0x10000, 0x10000, true, true, .hbm, 0, 0x100000, 5⟩

def regH : Region := withH 3 ⟨0x10000, pageW⟩ regW

def ldW (imm : BitVec 16) : LdA := ⟨g0, .g 1, .g 2, .g 0, .g 0, imm, 8⟩

def stW (imm : BitVec 16) : StA := ⟨g0, .g 2, .g 1, .g 0, imm, 0xFFFF8⟩

/-- The last doubleword of a scratchpad of 32 banks, the first misaligned and the first past the end. -/
theorem test_witness_LocalLoadResult :
    Issuing (on regW (inSlot 2)) (inSlot 2) regW ∧ On regW (inSlot 2) g0 ∧ NoneMissing regW (inSlot 2) ∧
    Address (inSlot 2) (.ldD (ldW 0x7FF8)) (loadAddress (on regW (inSlot 2)) regW (inSlot 2) (.g 2) (.g 0) (.g 0) 0x7FF8) 8 0x7FF8 ∧
    Address { inSlot 2 with again := some ⟨.ldD (ldW 0), 3, [⟨16, false⟩]⟩ } (.ldD (ldW 0)) ⟨0, false⟩ 8 40 ∧
    InScratchpad regW 0xFFFF8 8 ∧ (regW.tile 0).cleanHit 0xFFFF8 8 = false ∧ ¬InScratchpad regW 0xFFFFC 8 ∧
    ¬InScratchpad regW 0x100000 1 ∧ InScratchpad regW 0 1 ∧ loadRows.length = 7 := by
  refine ⟨issuing rfl, ⟨by decide, by decide⟩, no_missing rfl, ⟨fun _ h => (nomatch h), by decide, by decide⟩,
    ⟨fun k h => ⟨⟨16, false⟩, ?_⟩, by decide, by decide⟩, ?_, by decide, ?_, ?_, ?_, rfl⟩
  · cases h; rfl
  all_goals unfold InScratchpad; decide

theorem test_witness_LocalStoreResult :
    Issuing (on regW (inSlot 2)) (inSlot 2) regW ∧ On regW (inSlot 2) g0 ∧ NoneMissing regW (inSlot 2) ∧
    Address (inSlot 2) (.stD (stW 0x7FF8)) (storeAddress (on regW (inSlot 2)) regW (inSlot 2) (.g 2) (.g 0) 0x7FF8) (-8) 0x7FF8 ∧
    Address { inSlot 2 with again := some ⟨.stD (stW 0), 1, [⟨0, false⟩]⟩ } (.stD (stW 0)) ⟨0, false⟩ (-8) (-8) ∧
    InScratchpad regW 0x7FF8 8 ∧ ¬InScratchpad regW (-8) 8 ∧ storeRows.length = 4 := by
  refine ⟨issuing rfl, ⟨by decide, by decide⟩, no_missing rfl, ⟨fun _ h => (nomatch h), by decide, by decide⟩,
    ⟨fun k h => ⟨⟨0, false⟩, ?_⟩, by decide, by decide⟩, ?_, ?_, rfl⟩
  · cases h; rfl
  all_goals unfold InScratchpad; decide

theorem test_witness_RemoteLoadAndStoreResult :
    Issuing (on regW (inSlot 2)) (inSlot 2) regW ∧ On regW (inSlot 2) g0 ∧ NoneMissing regW (inSlot 2) ∧
    Address (inSlot 2) (.ldx ⟨g0, .d, false, .g 1, .imm 56, .g 0, 1, 0, 0⟩)
      (storeAddress (on regW (inSlot 2)) regW (inSlot 2) (.imm 56) (.g 0) 0) 0 56 ∧
    Address (inSlot 2) (.stx ⟨g0, .b, .imm 63, .g 1, .g 0, 0, 1, 0⟩)
      (storeAddress (on regW (inSlot 2)) regW (inSlot 2) (.imm 63) (.g 0) 0) 0 63 ∧
    regW.remote 0 1 0 = some (1, 1, 0) ∧ regW.remote 0 0 1 = some (2, 1, 0) ∧ regW.remote 0 0 0 = some (0, 0, 0) ∧
    regW.remote 0 0 2 = none ∧ InScratchpad regW 56 8 ∧ InScratchpad regW 63 1 := by
  refine ⟨issuing rfl, ⟨by decide, by decide⟩, no_missing rfl, ⟨fun _ h => (nomatch h), by decide, by decide⟩,
    ⟨fun _ h => (nomatch h), by decide, by decide⟩, by decide, by decide, by decide, by decide, ?_, ?_⟩
  all_goals unfold InScratchpad; decide

def attW (f : Flav) (d : BitVec 7) : GAtt := ⟨1, .dev, f, d⟩

theorem accessible {cu : Cursor} {off : Word} {z va : Nat} {atomic : Bool}
    (hx : (regH.cur cu).bank.h[3] = some ⟨0x10000, pageW⟩) (hv : va = (BitVec.ofNat 64 0x10000 + off).toNat)
    (hi : 0x10000 ≤ va ∧ va + z ≤ 0x20000) (ha : atomic = true → va % z = 0) (rd wr : Bool) :
    Accessible regH cu 3 off z rd wr atomic va pageW :=
  ⟨⟨_, hx, hv, rfl⟩, hi, fun _ => rfl, fun _ => rfl, ha⟩

/-- An XLATE below 2^57, on a stored translation and off it; a GLD of the page's last doubleword; HREL; FENCE.C. -/
theorem test_witness_HandlesLoadsAndFences :
    Issuing (on regH (inSlot 2)) (inSlot 2) regH ∧ On regH (inSlot 2) g0 ∧ NoneMissing regH (inSlot 2) ∧
    Address (inSlot 2) (.xlate ⟨g0, 15, .g 2, .g 0, .g 0, 0x7FFF, 0⟩)
      (loadAddress (on regH (inSlot 2)) regH (inSlot 2) (.g 2) (.g 0) (.g 0) 0x7FFF) 0 0x7FFF ∧
    (0x7FFF : Word).toNat < 2 ^ 57 ∧ (0x1FFFFFFFFFFFFFF : Word).toNat < 2 ^ 57 ∧ (inSlot 2).t < regH.tiles.length ∧
    Address (inSlot 2) (.gld ⟨g0, .d, false, .g 1, 3, .imm 63, attW .acq 0x3F, 0⟩)
      (sumOf [operandValue (on regH (inSlot 2)) regH (inSlot 2) (.imm 63), ⟨(0x3F : BitVec 7).signExtend 64, false⟩]) 0 126 ∧
    Accessible regH (inSlot 2) 3 0xFFF8 8 true false false 0x1FFF8 pageW ∧
    Accessible regH (inSlot 2) 3 126 (bytesOf .d) true false false 0x1007E pageW :=
  ⟨issuing rfl, ⟨by decide, by decide⟩, no_missing rfl, ⟨fun _ h => (nomatch h), by decide, by decide⟩, by decide, by decide, by decide,
    ⟨fun _ h => (nomatch h), by decide, by decide⟩, accessible (by decide) (by decide) (by decide) (by decide) _ _,
    accessible (by decide) (by decide) (by decide) (by decide) _ _⟩

/-- A gated item of the stitch. -/
def itemW (k : ItemKind) : Item := ⟨1, k, 0, 0, 0, false, 0x10000, some pageW, [1, 2, 3, 4], false, 0, 4, 0, 2, none, false, [], 0⟩

def regFull : Region := { regH with items := List.replicate 256 (itemW .gst) }

theorem test_witness_GatedItemsOfTheLoadStoreSlot :
    Issuing (on regH (inSlot 2)) (inSlot 2) regH ∧ On regH (inSlot 2) g0 ∧ NoneMissing regH (inSlot 2) ∧ regH.stub = false ∧
    Address (inSlot 2) (.gst ⟨g0, .d, 3, .g 1, .g 0, attW .rel 0x38, 0⟩)
      (sumOf [operandValue (on regH (inSlot 2)) regH (inSlot 2) (.g 0), ⟨(0x38 : BitVec 7).signExtend 64, false⟩]) 0 0x38 ∧
    Address (inSlot 2) (.red ⟨g0, .add, true, 3, .g 1, .g 0, attW .plain 0x38, 0⟩)
      (sumOf [operandValue (on regH (inSlot 2)) regH (inSlot 2) (.g 0), ⟨(0x38 : BitVec 7).signExtend 64, false⟩]) 0 0x38 ∧
    Accessible regH (inSlot 2) 3 0x38 8 false true false 0x10038 pageW ∧ Accessible regH (inSlot 2) 3 0x38 8 true true true 0x10038 pageW ∧
    RoomForItem { regH with items := List.replicate 255 (itemW .gst) } ∧ Issuing (on regFull (inSlot 2)) (inSlot 2) regFull ∧
    ¬RoomForItem regFull ∧ (regH.cur (inSlot 2)).bank.h[4] = none ∧ updateRows.length = 2 := by
  refine ⟨issuing rfl, ⟨by decide, by decide⟩, no_missing rfl, rfl, ⟨fun _ h => (nomatch h), by decide, by decide⟩,
    ⟨fun _ h => (nomatch h), by decide, by decide⟩, accessible (by decide) (by decide) (by decide) (by decide) _ _,
    accessible (by decide) (by decide) (by decide) (by decide) _ _, ?_, issuing rfl, ?_, by decide, rfl⟩
  all_goals unfold RoomForItem; decide

def casW (rid : Option (BitVec 16)) : AtomrA := ⟨.cas, true, .g 1, 3, .g 1, .g 2, attW .ar 8, rid⟩

def regVa : Region := withA (fun x => { x with va := some (stuck (.nop g0) []) }) regH

theorem test_witness_AtomrPresentsItsCommit :
    Issuing (on regH (inSlot 2)) (inSlot 2) regH ∧ NoneMissing regH (inSlot 2) ∧ regH.stub = false ∧
    (inSlot 2).t < regH.tiles.length ∧ (operandValue (on regH (inSlot 2)) regH (inSlot 2) (.g 2)).bad = false ∧
    (casW (some 7)).rid = some 7 ∧ (regH.pat.recs.find? fun r => r.id = 7).isSome = true ∧
    Accessible regH (inSlot 2) 3 8 8 true true true 0x10008 pageW ∧ (regH.cur (inSlot 2)).va = none ∧ (regH.cur (inSlot 2)).mx = none ∧
    (inSlot 2).present.getLsbD 3 = false ∧ (inSlot 2).present.getLsbD 4 = false ∧ RoomForItem regH ∧
    Issuing (on regVa (inSlot 2)) (inSlot 2) regVa ∧ (regVa.cur (inSlot 2)).va.isSome = true ∧ (casW none).rid = none := by
  refine ⟨issuing rfl, no_missing rfl, rfl, by decide, by decide, rfl, by decide,
    accessible (by decide) (by decide) (by decide) (by decide) _ _, by decide, by decide, by decide, by decide, ?_, issuing rfl,
    by decide, rfl⟩
  unfold RoomForItem; decide

/-- A poisoned word in a segment that a fill left clean. -/
def regClean : Region :=
  withTile (fun x => { x with sp := { x.sp with bad := [0] }, clean := [⟨0, 0x10000, 0, 0, 0⟩] }) regW

/-- Local loads: a clean-filled word with poison, misaligned at once with out of bounds, each at its cause. -/
theorem test_witness_LocalLoadResult_causes :
    Issuing (on regClean (inSlot 2)) (inSlot 2) regClean ∧ (regClean.tile 0).cleanHit (0 : Word).toNat 8 = true ∧
    scratchpadCause 0x100001 2 = 0x091 ∧ scratchpadCause 0x100000 2 = 0x090 := by
  exact ⟨issuing rfl, by decide, by decide, by decide⟩

/-- XLATE at 2^57; an access without a handle, a byte below and past its page, without the permission, misaligned. -/
theorem test_witness_HandlesLoadsAndFences_causes :
    2 ^ 57 ≤ (0x200000000000000 : Word).toNat ∧
    accessFault regH (inSlot 2) 4 0 8 true false false = some (0x104, 0) ∧
    accessFault regH (inSlot 2) 3 (-1) 8 true false false = some (0x105, 0xFFFF) ∧
    accessFault regH (inSlot 2) 3 0xFFF9 8 true false false = some (0x105, 0x1FFF9) ∧
    accessFault (withH 3 ⟨0x10000, { pageW with rd := false }⟩ regW) (inSlot 2) 3 0 8 true false false = some (0x106, 0x10000) ∧
    accessFault (withH 3 ⟨0x10000, { pageW with wr := false }⟩ regW) (inSlot 2) 3 0 8 true true true = some (0x106, 0x10000) ∧
    accessFault regH (inSlot 2) 3 4 8 true true true = some (0x107, 0x10004) :=
  ⟨by decide, by decide, by decide, by decide, by decide, by decide, by decide⟩

/-- ATOMR beside an active matrix slot, with an address that is no handle's. -/
theorem test_witness_AtomrPresentsItsCommit_causes :
    accessFault regW (inSlot 2) 3 8 8 true true true = some (0x104, 0) ∧
    ((withA (fun x => { x with mx := some (stuck (.nop g0) []) }) regH).cur (inSlot 2)).mx.isSome = true ∧
    (operandValue (on regW (inSlot 2)) regW (inSlot 2) (.g 9)).bad = false :=
  ⟨by decide, by decide, by decide⟩

/-! ### Witnesses: vector class -/

/-- Lane mask 2 admits lanes 0 and 31; vector register 4 holds the numbers 0 to 31 in its lanes. -/
def regV : Region := withBank (fun k => { k with
  m := k.m.set! 2 ⟨0x80000001, false⟩
  v := k.v.set! 4 ⟨BitVec.ofNat 1024 ((List.range 32).foldr (fun l a => l + 2 ^ 32 * a) 0), 0⟩ }) regW

def vaW : Cursor := inSlot 3

def lsW : Cursor := inSlot 2

def g2 : VGuard := ⟨2, false⟩

def notAll : VGuard := ⟨0, true⟩

/-- A guard that admits lanes 0 and 31, one that admits none (m0 inverted). -/
theorem lanesV : Lanes regV vaW g2 0x80000001 ∧ Lanes regV vaW notAll 0 ∧ Lanes regV vaW ⟨0, false⟩ 0xFFFFFFFF :=
  ⟨⟨by decide, by decide⟩, ⟨by decide, by decide⟩, ⟨by decide, by decide⟩⟩

/-- VLD and VST at the last 128 bytes and one word later; VGATH and VSCAT with the indices 0 and 31, and a scatter whose
second lane is misaligned. -/
theorem test_witness_VectorMemoryAccess :
    Issuing (on regV lsW) lsW regV ∧ NoneMissing regV lsW ∧ On regV lsW g0 ∧ Lanes regV lsW g2 0x80000001 ∧
    Address lsW (.vld ⟨g0, 2, 1, .imm 32, .g 0, .g 0, 0, 0⟩)
      (loadAddress (on regV lsW) regV lsW (.imm 32) (.g 0) (.g 0) 0) 0 32 ∧
    InScratchpad128 regV 0xFFF80 ∧ ¬InScratchpad128 regV 0xFFF84 ∧ ¬InScratchpad128 regV 2 ∧
    (∀ l ∈ enabledLanes 0x80000001, (regV.tile 0).cleanHit (0xFFF80 + 4 * l) 4 = false) ∧
    Address lsW (.vst ⟨g0, 2, .imm 32, 1, .g 0, 0, 0⟩) (storeAddress (on regV lsW) regV lsW (.imm 32) (.g 0) 0) 0 32 ∧
    Address lsW (.vgath ⟨g0, 2, .b, true, 1, .imm 32, 4, .g 0, 0, 0⟩)
      (storeAddress (on regV lsW) regV lsW (.imm 32) (.g 0) 0) 0 32 ∧
    (∀ l ∈ enabledLanes 0x80000001, ((regV.cur lsW).bank.v[4]).bad.getLsbD l = false) ∧
    laneAddresses 32 (regV.cur lsW).bank.v[4] 0x80000001 = [(0, 32), (31, 63)] ∧
    (∀ p ∈ laneAddresses 32 (regV.cur lsW).bank.v[4] 0x80000001, p.2 % 1 = 0 ∧ p.2 + 1 ≤ 0x8000 * regV.pat.nb) ∧
    (∀ p ∈ laneAddresses 32 (regV.cur lsW).bank.v[4] 0x80000001, (regV.tile 0).cleanHit p.2 1 = false) ∧
    Address lsW (.vscat ⟨g0, 2, .h, 4, 1, .imm 32, 0, 0⟩)
      (sumOf [operandValue (on regV lsW) regV lsW (.imm 32), ⟨(0 : BitVec 16).signExtend 64, false⟩]) 0 32 ∧
    ((laneAddresses 32 (regV.cur lsW).bank.v[4] 0x80000001).filter fun p =>
      !(p.2 % 2 == 0 && decide (p.2 + 2 ≤ 0x8000 * regV.pat.nb))) = [(31, 63)] := by
  refine ⟨issuing rfl, no_missing rfl, ⟨by decide, by decide⟩, ⟨by decide, by decide⟩,
    ⟨fun _ h => (nomatch h), by decide, by decide⟩, ?_, ?_, ?_, by decide, ⟨fun _ h => (nomatch h), by decide, by decide⟩,
    ⟨fun _ h => (nomatch h), by decide, by decide⟩, by decide, by decide, by decide, by decide,
    ⟨fun _ h => (nomatch h), by decide, by decide⟩, by decide⟩
  all_goals unfold InScratchpad128; decide

theorem test_witness_ElementwiseVectorResult :
    Issuing (on regV vaW) vaW regV ∧ NoneMissing regV vaW ∧ Lanes regV vaW g2 0x80000001 ∧ Lanes regV vaW notAll 0 ∧
    elementRows.length = 17 :=
  ⟨issuing rfl, no_missing rfl, lanesV.1, lanesV.2.1, rfl⟩

theorem test_witness_VectorResultWritesItsElementsOnly :
    (([(0, 7, false), (31, 9, true)] : List ElemOut).map (·.1)).Nodup ∧
    (∀ e ∈ ([(0, 7, false), (31, 9, true)] : List ElemOut), e.1 < Fmt.f32.count) ∧
    (5 < Fmt.f32.count ∧ 5 ∉ ([(0, 7, false), (31, 9, true)] : List ElemOut).map (·.1)) ∧ (3 : BitVec 5) ≠ 2 := by decide

theorem test_witness_VectorCompareResult :
    Issuing (on regV vaW) vaW regV ∧ NoneMissing regV vaW ∧ Lanes regV vaW g2 0x80000001 ∧ relationRows.length = 4 :=
  ⟨issuing rfl, no_missing rfl, lanesV.1, rfl⟩

/-- VPERM's indices of an i32 register are sound; VEXT of the masked-out lane 1 and of lane 31. -/
theorem test_witness_VectorSelectionAndMovement :
    Issuing (on regV vaW) vaW regV ∧ NoneMissing regV vaW ∧ Lanes regV vaW g2 0x80000001 ∧
    (sourceScalar (on regV vaW) regV vaW (.imm 31)).bad = false ∧
    (∀ e ∈ admittedElements 0x80000001 .i32, (sourceElement (on regV vaW) regV vaW .i32 (.v 4) e).2 = false) ∧
    elementIndex (on regV vaW) regV vaW (vm .i32) (.imm 31) = 31 ∧ elementIndex (on regV vaW) regV vaW (vm .i32) (.imm 1) = 1 :=
  ⟨issuing rfl, no_missing rfl, lanesV.1, by decide, by decide, by decide, by decide⟩

theorem test_witness_VectorReductionResult :
    Issuing (on regV vaW) vaW regV ∧ Lanes regV vaW g2 0x80000001 ∧ Lanes regV vaW notAll 0 ∧ (vm .i8).fmt.isInt = true ∧
    reductionRows.length = 3 :=
  ⟨issuing rfl, lanesV.1, lanesV.2.1, rfl, rfl⟩

def tabW : TabSlot := ⟨some ⟨List.replicate 3104 0, []⟩, 0, []⟩

def regT : Region := withTile (fun x => { x with tabs := x.tabs.set! 7 (some tabW) }) regV

theorem test_witness_ConversionScalingAndTable :
    Issuing (on regV vaW) vaW regV ∧ NoneMissing regV vaW ∧ Lanes regV vaW g2 0x80000001 ∧ conversionRows.length = 3 ∧
    ({ vm .f32 with x := 0x1C9 } : VMod).tab = 7 ∧ (regV.tile 0).tabs[7] = none ∧
    Issuing (on regT vaW) vaW regT ∧ NoneMissing regT vaW ∧ Lanes regT vaW ⟨0, false⟩ 0xFFFFFFFF ∧
    (regT.tile 0).tabs[7] = some tabW ∧ tabW.table = some ⟨List.replicate 3104 0, []⟩ ∧ regT.tabPending 0 7 = false :=
  ⟨issuing rfl, no_missing rfl, lanesV.1, rfl, by decide, by decide, issuing rfl, no_missing rfl, ⟨by decide, by decide⟩, rfl, rfl,
    by decide⟩

theorem test_witness_LaneMaskResult :
    Issuing (on regV vaW) vaW regV ∧ NoneMissing regV vaW ∧ Lanes regV vaW g2 0x80000001 ∧ maskRows.length = 4 :=
  ⟨issuing rfl, no_missing rfl, lanesV.1, rfl⟩

/-- The segment of the register's lanes is clean-filled and its first word poisoned. -/
def regVClean : Region :=
  withTile (fun x => { x with sp := { x.sp with bad := [4] }, clean := [⟨0, 0x10000, 0, 0, 0⟩] }) regV

/-- A poisoned lane 31 of the index register. -/
def regVBad : Region := withBank (fun k => { k with v := k.v.set! 4 ⟨k.v[4].bits, 0x80000000⟩ }) regV

/-- The failing checks of the vector memory operations: a poisoned index, a lane outside, a clean-filled word with poison. -/
theorem test_witness_VectorMemoryAccess_causes :
    (∃ l ∈ enabledLanes 0x80000001, ((regVBad.cur lsW).bank.v[4]).bad.getLsbD l = true) ∧
    outsideLanes regV 2 (laneAddresses 32 (regV.cur lsW).bank.v[4] 0x80000001) = [(31, 63)] ∧
    outsideLanes regV 1 (laneAddresses 32 (regV.cur lsW).bank.v[4] 0x80000001) = [] ∧
    (∃ p ∈ laneAddresses 32 (regVClean.cur lsW).bank.v[4] 0x80000001, (regVClean.tile 0).cleanHit p.2 1 = true) ∧
    (∃ l ∈ enabledLanes 0x80000001, (regVClean.tile 0).cleanHit (32 + 4 * l) 4 = true) := by decide

/-! ### Witnesses: matrix and engine classes -/

/-- Parameters of a legal product: bf16 by bf16, K = 64, pitch 128, drained as f32 at pitch 256, tiles at pitch 256. -/
def mpW : MxPar := #v[⟨0x77, false⟩, ⟨2, false⟩, ⟨128, false⟩, ⟨0, false⟩, ⟨0, false⟩, ⟨0x100009, false⟩, ⟨0, false⟩, ⟨256, false⟩]

/-- The same for MMAS: K = 128, metadata 0x4000 after A. -/
def mpS : MxPar := #v[⟨0x77, false⟩, ⟨4, false⟩, ⟨256, false⟩, ⟨0x400000000, false⟩, ⟨0, false⟩, ⟨0x100009, false⟩, ⟨0, false⟩, ⟨256, false⟩]

def withMp (m : MxPar) : Region → Region := withTile fun x => { x with mp := m }

/-- A region whose pattern declares slots 0 to 6, so that tensor blocks 14 and 15 are general. -/
def regM (m : MxPar) : Region := withMp m { regW with pat := { patW with acc := 0x7F } }

def mxW : Cursor := inSlot 4

theorem matrix_ready (m : MxPar) (com : MxCom) (h : ∀ v ∈ m.toList, v.bad = false)
    (hr : (((regM m).cur mxW).bank.getMx false (MxPar.rowMask m)).bad = false)
    (hc : (((regM m).cur mxW).bank.getMx true (MxPar.colMask m)).bad = false) (hw : com.wait.toNat ≤ 20) :
    MatrixReady (regM m) mxW com :=
  ⟨rfl, (by show 0 < 4; decide), (by show 0 < 16; decide), h, hr, hc, fun _ => not_gated rfl, hw⟩

theorem pairing_iff (m : MxPar) : pairingOf m ≠ none ↔ (pairingOf m).isSome = true := by cases pairingOf m <;> simp

theorem scaled_iff (m : MxPar) : Scaled m ↔ (pairingOf m).any (·.scales) = true := by
  unfold Scaled; cases pairingOf m <;> simp

theorem passes {l : CheckList} (h : l.Forall fun p => p.1) : AllPass l := List.forall_iff_forall_mem.mp h

/-- The n-th check is the first that fails. -/
theorem first_fails {q : Prop} {c : Cause} {va : Nat} : ∀ (n : Nat) {l : CheckList}, l[n]? = some (q, c, va) →
    (l.take n).Forall (fun p => p.1) → ¬q → FirstFails l c va
  | _, [], h, _, _ => nomatch h
  | 0, _ :: _, h, _, hn => .inl (by cases h; exact ⟨hn, rfl, rfl⟩)
  | n + 1, _ :: l, h, ha, hn => by
    rw [List.take_succ_cons, List.forall_cons] at ha
    exact .inr ⟨ha.1, first_fails n h ha.2 hn⟩

/-- Rows that end exactly with the scratchpad, slots 0 and 6 declared, block 15 general; a wait on counter 19. -/
theorem test_witness_MatrixMoveCommandsEnqueue :
    Issuing (on (regM mpW) mxW) mxW (regM mpW) ∧ On (regM mpW) mxW g0 ∧ MatrixReady (regM mpW) mxW mc ∧
    MatrixReady (regM mpW) mxW { mc with wait := 20, delta := 2047 } ∧ (∀ k, mxW.again = some k → k.addrs = []) ∧
    AllPass [slotCheck (regM mpW) 6, operandCheck (regM mpW) (.acc 0)] ∧ NoneMissing (regM mpW) mxW ∧
    AllPass (operandCheck (regM mpW) (.blk 15) :: rowChecks (regM mpW) 0xFC000 (MxPar.pitchT ((regM mpW).tile mxW.t).mp) 256) ∧
    TensorAddress mxW (.tmld ⟨mc, .blk 15, .imm 32, .g 0⟩) (tensorOperands (on (regM mpW) mxW) (regM mpW) mxW (.imm 32) (.g 0) (.g 0))
      0 0 32 := by
  refine ⟨issuing rfl, ⟨by decide, by decide⟩, matrix_ready _ _ (by decide) (by decide) (by decide) (by decide),
    matrix_ready _ _ (by decide) (by decide) (by decide) (by decide), fun _ h => (nomatch h), ?_, no_missing rfl, ?_,
    ⟨fun _ h => (nomatch h), by decide, by decide⟩⟩
  all_goals exact passes (by simp only [List.Forall, slotCheck, operandCheck, rowChecks, SlotDeclared]; decide)

/-- The causes of the moves: slot 7 is not declared, block 0 is slot 0's; rows misaligned, of too small a pitch, too long. -/
theorem test_witness_MatrixMoveCommandsEnqueue_causes :
    FirstFails [slotCheck (regM mpW) 7] 0x0D2 0 ∧ FirstFails [slotCheck (regM mpW) 0, operandCheck (regM mpW) (.blk 0)] 0x0D3 0 ∧
    FirstFails (rowChecks (regM mpW) 8 256 256) 0x091 0 ∧ FirstFails (rowChecks (regM mpW) 0 240 256) 0x0D5 0 ∧
    FirstFails (rowChecks (regM mpW) 0xFC010 256 256) 0x090 0 := by
  refine ⟨first_fails 0 rfl ?_ ?_, first_fails 1 rfl ?_ ?_, first_fails 0 rfl ?_ ?_, first_fails 1 rfl ?_ ?_,
    first_fails 2 rfl ?_ ?_⟩
  all_goals try simp only [List.take, List.Forall, slotCheck, rowChecks, SlotDeclared]
  all_goals decide

def mmaW : MmaA := ⟨mc, 6, true, false, .imm 16, .imm 32, .g 0⟩

theorem test_witness_MatrixProductAndDrainEnqueue :
    (∀ m, Issuing (on (regM m) mxW) mxW (regM m) ∧ NoneMissing (regM m) mxW) ∧ On (regM mpW) mxW mc.gd ∧ On (regM mpS) mxW mc.gd ∧
    MatrixReady (regM mpW) mxW mc ∧ MatrixReady (regM mpS) mxW mc ∧
    TensorAddress mxW (.mma mmaW) (tensorOperands (on (regM mpW) mxW) (regM mpW) mxW mmaW.a mmaW.b mmaW.c) 0 0 16 ∧
    TensorAddress mxW (.mma mmaW) (tensorOperands (on (regM mpW) mxW) (regM mpW) mxW mmaW.a mmaW.b mmaW.c) 1 0 32 ∧
    AllPass (productChecks (regM mpW) mxW mpW 6 false false 16 32) ∧ AllPass (productChecks (regM mpS) mxW mpS 6 true false 16 32) ∧
    AllPass (productChecks (withTile (fun x => { x with bypFmt := some .bf16 }) (regM mpW)) mxW mpW 6 false true 16 32) ∧
    DrainLegal false mpW ∧ ¬DrainLegal true mpW ∧
    AllPass (rowChecks (regM mpW) 16 (MxPar.pitchD mpW) (8 * (MxPar.fd mpW).width)) := by
  refine ⟨fun _ => ⟨issuing rfl, no_missing rfl⟩, ⟨by decide, by decide⟩, ⟨by decide, by decide⟩,
    matrix_ready _ _ (by decide) (by decide) (by decide) (by decide), matrix_ready _ _ (by decide) (by decide) (by decide) (by decide),
    ⟨fun _ h => (nomatch h), by decide, by decide⟩, ⟨fun _ h => (nomatch h), by decide, by decide⟩,
    passes ?_, passes ?_, passes ?_, ?_, ?_, passes ?_⟩
  all_goals simp only [productChecks, rowChecks, List.Forall, slotCheck, SlotDeclared, scaled_iff, pairing_iff, DrainLegal]
  all_goals decide

/-- The parameters with K of 0, of 32800, and MMAS's with K of 64. -/
def kW (k : Word) (m : MxPar) : MxPar := m.set 1 ⟨k, false⟩

/-- Every cause of a product: slot 7, a pairing of bf16 with i8, depths, places of A, B and the bypass that do not fit. -/
theorem test_witness_MatrixProductAndDrainEnqueue_causes :
    FirstFails (productChecks (regM mpW) mxW mpW 7 false false 16 32) 0x0D2 0 ∧
    FirstFails (productChecks (regM mpW) mxW (mpW.set 0 ⟨0x97, false⟩) 6 false false 16 32) 0x0D5 0 ∧
    FirstFails (productChecks (regM mpW) mxW (kW 0 mpW) 6 false false 16 32) 0x0D5 0 ∧
    FirstFails (productChecks (regM mpW) mxW (kW 1025 mpW) 6 false false 16 32) 0x0D5 0 ∧
    FirstFails (productChecks (regM mpS) mxW (kW 2 mpS) 6 true false 16 32) 0x0D5 0 ∧
    FirstFails (productChecks (regM mpW) mxW mpW 6 false false 8 32) 0x091 0 ∧
    FirstFails (productChecks (regM mpW) mxW (mpW.set 2 ⟨112, false⟩) 6 false false 16 32) 0x0D5 0 ∧
    FirstFails (productChecks (regM mpW) mxW mpW 6 false false 0x100000 32) 0x090 0 ∧
    FirstFails (productChecks (regM mpW) mxW mpW 6 false false 16 40) 0x0D4 0 ∧
    FirstFails (productChecks (regM mpW) mxW mpW 6 false true 16 32) 0x0D6 0 := by
  refine ⟨first_fails 0 rfl ?_ ?_, first_fails 1 rfl ?_ ?_, first_fails 2 rfl ?_ ?_, first_fails 2 rfl ?_ ?_,
    first_fails 3 rfl ?_ ?_, first_fails 4 rfl ?_ ?_, first_fails 5 rfl ?_ ?_, first_fails 6 rfl ?_ ?_,
    first_fails 11 rfl ?_ ?_, first_fails 13 rfl ?_ ?_⟩
  all_goals try simp only [productChecks, List.take, List.Forall, slotCheck, SlotDeclared, scaled_iff, pairing_iff]
  all_goals decide

/-- A command that started, of slot 6, over all rows and columns; a product from a bypass of zeros. -/
def mxCmdW (op : MxOp) (m : MxPar) : MxCmd :=
  ⟨op, 0, 1, 9, 4, 7, true, false, none, m, BitVec.allOnes 64, BitVec.allOnes 64, 0, false, 0, 0, false, true, false, true, [], false, none⟩

def regByp : Region := withTile (fun x => { x with byp := some ⟨.bf16, List.replicate 4096 (0, false)⟩ }) (regM mpW)

theorem test_witness_MatrixProductsComputeTheirElements :
    MxPar.k (mxCmdW (.mma 6 true true) mpW).mp = 64 ∧ (∃ b, bypassNow (regByp.tile 0) = some b ∧ b.elems.length = 4096) ∧
    MxPar.k (mxCmdW (.mmas 6 true) mpS).mp % 128 = 0 ∧ Admits (mxCmdW (.mma 6 true false) mpW) 63 63 :=
  ⟨by decide, ⟨_, rfl, List.length_replicate⟩, by decide, ⟨by decide, by decide⟩⟩

theorem test_witness_MatrixMovesComputeTheirElements :
    256 ≤ MxPar.pitchT (mxCmdW (.tmst (.acc 6)) mpW).mp ∧ DrainLegal false (mxCmdW (.mdrain 6 false) mpW).mp ∧
    64 * ((MxPar.fd (mxCmdW (.mdrain 6 false) mpW).mp).width / 8) ≤ MxPar.pitchD (mxCmdW (.mdrain 6 false) mpW).mp ∧
    ¬Admits { mxCmdW (.mzero 6) mpW with rows := 1 } 1 0 ∧ (mxCmdW (.mzero 6) mpW).fresh = true := by
  simp only [DrainLegal, Admits]; decide

/-- For each parameter the largest value within its bits, or with its largest legal code, and one just past it. -/
theorem test_witness_ShadowParametersAndMasks :
    Issuing (on regW mxW) mxW regW ∧ NoneMissing regW mxW ∧ On regW mxW g0 ∧ (operandValue (on regW mxW) regW mxW (.g 1)).bad = false ∧
    ParameterLegal 0 0x1CC ∧ ¬ParameterLegal 0 0x1CD ∧ ¬ParameterLegal 0 0x200 ∧ ParameterLegal 1 0x17FF ∧ ¬ParameterLegal 1 0x1800 ∧
    ParameterLegal 2 0xFFFFF ∧ ¬ParameterLegal 2 0x100000 ∧ ParameterLegal 3 0xFFFFFFFFFF ∧ ¬ParameterLegal 3 0x10000000000 ∧
    ParameterLegal 4 0xFFFF ∧ ¬ParameterLegal 4 0x10000 ∧ ParameterLegal 5 0xFFFFF0CC ∧ ¬ParameterLegal 5 0x50 ∧
    ¬ParameterLegal 5 0x100 ∧ ParameterLegal 6 15 ∧ ¬ParameterLegal 6 16 ∧ ParameterLegal 7 0xFFFFF ∧ ¬ParameterLegal 7 0x100000 ∧
    (⟨g0, 3, .g 1, none⟩ : MaskA).range = none ∧ (⟨g0, 3, .g 1, some (.g 2)⟩ : MaskA).range = some (.g 2) := by
  refine ⟨issuing rfl, no_missing rfl, ⟨by decide, by decide⟩, by decide, ?_⟩
  simp only [ParameterLegal]; decide

def ecW : Cursor := inSlot 5

/-- Descriptor 15 of tile 0. -/
def withDs (d : Desc) : Region → Region := withTile fun x => { x with ds := x.ds.set! 15 d }

theorem test_witness_DescriptorsStatusAndTableConfiguration :
    Issuing (on regT ecW) ecW regT ∧ On regT ecW g0 ∧ regT.stub = false ∧ NoneMissing regT ecW ∧
    (operandValue (on regT ecW) regT ecW (.g 1)).bad = false ∧ (regT.tile ecW.t).tabs[7] ≠ none ∧ (regT.tile ecW.t).tabs[0] = none :=
  ⟨issuing rfl, ⟨by decide, by decide⟩, rfl, no_missing rfl, by decide, by decide, by decide⟩

def desc (w0 w1 w2 w3 w4 : Word) : Desc :=
  #v[⟨w0, false⟩, ⟨w1, false⟩, ⟨w2, false⟩, ⟨w3, false⟩, ⟨w4, false⟩, ⟨0, false⟩, ⟨0, false⟩, ⟨0, false⟩]

/-- Word 1 with scope .SYS, a format, pitch 16 and scratchpad address 0. -/
def word1 (f : Fmt) : Word := 0x0A00_0000_1000_0000 + BitVec.ofNat 64 (f.code.toNat * 2 ^ 52)

/-- One row of 16 bytes at pitch 16. -/
def word2 : Word := 0x0000_0010_0001_0010

/-- A legal command of every function that has a descriptor (12 R314), with the counter it numbers. -/
def commandsW : List (EngFn × Nat × Desc) :=
  [(.ceIn, 0, desc 0x10000 (word1 .i8) word2 0 0), (.ceOut, 15, desc 0x10000 (word1 .i8) word2 0 0),
   (.ceOutr .add, 1, desc 0x10000 (word1 .i32) word2 0 0), (.ceOutr .fadd, 1, desc 0x10000 (word1 .f32) word2 0 0),
   (.ceB, 2, desc 0x10000 (word1 .i8) word2 63 0), (.ceWin, 3, desc 0x10000 (word1 .i8) 0x1000040004 0x4001000000000 0x1100000000000009),
   (.ceGath, 4, desc 0x10000 (word1 .i8) word2 0x100 0), (.ceScat, 5, desc 0x10000 (word1 .i8) word2 0x100 0),
   (.ceXfer, 6, desc 0 (word1 .i8) 0x10010 0x10001000200 0), (.ceFill, 7, desc 0x55 (word1 .i8) 0x10010 0 0),
   (.colRed .add, 16, desc 3 (word1 .f32) 0x10010 0x200 0), (.colAg, 17, desc 3 (word1 .i8) 0x10010 0x200 0),
   (.colBc, 18, desc 3 (word1 .i8) 0x10010 0x200 0), (.colQ, 19, desc 3 (word1 .i8) 0x10010 0x200 0),
   (.colQFree, 19, desc 3 (word1 .i8) 0x10010 0x200 0)]

def regE (d : Desc) : Region := withDs d regW

/-- A B-stack range of two rows from slice 63 on, and a target one tile outside the region. -/
def badW : List (EngFn × Nat × Desc) :=
  [(.ceB, 2, desc 0x10000 (word1 .i8) 0x1000020010 63 0), (.ceXfer, 6, desc 0 (word1 .i8) 0x10010 0x20001000200 0)]

def allW : List (EngFn × Nat × Desc) := commandsW ++ badW

theorem in_all {p : EngFn × Nat × Desc} (h : p ∈ commandsW) : p ∈ allW := List.mem_append_left _ h

/-- The command that descriptor 15 and zero operands issue. -/
def issuedW (p : EngFn × Nat × Desc) : Cmd :=
  issuedCmd (on (regE p.2.2) ecW) (regE p.2.2) ecW p.1 p.2.1 (descriptor (regE p.2.2) ecW 15) 0 0

theorem reserved_clear : ∀ p ∈ allW, ∀ k, kindOf p.1 = some k → ReservedClear k (issuedW p).desc := by
  have h : ∀ p ∈ allW, ∀ k ∈ kindOf p.1, ∀ w, w < 8 → ∀ b, b < 64 → (descWord (issuedW p).desc w).getLsbD b = true →
      ∃ f ∈ listedFields k ++ wordOneFields, f.1 = w ∧ f.2.2 ≤ b ∧ b ≤ f.2.1 := by decide
  exact h

theorem each {q : EngFn × Nat × Desc → Prop} (h : allW.Forall q) : ∀ p ∈ allW, q p := List.forall_iff_forall_mem.mp h

theorem shape_legal : ∀ p ∈ allW, ShapeLegal (issuedW p) := by
  refine each ?_
  simp only [allW, commandsW, badW, List.cons_append, List.nil_append, List.Forall]
  refine ⟨?_, ?_, ?_, ?_, ?_, ?_, ?_, ?_, ?_, ?_, ?_, ?_, ?_, ?_, ?_, ?_, ?_⟩
  all_goals
    refine ⟨by decide, _, rfl, ?_⟩
    simp only [issuedW, issuedCmd, CollectiveFormat]
    try decide

theorem ranges_fit : ∀ p ∈ allW, GlobalBelow (issuedW p) ∧ ScratchpadBelow (0x8000 * (regE p.2.2).pat.nb)
    (numberOf ((regE p.2.2).spRead (on (regE p.2.2) ecW).fresh ecW.t (issuedW p).a.toNat 8)) (issuedW p) ∧ PlacesAligned (issuedW p) := by
  refine each ?_
  simp only [allW, commandsW, badW, List.cons_append, List.nil_append, List.Forall]
  refine ⟨?_, ?_, ?_, ?_, ?_, ?_, ?_, ?_, ?_, ?_, ?_, ?_, ?_, ?_, ?_, ?_, ?_⟩
  all_goals
    simp only [GlobalBelow, ScratchpadBelow, PlacesAligned, RowsBelow, issuedW, issuedCmd]
    decide

theorem commands_pass : ∀ p ∈ commandsW, AllPass (engineChecks (on (regE p.2.2) ecW) (regE p.2.2) ecW (issuedW p)) := by
  intro p hp
  have hr := ranges_fit p (in_all hp)
  have hn : ∀ p ∈ commandsW, (issuedW p).fn ≠ .schEnq ∧
      ((issuedW p).fn = .ceB → descField (issuedW p).desc 3 5 0 + rowsOf (issuedW p) ≤ 64 ∧
        descField (issuedW p).desc 3 30 16 + rowBytesOf (issuedW p) ≤ 32768) ∧
      ((issuedW p).fn = .ceXfer → (regE p.2.2).remote ecW.t ((descWord (issuedW p).desc 3).extractLsb' 40 8)
        ((descWord (issuedW p).desc 3).extractLsb' 48 8) ≠ none) := by decide
  exact passes ⟨fun k hk => ⟨reserved_clear p (in_all hp) k hk, shape_legal p (in_all hp)⟩, fun h => absurd h (hn p hp).1, hr.1, hr.2.1, hr.2.2,
    (hn p hp).2.1, (hn p hp).2.2⟩

theorem test_witness_CopyAndCollectiveCommandsIssue :
    ∀ p ∈ commandsW, Issuing (on (regE p.2.2) ecW) ecW (regE p.2.2) ∧
      EngineReady (on (regE p.2.2) ecW) (regE p.2.2) ecW g0 p.1 p.2.1 (descriptor (regE p.2.2) ecW 15)
        (operandValue (on (regE p.2.2) ecW) (regE p.2.2) ecW (.g 0)) (operandValue (on (regE p.2.2) ecW) (regE p.2.2) ecW (.g 0)) := by
  intro p hp
  have hw : ∀ p ∈ commandsW, p.2.1 < 32 ∧ (∀ v ∈ (descriptor (regE p.2.2) ecW 15).toList, v.bad = false) ∧
      ([] : List Cmd).length < poolSize p.2.1 ∧ (((regE p.2.2).cur ecW).bank.getP 0) = ⟨true, false⟩ := by decide
  exact ⟨issuing rfl, ⟨⟨by rw [show g0.p = 0 from rfl, (hw p hp).2.2.2], by rw [show g0.p = 0 from rfl, (hw p hp).2.2.2]; rfl⟩,
    no_missing rfl, rfl, by simp [regE, withDs, withTile]; decide, (hw p hp).1, ⟨rfl, rfl⟩, (hw p hp).2.1⟩,
    commands_pass p hp, fun _ => by show 0 < 256; decide, (hw p hp).2.2.1⟩

/-! ### Witnesses: the region clock -/

/-- A partition of quads 0, 1, 24 and 25 with one channel group, its page table at 0x1000. -/
def confW : PartRec := ⟨0, [0, 1, 24, 25], [], 0, [0], List.range 64, 1, 1, 1, 7, [0, 1], some 100, 0x40000000, 0x100000⟩

def partW : Part := { newPart confW with ptroot := 0x1000 }

/-- Local addresses 0 to 2^30 − 1 are mapped to themselves, readable and writable; nothing above is mapped. -/
def hbmW : Mem := ⟨[(0x1000, 0x01), (0x1001, 0x20), (0x2000, 0x01), (0x2001, 0x30), (0x3000, 0x1B)], []⟩

/-- The region stands; no issue is under way. -/
def stand (g : Region) : State :=
  { State.reset with dev := { State.reset.dev with stage := .up }, parts := [partW], hbm := hbmW, regions := [g], nextRid := 1 }

theorem stand_reg {g : Region} (h : g.rid = 0) : (stand g).region? 0 = some g := by simp [stand, State.region?, h]

def fly (due key : Nat) (w : Flight) : Fly := ⟨due, 0, key, 0, false, w⟩

/-- The two due results of one sc and one of the next; a store, a sample, an arrival, a phase and an increment, all due. -/
def res1 : Fly := fly 0 1 (.scalar (some (.g 5)) (some .la0) ⟨7, false⟩)

def store1 : Fly := fly 0 3 (.store 0 [(8, [(1, false), (2, false)])])

def sample1 : Fly := fly 0 4 (.sample 3 0x100 8 true (.g 6) 3)

def arrive1 : Fly := fly 0 5 (.arrive 127 false)

def phase1 : Fly := fly 0 6 (.phase 127)

def inc1 : Fly := fly 0 7 (.inc 0 31 0xFFFFFFFF)

def regF : Region := { regW with
  flights := [fly 1 0 (.scalar (some (.g 5)) none ⟨9, false⟩), fly 0 2 (.pred 3 .la0 ⟨true, false⟩), res1, store1, sample1, arrive1, phase1,
    inc1] }

/-- The region in twin mode, with a multiply's result due. -/
def regTwin : Region :=
  { regF with pat := { patW with split := false }, flights := [fly 0 2 (.scalar (some (.g 5)) (some .lm) ⟨7, false⟩)] }

theorem due (kind : Flight → Bool) (f : Fly) (h : f ∈ regF.flights) (hk : kind f.what = true) (hc : f.due = 0)
    (hf : ∀ x ∈ regF.flights, x ≠ f → kind x.what = true → x.due ≤ 0 → f.due < x.due ∨ (f.due = x.due ∧ f.key < x.key)) :
    Due regF kind f :=
  ⟨h, hk, ⟨by rw [hc]; decide, by rw [hc]; decide⟩, fun x hx hn hk hx0 => hf x hx hn hk hx0.1⟩

theorem test_witness_DueResultsLand :
    (stand regF).region? 0 = some regF ∧ Due regF ofRegister res1 ∧ (∀ a ∈ regF.awaits, arrivedNow regF a = false) ∧
    (regF.tile res1.tile).dataBad = false :=
  ⟨stand_reg rfl, due _ _ (by decide) rfl rfl (by decide), (fun _ h => by cases h), by decide⟩

def gldW (st : AwaitSt) : Await := ⟨9, .gld 8 false, st, 0, false, 0, 0, 0, some (.g 5), none, true, true, some pageW, 0x10000, false, false, [], 0⟩

def xlW (st : AwaitSt) : Await := ⟨9, .xlate 0x5000, st, 0, false, 0, 0, 0, none, some 3, true, false, none, 0x5000, false, false, [], 0⟩

def withAw (a : Await) : Region := { regW with awaits := [a] }

theorem test_witness_DueResultsLand_awaited :
    ∀ a ∈ [gldW (.value ⟨5, false⟩), xlW (.handle ⟨0x5000, pageW⟩)],
      (stand (withAw a)).region? 0 = some (withAw a) ∧ (withAw a).awaits.find? (arrivedNow (withAw a)) = some a ∧
      (∀ f ∈ (withAw a).flights, ofRegister f.what = true → ¬Come (withAw a) f.due) ∧ a.tile < (withAw a).tiles.length ∧
      a.live = true := by
  intro a ha
  refine ⟨stand_reg rfl, ?_, (fun _ h => by cases h), ?_, ?_⟩ <;>
    (simp only [List.mem_cons, List.not_mem_nil, or_false] at ha; rcases ha with rfl | rfl <;> decide)

/-- In twin mode a result of the LS slot is stream B's too; an ALU result is not. -/
theorem test_witness_DueResultsLand_twin :
    (stand regTwin).region? 0 = some regTwin ∧ regTwin.pat.split = false ∧
    Due regTwin ofRegister (fly 0 2 (.scalar (some (.g 5)) (some .lm) ⟨7, false⟩)) ∧
    twinned (fly 0 2 (.scalar (some (.g 5)) (some .lm) ⟨7, false⟩)) = true ∧ twinned (fly 0 0 (.scalar (some (.g 5)) none ⟨7, false⟩)) = false :=
  ⟨stand_reg rfl, rfl, ⟨.head _, rfl, ⟨by decide, by decide⟩, fun x hx hn => absurd (List.mem_singleton.mp hx) hn⟩, by decide, by decide⟩

theorem no_engine_wrote {g : Region} {t a : Nat} (h : g.unacq = []) : ¬EngineWrote g t a := by
  rintro ⟨u, hu, _⟩; rw [h] at hu; cases hu

/-- A sample of poisoned clean-filled bytes, and of others; a store to bytes that no engine command has written. -/
theorem test_witness_StoresPerformAndLoadsSample_bytes :
    (regF.tile 3).cleanHit 0x100 8 = false ∧ storedAt [(8, [(1, false), (2, false)])] 9 = some 2 ∧
    storedAt [(8, [(1, false), (2, false)])] 10 = none ∧ ¬EngineWrote regF 0 9 ∧
    (({ regF with tiles := regF.tiles.modify 3 fun x => { x with sp := ⟨[], [0x20]⟩, clean := [⟨0, 0x10000, 0, 0, 0⟩] } } : Region).tile 3).cleanHit
      0x100 8 = true :=
  ⟨by decide, by decide, by decide, no_engine_wrote rfl, by decide⟩

theorem test_witness_StoresPerformAndLoadsSample :
    (stand regF).region? 0 = some regF ∧ Due regF ofStore store1 ∧ store1.what = .store 0 [(8, [(1, false), (2, false)])] ∧
    (regF.tile 0).sp.wf = true ∧ 0 < regF.tiles.length ∧ Due regF ofSample sample1 ∧ sample1.what = .sample 3 0x100 8 true (.g 6) 3 :=
  ⟨stand_reg rfl, due _ _ (by decide) rfl rfl (by decide), rfl, by decide, by decide, due _ _ (by decide) rfl rfl (by decide), rfl⟩

/-- Barrier 127 in every tile. -/
def allBars (k : Barrier) (g : Region) : Region :=
  { g with tiles := g.tiles.map fun x => { x with bars := x.bars.set! 127 k } }

def initW (a n : Nat) : Barrier := { scope := some .quad, n := n, a := a }

theorem due' (kind : Flight → Bool) (f : Fly) (g : Region) (h : Due regF kind f) (hf : g.flights = regF.flights) (hn : g.now = regF.now) :
    Due g kind f := by
  refine ⟨hf ▸ h.mem, h.ofKind, ?_, ?_⟩
  · unfold Come; rw [hn]; exact h.come
  · intro x hx h1 h2 h3; unfold Come at h3; rw [hn] at h3; exact h.first x (hf ▸ hx) h1 h2 h3

theorem dueA : Due regF ofArrival arrive1 := due _ _ (by decide) rfl rfl (by decide)

/-- The tiles' copies of barrier 127, in a region where it is due to be arrived at. -/
def arriving (k : Nat → Barrier) : Region :=
  { regF with tiles := (List.range 4).map fun u => { regF.tile u with bars := (regF.tile u).bars.set! 127 (k u) } }

theorem arriving_due (k : Nat → Barrier) : Due (arriving k) ofArrival arrive1 := due' _ _ _ dueA rfl rfl

/-- An uninitialised barrier; the arrival that fills a phase; a full phase, and a copy that differs, of the least tile. -/
theorem test_witness_BarriersCountersAndMailboxesAdvance :
    (∀ g, g.rid = 0 → (stand g).region? 0 = some g) ∧ Due regF ofArrival arrive1 ∧ (barrierAt regF arrive1.tile 127).scope = none ∧
    (barrierAt (arriving fun _ => initW 7 8) 0 127).scope = some .quad ∧
    (∀ u < 4, ¬Differs (arriving fun _ => initW 7 8) 0 127 .quad u ∧ ¬Full (arriving fun _ => initW 7 8) 127 u) ∧
    (∀ u < 4, Member (arriving fun _ => initW 7 8) 0 u .quad) ∧
    (barrierAt (arriving fun _ => initW 7 8) 3 127).a + 1 = (barrierAt (arriving fun _ => initW 7 8) 3 127).n ∧
    LeastFailing (arriving fun u => initW (if u < 2 then 7 else 8) 8) 0 .quad
      (Full (arriving fun u => initW (if u < 2 then 7 else 8) 8) 127) 2 ∧
    LeastFailing (arriving fun u => initW 0 (if u < 3 then 8 else 4)) 0 .quad
      (Differs (arriving fun u => initW 0 (if u < 3 then 8 else 4)) 0 127 .quad) 3 := by
  refine ⟨fun _ h => stand_reg h, dueA, by decide, by decide, ?_, ?_, by decide, ⟨by decide, ?_, ?_, ?_⟩, ⟨by decide, ?_, ?_, ?_⟩⟩
  all_goals simp only [Differs, Full, Member]
  all_goals decide

/-- The completion of a phase; an increment that the open stitch issued, and one from before; a mailbox write at each end. -/
theorem test_witness_BarriersCountersAndMailboxesAdvance_others :
    Due regF ofPhase phase1 ∧ phase1.what = .phase 127 ∧ phase1.tile < regF.tiles.length ∧
    Due regF ofIncrement inc1 ∧ inc1.what = .inc 0 31 0xFFFFFFFF ∧ regF.ckpt.sc ≤ inc1.iss ∧
    ¬({ regF with ckpt := { regF.ckpt with sc := 9 } } : Region).ckpt.sc ≤ inc1.iss ∧
    ({ regF with mailPend := [(0, 5), (15, 6)] } : Region).mailPend ≠ [] ∧ regF.frozen = .no :=
  ⟨due _ _ (by decide) rfl rfl (by decide), rfl, by decide, due _ _ (by decide) rfl rfl (by decide), rfl, by decide, by decide,
    (by intro h; cases h), rfl⟩

/-- An MZERO as enqueued, and one that has started. -/
def mcmd (key start fin : Nat) (started : Bool) (w : Option (Nat × Word)) : MxCmd :=
  ⟨.mzero 0, 0, start, fin, 0, key, started, true, w, mpW, 0, 0, 0, false, 0, 0, false, false, false, true,
    if started then [⟨true, 0, [(0, false)]⟩] else [], false, none⟩

def withMx (l : List MxCmd) : Region := withTile (fun x => { x with mxq := l }) (withTl 19 5 regW)

/-- A command whose start sc is now with a wait met exactly; one that completes now. -/
theorem test_witness_MatrixCommandsStartAndComplete :
    (∀ l, (stand (withMx l)).region? 0 = some (withMx l)) ∧
    ((withMx [mcmd 1 0 1 true none, mcmd 2 0 4 false (some (19, 5))]).tile 0).mxq.find? (fun c => !c.started) =
      some (mcmd 2 0 4 false (some (19, 5))) ∧ (mcmd 2 0 4 false (some (19, 5))).start ≤ (withMx []).now ∧
    (∀ n v, (mcmd 2 0 4 false (some (19, 5))).wait = some (n, v) →
      v ≤ (((withMx [mcmd 1 0 1 true none, mcmd 2 0 4 false (some (19, 5))]).tile 0).tl[n]?).getD 0) ∧
    ((withMx [mcmd 1 0 0 true none]).tile 0).mxq.find? (fun c => c.started && decide (c.fin ≤ (withMx []).now)) =
      some (mcmd 1 0 0 true none) ∧ ((withMx []).tile 0).sp.wf = true ∧ ((withMx []).tile 0).tm.wf = true := by
  refine ⟨fun _ => stand_reg rfl, by decide, by decide, ?_, by decide, by decide, by decide⟩
  intro n v h; cases h; decide

/-! ### Witnesses: what comes from wall time -/

theorem test_witness_LoadsWalksAndAtomrsAreAnswered :
    (∀ a, (stand (withAw a)).region? 0 = some (withAw a)) ∧
    Waiting (withAw (gldW .waiting)) 9 (gldW .waiting) ∧ (gldW .waiting).lost = false ∧
    (stand (withAw (gldW .waiting))).mayGo (withAw (gldW .waiting)) 0 9 = true ∧ (gldW .waiting).got = [] ∧ (stand (withAw (gldW .waiting))).answer 0 pageW 0x10000 8 = .ok ∧
    Waiting (withAw (xlW .waiting)) 9 (xlW .waiting) ∧
    (stand regW).walk 0 0x3FFFFFFF = .mapped ⟨0, 2 ^ 30, true, true, .hbm, 0, 0, partW.tag⟩ ∧
    (stand regW).walk 0 0x40000000 = .unmapped ∧
    (∃ pg, ({ stand regW with hbm := { hbmW with bad := [0x3000 / 32] } } : State).walk 0 0x5000 = .poisoned pg) ∧
    Waiting (withAw { gldW .waiting with kind := .atomr }) 9 { gldW .waiting with kind := .atomr } ∧ regW.role = .single ∧
    ({ withAw { gldW .waiting with kind := .atomr } with rets := [(0, 0, some ⟨5, false⟩)] } : Region).rets =
      (0, regW.stitch, some ⟨5, false⟩) :: [] :=
  ⟨fun _ => stand_reg rfl, by unfold Waiting; decide, rfl, by decide, rfl, by decide, by unfold Waiting; decide, by decide, by decide,
    ⟨_, rfl⟩, by unfold Waiting; decide, rfl, rfl⟩

def withItem (i : Item) : Region := { regW with items := [i], rets := [] }

def rel (k : ItemKind) (tag : Option (BitVec 16)) : Item := { itemW k with released := true, tag := tag }

/-- A page of a peer that owns no memory: it refuses the access. -/
def pagePeer : Page := { pageW with target := .peer, dev := 9 }

def relPeer : Item := { rel .gst none with page := some pagePeer }

/-- A plain store, an atomic of each kind known and not known to its home, and a store a peer refuses. -/
theorem test_witness_ReleasedItemsReachTheirHomes :
    (∀ i, (stand (withItem i)).region? 0 = some (withItem i)) ∧ Released (stand (withItem (rel .gst none))) (withItem (rel .gst none)) 1 (rel .gst none) pageW ∧
    (rel .gst none).moved = [] ∧
    (stand (withItem (rel .gst none))).answer 0 pageW 0x10000 4 = .ok ∧
    (∀ k ∈ [ItemKind.atom .min false 5, .red .fadd false 5, .atomr .cas false 5 6 1],
      Released (stand (withItem (rel k (some 3)))) (withItem (rel k (some 3))) 1 (rel k (some 3)) pageW ∧ (updateOf k).isSome = true) ∧
    known { stand regW with applied := [⟨sourceOf (stand regW) regW 0, 3, 0, ⟨5, false⟩⟩] } regW (rel (.atom .min false 5) (some 3)) ∧
    ¬known (stand regW) regW (rel (.atom .min false 5) (some 3)) ∧
    Released (stand (withItem relPeer)) (withItem relPeer) 1 relPeer pagePeer ∧
    (withItem relPeer).awaits.find? (fun a => a.id = 1 && a.st == .waiting) = none ∧
    (∃ x, ({ stand (withItem relPeer) with dev := { (stand regW).dev with portsUp := 1 } } : State).answer 0 pagePeer 0x10000 4 =
      .refused x) ∧ (withItem relPeer).status = .running ∧ (∀ a b d e k, relPeer.kind ≠ .atomr a b d e k) := by
  refine ⟨fun _ => stand_reg rfl, ⟨by decide, rfl, rfl, by decide⟩, rfl, by decide, ?_, ?_, ?_, ⟨by decide, rfl, rfl, by decide⟩, rfl,
    ⟨_, rfl⟩, rfl, ?_⟩
  · intro k hk
    simp only [List.mem_cons, List.not_mem_nil, or_false] at hk
    rcases hk with rfl | rfl | rfl <;> exact ⟨⟨by decide, rfl, rfl, by decide⟩, by decide⟩
  · exact ⟨3, _, rfl, .head _, rfl, rfl, rfl⟩
  · rintro ⟨n, a, _, h, _⟩; cases h
  · intro a b d e k h; cases h

/-- A sent command of a descriptor, in a region whose scratchpad lists the group of devices 0 and 5 at 0x300. -/
def regC (c : Cmd) : Region := withTile (fun x => { x with sp := ⟨[(0x304, 5)], []⟩ }) { regW with cmds := [c] }

def sent (fn : EngFn) (ctr : Nat) (d : Desc) (a b : Word) : Cmd := { cmdW fn ctr .sent with desc := d, a := a, b := b }

def fillC : Cmd := sent .ceFill 7 (desc 0x55 (word1 .i8) 0x10010 0 0) 0 0

def colD (f : Fmt) : Desc := desc 3 (word1 f) 0x20010 (0x200 + 0x300 * 2 ^ 20) 0

def redC : Cmd := sent (.colRed .add) 16 (colD .f32) 0 0

def colqC (fn : EngFn) : Cmd := sent fn 19 (colD .i8) 0 0

def teC : Cmd := sent (.teLoad 7) 22 (Vector.replicate 8 {}) 0x10000 0x20

def raiseC : Cmd := sent .schPost 23 (Vector.replicate 8 {}) 0x10000 1

theorem runs (c : Cmd) (h : c.id = 1) (hr : (stand (regC c)).cmdReady (regC c) c = true) (ht : c.tile = 0) (hc : c.ctr < 32) :
    Runs (stand (regC c)) (regC c) 1 c :=
  ⟨by simp [regC, withTile, h], hr, by rw [ht]; show 0 < 4; decide, hc⟩

theorem test_witness_EngineCommandsRunOrStop_copy :
    (stand (regC fillC)).region? 0 = some (regC fillC) ∧ Runs (stand (regC fillC)) (regC fillC) 1 fillC ∧ EngFn.isCopy fillC.fn = true ∧
    (stand (regC fillC)).cmdTouches (stand (regC fillC)).silent (regC fillC) fillC = false ∧
    ((stand (regC fillC)).copyRun noMute (regC fillC) fillC).2 = none ∧
    (((stand (regC fillC)).copyRun noMute (regC fillC) fillC).1.region? 0).map (·.tiles.length) = some (regC fillC).tiles.length :=
  ⟨stand_reg rfl, runs _ rfl (by decide) rfl (by decide), rfl, by decide, by decide, by decide⟩

/-- The other member answers soundly, or not at all, or with poison. -/
def others (ok bad : Bool) : List Contrib := [⟨5, true, ok, List.replicate 16 1, bad⟩]

theorem test_witness_EngineCommandsRunOrStop_collective :
    (stand (regC redC)).region? 0 = some (regC redC) ∧ Runs (stand (regC redC)) (regC redC) 1 redC ∧ EngFn.isCol redC.fn = true ∧
    (regC redC).silent = false ∧ (regC redC).groupOk 0 0 redC = true ∧ (regC redC).sourceBad redC = false ∧
    (others true false).map (fun o => o.dev.toNat) = ((regC redC).group 0 redC).filter (fun d => decide (d ≠ 0)) ∧
    (∀ o ∈ others true false, o.agrees = true) ∧ (∃ o ∈ others false false, o.answered = false ∨ o.bad = true) ∧
    (∃ o ∈ others true true, o.answered = false ∨ o.bad = true) ∧
    Runs (stand (regC (colqC .colQ))) (regC (colqC .colQ)) 1 (colqC .colQ) ∧ Runs (stand (regC (colqC .colQFree))) (regC (colqC .colQFree)) 1 (colqC .colQFree) ∧
    (regC (colqC .colQ)).groupOk 0 0 (colqC .colQ) = true :=
  ⟨stand_reg rfl, runs _ rfl (by decide) rfl (by decide), rfl, by decide, by decide, by decide, by decide, by decide, by decide, by decide,
    runs _ rfl (by decide) rfl (by decide), runs _ rfl (by decide) rfl (by decide), by decide⟩

/-- A table image of zeros is legal; it is read from a mapped page. -/
theorem test_witness_EngineCommandsRunOrStop_table :
    (stand (regC teC)).region? 0 = some (regC teC) ∧ Runs (stand (regC teC)) (regC teC) 1 teC ∧ teC.fn = .teLoad 7 ∧
    (stand (regC teC)).cmdTouches (stand (regC teC)).silent (regC teC) teC = false ∧
    ((stand (regC teC)).tableRead noMute (regC teC) teC).2 = none ∧
    (((stand (regC teC)).tableRead noMute (regC teC) teC).1.all fun b => !b.2) = true ∧
    imageOk (((stand (regC teC)).tableRead noMute (regC teC) teC).1.map (·.1)) = true :=
  ⟨stand_reg rfl, runs _ rfl (by decide) rfl (by decide), rfl, by decide, by decide +kernel, by decide +kernel, by decide +kernel⟩

/-- SCH.POST to a mapped descriptor posts; to an unmapped one its cause is 0x101. -/
theorem test_witness_EngineCommandsRunOrStop_scheduler :
    (stand (regC raiseC)).region? 0 = some (regC raiseC) ∧ Runs (stand (regC raiseC)) (regC raiseC) 1 raiseC ∧
    (∃ s1, (stand (regC raiseC)).schRun (regC raiseC) raiseC = .done s1 ∧
      (s1.region? 0).map (·.tiles.length) = some (regC raiseC).tiles.length) := by
  refine ⟨stand_reg rfl, runs _ rfl (by decide) rfl (by decide), _, rfl, by decide⟩

def inC : Cmd := sent .ceIn 0 (desc 0x40000000 (word1 .i8) word2 0 0) 0 0

def badGroup : Cmd := sent .colAg 16 (desc 3 (word1 .i8) 0x10010 (0x200 + 0x304 * 2 ^ 20) 0) 0 0

/-- A copy from an unmapped page parks on 0x101; a collective of a group without this device raises 0x189. -/
theorem test_witness_EngineCommandsRunOrStop_cause :
    (stand (regC inC)).region? 0 = some (regC inC) ∧ Runs (stand (regC inC)) (regC inC) 1 inC ∧
    (stand (regC inC)).cmdTouches (stand (regC inC)).silent (regC inC) inC = false ∧
    ((stand (regC inC)).cmdCause (regC inC) inC).map (fun x => (x.2.1, x.2.2)) = some (0x101, 0x40000000) ∧
    (((stand (regC inC)).cmdCause (regC inC) inC).bind fun x => x.1.region? 0).map (fun g => (g.raised, g.status)) =
      some ([], .running) ∧ inC.dead = false ∧
    Runs (stand (regC badGroup)) (regC badGroup) 1 badGroup ∧
    ((stand (regC badGroup)).cmdCause (regC badGroup) badGroup).map (fun x => (x.2.1, x.2.2)) = some (0x189, 0) ∧
    Runs (stand (regC { inC with dead := true })) (regC { inC with dead := true }) 1 { inC with dead := true } :=
  ⟨stand_reg rfl, runs _ rfl (by decide) rfl (by decide), by decide, by decide, by decide, rfl,
    runs _ rfl (by decide) rfl (by decide), by decide, runs _ rfl (by decide) rfl (by decide)⟩

/-! ### Witnesses: table loads and scheduler functions; the checks of an ECMD -/

/-- The region issues beside its partition. -/
def issuing2 (g : Region) : State := { stand g with cur := some ecW }

theorem pass_free {s : State} {g : Region} (fn : EngFn) (ctr : Nat) (hk : kindOf fn = none)
    (hf : fn = .schEnq → ∃ p, s.part? g.launch.part = some p ∧ p.hasQueue 0 = true) (ht : fn ≠ .ceB ∧ fn ≠ .ceXfer)
    (hg : GlobalBelow (issuedCmd s g ecW fn ctr (Vector.replicate 8 {}) 0 0))
    (hs : ScratchpadBelow (0x8000 * g.pat.nb) (numberOf (g.spRead s.fresh ecW.t 0 8))
      (issuedCmd s g ecW fn ctr (Vector.replicate 8 {}) 0 0))
    (hp : PlacesAligned (issuedCmd s g ecW fn ctr (Vector.replicate 8 {}) 0 0)) :
    AllPass (engineChecks s g ecW (issuedCmd s g ecW fn ctr (Vector.replicate 8 {}) 0 0)) :=
  passes ⟨fun k h => absurd (hk.symm.trans h) (by simp),
    fun h => ⟨by show 0 ≤ 255; decide, hf h⟩, hg, hs, hp, fun h => absurd h ht.1, fun h => absurd h ht.2⟩

theorem test_witness_TableLoadAndSchedulerFunctionsIssue :
    Issuing (issuing2 regW) ecW regW ∧
    ∀ p ∈ [(EngFn.teLoad 7, 22), (.schEnq, 23), (.schRaise, 23), (.schPost, 23)],
      EngineReady (issuing2 regW) regW ecW g0 p.1 p.2 (Vector.replicate 8 {}) ⟨0, false⟩ ⟨0, false⟩ := by
  refine ⟨⟨rfl, rfl⟩, ?_⟩
  intro p hp
  simp only [List.mem_cons, List.not_mem_nil, or_false] at hp
  rcases hp with rfl | rfl | rfl | rfl
  all_goals
    refine ⟨⟨⟨by decide, by decide⟩, no_missing rfl, rfl, by decide, by decide, ⟨rfl, rfl⟩, by decide⟩, ?_,
      fun _ => by show 0 < 256; decide, by decide⟩
    refine pass_free _ _ rfl (fun _ => ⟨partW, rfl, by decide⟩) (by decide) ?_ ?_ ?_
  all_goals simp only [GlobalBelow, ScratchpadBelow, PlacesAligned, issuedCmd]
  all_goals trivial

/-- A command of the scheduler or of the table engine with these operands. -/
def freeW (fn : EngFn) (a b : Word) : Cmd := issuedCmd (issuing2 regW) regW ecW fn 23 (Vector.replicate 8 {}) a b

/-- Each check of an ECMD fails first: a reserved bit, a foreign queue, a table past 57 bits, a packet past the scratchpad, a
misaligned one, a 65th slice, a target outside the region. -/
theorem test_witness_EngineChecksRaiseTheirCauses :
    (∃ va, FirstFails (engineChecks (on (regE (desc 0 0 0 0 0)) ecW) (regE (desc 0 0 0 0 0)) ecW
      { issuedW (.ceIn, 0, desc 0 0 0 0 0) with desc := #v[⟨0, false⟩, ⟨0, false⟩, ⟨0, false⟩, ⟨0, false⟩, ⟨0, false⟩, ⟨1, false⟩, ⟨0, false⟩, ⟨0, false⟩] })
      0x184 va) ∧
    FirstFails (engineChecks (issuing2 regW) regW ecW (freeW .schEnq 0 256)) 0x18C 0 ∧
    FirstFails (engineChecks (issuing2 regW) regW ecW (freeW (.teLoad 7) 0x200000000000000 0)) 0x100 0x200000000000000 ∧
    FirstFails (engineChecks (issuing2 regW) regW ecW (freeW .schEnq 0x100000 0)) 0x090 0 ∧
    FirstFails (engineChecks (issuing2 regW) regW ecW (freeW .schEnq 4 0)) 0x091 0 ∧
    (∀ p ∈ badW, FirstFails (engineChecks (on (regE p.2.2) ecW) (regE p.2.2) ecW (issuedW p)) (if p.1 = .ceB then 0x186 else 0x092) 0) := by
  refine ⟨⟨0, first_fails 0 rfl trivial ?_⟩, first_fails 1 rfl ?_ ?_, first_fails 2 rfl ?_ ?_, first_fails 3 rfl ?_ ?_,
    first_fails 4 rfl ?_ ?_, ?_⟩
  · intro h; exact absurd ((h _ rfl).1 5 (by decide) 0 (by decide) (by decide)) (by decide)
  · exact fun k h => nomatch h
  · intro h; exact absurd (h rfl).1 (by decide)
  · exact ⟨fun k h => (nomatch h), fun h => (nomatch h)⟩
  · show ¬(0x200000000000000 : Word).toNat + 3104 ≤ 2 ^ 57; decide
  · exact ⟨fun k h => (nomatch h), fun _ => ⟨by decide, partW, rfl, by decide⟩, trivial⟩
  · show ¬(_ : Nat) ≤ _; decide
  · refine ⟨fun k h => (nomatch h), fun _ => ⟨by decide, partW, rfl, by decide⟩, trivial, ?_⟩
    show (_ : Nat) ≤ _; decide
  · show ¬(_ : Nat) = 0; decide
  · intro p hp
    have ha : p ∈ allW := List.mem_append_right _ hp
    have hr := ranges_fit p ha
    have h0 : ∀ k, kindOf (issuedW p).fn = some k → ReservedClear k (issuedW p).desc ∧ ShapeLegal (issuedW p) :=
      fun k hk => ⟨reserved_clear p ha k hk, shape_legal p ha⟩
    simp only [badW, List.mem_cons, List.not_mem_nil, or_false] at hp
    rcases hp with rfl | rfl
    · exact first_fails 5 rfl ⟨h0, fun h => (nomatch h), hr.1, hr.2.1, hr.2.2⟩ (by decide)
    · exact first_fails 6 rfl ⟨h0, fun h => (nomatch h), hr.1, hr.2.1, hr.2.2, fun h => (nomatch h)⟩ (by decide)

/-- A home refuses an item and a copy's bytes; a free context is granted, a tenant at its quota has none. -/
theorem test_witness_RefusalsAndReservations :
    (withItem (rel .gst none)).awaits.find? (fun a => a.id = 1 && a.st == .waiting) = none ∧
    (stand (withItem (rel .gst none))).answer 0 pageW 0x10000 4 = .ok ∧ (withItem (rel .gst none)).status = .running ∧
    ((regC fillC).ranges 0 fillC).head? = none ∧ ((regC inC).ranges 0 inC).head? = some (0x40000000, 16) ∧
    (stand (regC raiseC)).quiet = [] ∧ Grantable (stand regW) 0 [(1, 0, 5, [3])] [3] ∧ ¬Grantable (stand regW) 0 [(0, 0, 5, [3])] [3] := by
  refine ⟨rfl, by decide, rfl, by decide, by decide, rfl, ?_, ?_⟩
  · intro w hw; rw [List.mem_singleton.mp hw]; exact ⟨by decide, partW, rfl, by decide⟩
  · intro h
    obtain ⟨p, hp, hq⟩ := (h 3 (by decide)).2
    rw [show (stand regW).part? 0 = some partW from rfl] at hp
    cases hp; exact absurd hq (by decide)

/-! ### Witnesses: what engine commands move -/

theorem alone {c : Cmd} {g : Region} (h : c.touched = []) (hu : g.unacq = []) : Alone g c :=
  ⟨h, fun u hx => by rw [hu] at hx; cases hx⟩

/-- A command of commandsW, sent. -/
def sentW (p : EngFn × Nat × Desc) : Cmd := sent p.1 p.2.1 p.2.2 0 0

theorem one_row (len : Nat) (f : Nat → Option Nat) : Apart 1 len f := fun i j _ _ hi hj h => absurd (by omega) h

/-- The page that maps the bytes of the commands of commandsW. -/
def lowPage : Page := ⟨0, 2 ^ 30, true, true, .hbm, 0, 0, partW.tag⟩

theorem in_page {s : State} (write : Bool) (a n : Nat) (h : ∀ k < n, s.page 0 (a + k) write = .ok lowPage) (hb : a + n ≤ 2 ^ 30) :
    ∀ k < n, InPage s 0 lowPage write (a + k) :=
  fun k hk => ⟨rfl, h k hk, Nat.zero_le _, by show a + k < 0 + 2 ^ 30; omega⟩

def ceInW : Cmd := sentW (.ceIn, 0, desc 0x10000 (word1 .i8) word2 0 0)

theorem page_of_low (a : Nat) (ha : a ∈ (List.range 16).map (0x10000 + ·)) (write : Bool) :
    (stand (regC ceInW)).page 0 a write = .ok lowPage := by
  have h : ∀ a ∈ (List.range 16).map (0x10000 + ·), ∀ w : Bool, (stand (regC ceInW)).page 0 a w = .ok lowPage := by decide +kernel
  exact h a ha write

def ceXferW : Cmd := sentW (.ceXfer, 6, desc 0 (word1 .i8) 0x10010 0x10001000200 0)

/-- CE.IN of one row of a mapped page; CE.FILL; CE.XFER of one row to the neighbour. -/
theorem test_witness_CopiesInMoveTheirBytes :
    (∀ c, (stand (regC c)).region? 0 = some (regC c)) ∧ (∀ c ∈ [ceInW, fillC, ceXferW], c.moved = [] ∧ Alone (regC c) c) ∧
    (∃ f, inflow (regC ceInW) 0 ceInW = some f ∧ Apart f.rows f.len (fun i => some (f.start i)) ∧
      ∀ i k a, i < f.rows → k < f.len → f.source i k = some a → InPage (stand (regC ceInW)) 0 lowPage false a) ∧
    ShapeLegal ceInW ∧ (filled ceInW ((regC ceInW).tile ceInW.tile)).wf = true ∧ ((regC ceXferW).tile 1).sp.wf = true ∧
    (regC ceXferW).remote 0 1 0 = some (1, 1, 0) ∧
    Apart (rowsOf fillC) (rowBytesOf fillC) (fun i => some (localRow fillC i)) ∧
    Apart (rowsOf ceXferW) (rowBytesOf ceXferW) (fun i => some (targetBase ceXferW + i * descField ceXferW.desc 3 39 20)) := by
  refine ⟨fun _ => stand_reg rfl, ?_, ⟨_, rfl, one_row _ _, ?_⟩, ⟨by decide, _, rfl, trivial⟩, by decide, by decide, by decide,
    one_row _ _, one_row _ _⟩
  · intro c hc
    simp only [List.mem_cons, List.not_mem_nil, or_false] at hc
    rcases hc with rfl | rfl | rfl <;> exact ⟨rfl, alone rfl rfl⟩
  · intro i k a hi hk ha
    have hi : i < 1 := hi
    have hk : k < 16 := hk
    have hi : i = 0 := by omega
    subst hi
    obtain rfl : 0x10000 + k = a := Option.some.inj ha
    exact ⟨rfl, page_of_low _ (List.mem_map.mpr ⟨k, List.mem_range.mpr hk, rfl⟩) _, Nat.zero_le _, by show _ < 0 + 2 ^ 30; omega⟩

/-- The partition's tables in host memory. -/
def hostTables (g : Region) : State :=
  { stand g with parts := [{ partW with ptroot := 0x1001 }], host := hbmW, hbm := {} }

def ceOutW : Cmd := sentW (.ceOut, 15, desc 0x10000 (word1 .i8) word2 0 0)

/-- One element. -/
def ceOutrW : Cmd :=
  { sentW (.ceOutr .add, 1, desc 0x10000 (word1 .i32) 0x0000_0010_0001_0004 0 0) with tag := some 3 }

def colAgW : Cmd := sent .colAg 17 (colD .i8) 0 0

/-- CE.OUT of one row; CE.OUTR of one element, new and already applied; COL.AG of devices 0 and 5. -/
theorem test_witness_CopiesOutAndCollectivesMoveTheirBytes :
    (regC ceOutW).sourceBad ceOutW = false ∧ TablesApart (hostTables (regC ceOutW)) 0 ∧ (hostTables (regC ceOutW)).hbm.wf = true ∧
    (∀ k < 16, (hostTables (regC ceOutW)).page 0 (0x10000 + k) true = .ok lowPage) ∧
    4 ∣ rowBytesOf ceOutrW ∧ ceOutrW.tag = some 3 ∧ lowPage.rd = true ∧
    (stand (regC ceOutrW)).page 0 0x10000 true = .ok lowPage ∧
    (∃ s1, ReducedInTurn (regC ceOutrW) ceOutrW .add ((List.range (rowsOf ceOutrW)).flatMap fun i =>
        (List.range (rowBytesOf ceOutrW / 4)).map fun e => (globalRow ceOutrW i + 4 * e, i * (rowBytesOf ceOutrW / 4) + e,
          BitVec.ofNat 64 (numberOf ((regC ceOutrW).engRead 0 ceOutrW (localRow ceOutrW i + 4 * e) 4))))
      (stand (regC ceOutrW)) s1) ∧
    ((stand (regC ceOutrW)).applied.find? fun a => a.source = sourceOf (stand (regC ceOutrW)) (regC ceOutrW) 0 && a.tag = 3 && decide (a.elem = 0)) =
      none ∧
    Runs (stand (regC colAgW)) (regC colAgW) 1 colAgW ∧ GroupLegal 0 colAgW (groupTable (regC colAgW) 0 colAgW) ∧
    groupTable (regC colAgW) 0 colAgW = [0, 5] ∧ (others true false).map (fun o => o.dev.toNat) = [5] ∧
    (∀ o ∈ others true false, o.agrees = true ∧ o.answered = true ∧ o.bad = false ∧ o.bytes.length = rowBytesOf colAgW) := by
  refine ⟨by decide, ⟨_, rfl, by decide⟩, by decide, by decide +kernel, by decide, rfl, rfl, by decide +kernel,
    ⟨_, .one _ _ _ _ _ _ _ rfl (.none _)⟩, rfl, runs _ rfl (by decide) rfl (by decide), ?_, by decide, by decide, by decide⟩
  rw [show groupTable (regC colAgW) 0 colAgW = [0, 5] from by decide]
  exact ⟨by decide, by decide, by decide, by decide, by decide, fun h => (nomatch h)⟩

/-- A started product whose operands a clean fill left, with poison in one. -/
theorem test_witness_MatrixCommandsStartAndComplete_clean :
    (∃ p ∈ (mxCmdW (.mma 6 true false) mpW).spReads, ((withTile (fun x => { x with sp := ⟨[], [0]⟩, clean := [⟨0, 0x10000, 0, 0, 0⟩] })
      (regM mpW)).tile 0).cleanHit p.1 p.2 = true) ∧
    (∀ p ∈ (mxCmdW (.mma 6 true false) mpW).spReads, ((regM mpW).tile 0).cleanHit p.1 p.2 = false) := by
  exact ⟨by decide, by decide⟩
/-! ### Witnesses: commits, launch ends, causes of timing -/

/-- Every stream A of the region changed. -/
def allA (f : Stream → Stream) (g : Region) : Region := { g with tiles := g.tiles.map fun x => { x with a := f x.a } }

def presenting (k : CommitKind) (id : BitVec 16) : Region := allA (fun x => { x with presented := some ⟨k, id, 0⟩ }) regW

def regDone : Region := allA (fun x => { x with running := false }) { regW with items := [rel .gst none] }

def mixed : Region := withA (fun x => { x with presented := some ⟨.mark, 0, 0⟩ }) (presenting .mark 7)

theorem all_answered {g : Region} (h : g.awaits = []) : Answered g := fun a ha => by rw [h] at ha; cases ha

theorem commit_due (k : CommitKind) (id : BitVec 16) (h : (presenting k id).participants = regW.participants)
    (hp : ∀ p ∈ regW.participants, ((presenting k id).str p.1 p.2).presented.isSome = true)
    (hl : (presenting k id).inFlight = false) : CommitDue (presenting k id) :=
  ⟨rfl, rfl, by rw [h]; decide, by rw [h]; exact hp, hl, all_answered rfl⟩

theorem not_presents {g : Region} {p : CommitKind → Prop}
    (h : ∀ q ∈ g.streams, ∀ x ∈ (g.str q.1 q.2).presented, ¬p x.kind) : ¬Presents g p := by
  rintro ⟨q, hq, x, hx, hk⟩; exact h q hq x hx hk

/-- Four streams present MARK; MARK.D; an arrival with release; and one of them another record (0x0B2). -/
theorem test_witness_CommitTakesPlace :
    (∀ k id, (stand (presenting k id)).region? 0 = some (presenting k id)) ∧ CommitDue (presenting .mark 7) ∧
    (presenting .mark 7).commitRaise ((stand (presenting .mark 7)).forwards 0) false = none ∧ (presenting .mark 7).raised = [] ∧
    (presenting .mark 7).commitRec = some (recW 7) ∧ ¬Presents (presenting .mark 7) Releases ∧
    ¬Presents (presenting .mark 7) (fun k => k = .markD) ∧
    CommitDue (presenting .markD 7) ∧ ¬Presents (presenting .markD 7) Releases ∧ Presents (presenting .markD 7) (fun k => k = .markD) ∧
    (presenting .markD 7).commitRaise ((stand (presenting .markD 7)).forwards 0) false = none ∧
    (presenting .markD 7).commitRec = some (recW 7) ∧
    CommitDue (presenting (.arrRel 127) 7) ∧ Presents (presenting (.arrRel 127) 7) Releases ∧
    (presenting (.arrRel 127) 7).commitRaise ((stand (presenting (.arrRel 127) 7)).forwards 0) false = none ∧
    (presenting (.arrRel 127) 7).commitRec = some (recW 7) ∧
    (stand mixed).region? 0 = some mixed ∧ CommitDue mixed ∧
    (mixed.commitRaise ((stand mixed).forwards 0) false).map (·.cause) = some 0x0B2 := by
  refine ⟨fun _ _ => stand_reg rfl, commit_due _ _ (by decide) (by decide) (by decide), by decide, rfl, by decide,
    not_presents ?_, not_presents ?_, commit_due _ _ (by decide) (by decide) (by decide), not_presents ?_, ⟨(0, false), by decide, _, rfl, rfl⟩,
    by decide, by decide, commit_due _ _ (by decide) (by decide) (by decide), ⟨(0, false), by decide, _, rfl, trivial⟩, by decide,
    by decide, stand_reg rfl, ⟨rfl, rfl, by decide, by decide, by decide, all_answered rfl⟩, by decide⟩
  · intro q hq x hx
    have : x.kind = .mark := by revert q x; decide
    rw [this]; exact id
  · intro q hq x hx; revert q x; decide
  · intro q hq x hx
    have : x.kind = .markD := by revert q x; decide
    rw [this]; exact id

/-- A refused walk, and a gated item of the stitch under a release arrival, of an older one, none under MARK.D. -/
theorem test_witness_CommitTakesPlace_clauses :
    refusalsOf (presenting .mark 7) = [] ∧
    refusalsOf { presenting .mark 7 with awaits := [xlW (.refused 0x101 0x5000)] } = [⟨0x101, false, 0, false, 7, 0xFFFF_FFFF, 0x5000, none, none⟩] ∧
    Answered { presenting .mark 7 with awaits := [xlW (.refused 0x101 0x5000)] } ∧
    (∃ i ∈ ({ presenting (.arrRel 127) 7 with items := [itemW .gst] } : Region).items, i.stitch = (presenting (.arrRel 127) 7).stitch) ∧
    (presenting (.arrRel 127) 7).silent = false ∧ (presenting .markD 7).items = [] ∧
    (∀ i ∈ ({ presenting (.arrRel 127) 7 with items := [{ rel .gst none with stitch := 5 }] } : Region).items,
      i.stitch ≠ (presenting (.arrRel 127) 7).stitch) := by
  refine ⟨by decide, by decide, ?_, by decide, by decide, by decide, by decide⟩
  intro a ha; rw [List.mem_singleton.mp ha]; intro _ h; cases h

theorem test_witness_LaunchesFinishAndPost :
    refusalsOf regDone = [] ∧ (stand regDone).quiet = [] ∧
    (stand regDone).region? 0 = some regDone ∧ Finished regDone ∧
    regDone.commitRaise ((stand regDone).forwards 0) true = none ∧ regDone.raised = [] ∧
    (let g := { regW with status := .final }
     (stand g).region? 0 = some g ∧ g.role = .single ∧ (∀ x ∈ (stand g).regions, sameLaunch x g = true → x.items = [] ∧ x.cmds = []) ∧
     g.launch.queue < 256 ∧ g.launch.node = none ∧ ((stand g).queue g.launch.queue).stopped = false ∧ g.failed = none ∧
     ((stand g).post g.launch.part g.launch.desc ⟨1, 0, some g.signature, g.failed⟩).isOk = true) := by
  refine ⟨by decide, rfl, stand_reg rfl, ⟨rfl, rfl, rfl, by decide, by decide, all_answered rfl⟩, by decide, rfl, stand_reg rfl, rfl, ?_, by decide, rfl, by decide,
    rfl, by decide +kernel⟩
  intro x hx _
  rw [List.mem_singleton.mp hx]; exact ⟨rfl, rfl⟩

theorem test_witness_TimingAndLossCauses :
    (let g := { regW with gaugeN := regW.gaugeLim }
     (stand g).region? 0 = some g ∧ g.status = .running ∧ g.committing = .none ∧ g.stub = false ∧ g.gaugeLim ≤ g.gaugeN ∧
       ∀ x ∈ g.raised, x.cause ≠ 0x200) ∧
    (let g := { regW with frozen := .wait (100 * 1000 * wallUnit + 1) }
     (stand g).region? 0 = some g ∧ g.frozen = .wait (100 * 1000 * wallUnit + 1) ∧ (stand g).part? g.launch.part = some partW ∧
       partW.conf.freezeUs.getD 10000 * 1000 * wallUnit < 100 * 1000 * wallUnit + 1 ∧ ∀ x ∈ g.raised, x.cause ≠ 0x201) ∧
    (regW.committing = .none ∧ regW.role = .single ∧ regW.handler = none) ∧
    (let g := { regW with reclaimAt := some 0 }
     g.reclaimAt = some 0 ∧ 0 + 100000 * wallUnit ≤ ({ stand g with dev := { (stand g).dev with wall := 100000 * wallUnit } } : State).dev.wall) :=
  ⟨⟨stand_reg rfl, rfl, rfl, rfl, by decide, fun _ h => by cases h⟩,
    ⟨stand_reg rfl, rfl, rfl, by decide, fun _ h => by cases h⟩, ⟨rfl, rfl, rfl⟩, rfl, by decide⟩

/-- A region with a queued matrix command, a gated item and a command of the open stitch that is cancelled. -/
def regFrog : Region := { withMx [mcmd 1 5 9 false none] with items := [itemW .gst], cmds := [{ cmdW .ceIn 0 .sent with dead := true }] }

theorem test_witness_FrogTakesTheRegionBack :
    regFrog.ckpt.tiles.length = regFrog.tiles.length ∧ (∀ x ∈ regFrog.tiles, ∀ c ∈ x.mxq, c.started = false) ∧
    (∀ c ∈ regFrog.cmds, c.stitch = regFrog.stitch → c.dead = true) ∧ 0 < regFrog.ckpt.tiles.length ∧ 3 < regFrog.ckpt.tiles.length := by
  decide

/-! ### Witnesses: queues and packets -/

def le (n v : Nat) : List Byte := leBytes n v

def cellsOf (a : Nat) (bs : List Byte) : List Host.Cell :=
  (bs.zipIdx.filter fun x => x.1 ≠ 0).map fun x => (a + x.2, x.1)

/-- The partition with one resident pattern that queue 0 refers to. -/
def partP : Part := { partW with pats := [{ patW with refs := [0] }] }

/-- Queue 0 in a state, with bytes at 0x10000, where its ring lies, and more at 0x20000. -/
def qState (u : Queue) (ring more : List Byte) : State :=
  { stand regW with
    parts := [partP], queues := (stand regW).queues.set 0 u
    hbm := ⟨hbmW.cells ++ cellsOf 0x10000 ring ++ cellsOf 0x20000 more, []⟩ }

def ringQ (n : Nat) : Queue := { base := 0x10000, ctl := 0x10C01, wr := n }

/-- A packet of four words: type, code, queue, and three fields. -/
def pk (k : PktKind) (typ code que a v w : Nat) : Packet :=
  ⟨k, le 8 (typ + 4 * 2 ^ 16 + code * 2 ^ 32 + que * 2 ^ 40) ++ le 8 a ++ le 8 v ++ le 8 w⟩

def atPk (k : Packet) (more : List Byte) : State := qState (ringQ k.bytes.length) k.bytes more

theorem at_packet (k : Packet) (more : List Byte) (h : (atPk k more).headPacket 0 = .pkt k)
    (hc : ((atPk k more).queue 0).ctl = 0x10C01) (hi : ((atPk k more).queue 0).head = .idle) : AtPacket (atPk k more) 0 partP k :=
  ⟨rfl, rfl, by rw [hc]; decide, by rw [hc]; decide, hi, h⟩

theorem test_witness_RegisterWritesStoreTheirFields :
    (∀ u, HostDriven (qState u [] []) 0 partP) ∧
    ((qState { ctl := 0x10C05 } [] []).queue 0).ctl.getLsbD 2 = true ∧ ((qState (ringQ 8) [] []).queue 0).ctl.getLsbD 2 = false ∧
    ((qState (ringQ 8) [] []).queue 0).wr ≤ (0x1000 : Word).toNat ∧
    (0x1000 : Word).toNat ≤ ((qState (ringQ 8) [] []).queue 0).rd + 2 ^ (((qState (ringQ 8) [] []).queue 0).ctl.extractLsb' 8 5).toNat ∧
    ((qState (ringQ 8) [] []).queue 0).rd + 2 ^ (((qState (ringQ 8) [] []).queue 0).ctl.extractLsb' 8 5).toNat < (0x1008 : Word).toNat ∧
    (0 : Word).toNat < ((qState (ringQ 8) [] []).queue 0).wr ∧ (12 : Word).toNat % 8 ≠ 0 ∧
    (qState (ringQ 8) [] []).part? partP.conf.num = some partP ∧ entryAction (partP.entry 0x28E) ≠ .forward ∧
    (0x10C01 : Word).getLsbD 1 = false ∧ CtlLegal 0x10C01 ∧ CtlLegal 0xFF1801 ∧ ¬CtlLegal 0x10B01 ∧ ¬CtlLegal 0x11901 ∧ ¬CtlLegal 0xC01 ∧
    (0x10B01 : Word).getLsbD 0 = true ∧ ((qState (ringQ 8) [] []).queue 0).ctl.getLsbD 1 = false ∧
    ((qState { ctl := 0x10C03 } [] []).queue 0).ctl.getLsbD 1 = true ∧ (stand regW).dev.stage = .up ∧ (stand regW).part? 0 = some partW ∧
    (0xFFC < 0x1000 ∧ 0xFFC % 4 = 0) ∧ (stand regW).dev.stage ≠ .reset := by
  refine ⟨fun u => ⟨rfl, rfl, rfl⟩, by decide +kernel, by decide +kernel, by decide +kernel, by decide +kernel, by decide +kernel, by decide +kernel, by decide +kernel, rfl, by decide +kernel, by decide +kernel,
    ?_, ?_, ?_, ?_, ?_, by decide +kernel, by decide +kernel, by decide +kernel, rfl, rfl, by decide +kernel, by decide +kernel⟩ <;> unfold CtlLegal <;> decide

def padK : Packet := ⟨.pad, le 8 0x10000⟩

def launchK : Packet := ⟨.launch, le 8 (1 + 52 * 2 ^ 16 + 0x1_0202 * 2 ^ 32) ++ le 8 0 ++ le 8 0x8000 ++ List.replicate 392 0⟩

def waitK (code que a v : Nat) : Packet := pk .wait 2 code que a v 0

def signalK (code que a v : Nat) : Packet := pk .signal 3 code que a v 0

def unloadK : Packet := ⟨.unload, le 8 (6 + 2 * 2 ^ 16) ++ le 8 0⟩

theorem test_witness_PacketsAreHandled :
    AtPacket (atPk padK []) 0 partP padK ∧ AtPacket (atPk launchK []) 0 partP launchK ∧
    (atPk launchK []).launchRefused partP 0 launchK = none ∧
    AtPacket (atPk (waitK 0 1 0 5) []) 0 partP (waitK 0 1 0 5) ∧ partP.conf.queues.contains (headerBits (waitK 0 1 0 5) 47 40) = true ∧
    AtPacket (atPk (waitK 4 0 0x8000 0) []) 0 partP (waitK 4 0 0x8000 0) ∧ headerBits (waitK 4 0 0x8000 0) 35 32 ≠ 0 ∧
    AtPacket (atPk (signalK 0 1 0 5) []) 0 partP (signalK 0 1 0 5) ∧ ActionIs (atPk (signalK 0 1 0 5) []) 0 partP (signalK 0 1 0 5) 0 ∧
    partP.conf.queues.contains (headerBits (signalK 0 1 0 5) 47 40) = true ∧
    AtPacket (atPk unloadK []) 0 partP unloadK ∧ 0 ∈ ({ patW with refs := [0] } : Pattern).refs ∧
    partP.pats.find? (fun y => y.num = fieldOf unloadK 8 2) = some { patW with refs := [0] } ∧
    (atPk unloadK []).part? partP.conf.num = some partP := by
  refine ⟨at_packet _ _ (by decide +kernel) (by decide +kernel) (by decide +kernel), at_packet _ _ (by decide +kernel) (by decide +kernel) (by decide +kernel), by decide +kernel,
    at_packet _ _ (by decide +kernel) (by decide +kernel) (by decide +kernel), by decide +kernel, at_packet _ _ (by decide +kernel) (by decide +kernel) (by decide +kernel), by decide +kernel,
    at_packet _ _ (by decide +kernel) (by decide +kernel) (by decide +kernel), ⟨by decide +kernel, 0x10000040003, by decide +kernel, by decide +kernel⟩, by decide +kernel,
    at_packet _ _ (by decide +kernel) (by decide +kernel) (by decide +kernel), by decide +kernel, by decide +kernel, by decide +kernel⟩

/-- A store, an addition and a posting to the mapped address 0x8000. -/
theorem test_witness_PacketsAreHandled_memory :
    (∀ c ∈ [1, 2, 3], AtPacket (atPk (signalK c 0 0x8000 5) []) 0 partP (signalK c 0 0x8000 5)) ∧
    headerBits (signalK 1 0 0x8000 5) 35 32 = 1 ∧ headerBits (signalK 2 0 0x8000 5) 35 32 = 2 ∧ headerBits (signalK 3 0 0x8000 5) 35 32 = 3 ∧
    (∀ c ∈ [1, 2, 3], (atPk (signalK c 0 0x8000 5) []).headHeader partP 0 = some (3 + 4 * 2 ^ 16 + c * 2 ^ 32)) ∧
    ((atPk (signalK 1 0 0x8000 5) []).writeV 0 0x8000 ((numberBytes 8 5).map fun b => (b, false))).2 = none ∧
    (atPk (signalK 2 0 0x8000 5) []).readV 0 0x8000 8 = .ok (List.replicate 8 (0, false)) ∧
    ((atPk (signalK 2 0 0x8000 5) []).writeV 0 0x8000 ((numberBytes 8 5).map fun b => (b, false))).2 = none ∧
    (atPk (signalK 3 0 0x8000 5) []).readV 0 0x8000 32 = .ok (List.replicate 32 (0, false)) ∧
    ((atPk (signalK 3 0 0x8000 5) []).writeV 0 0x8000
      ((postBytes (List.replicate 32 0) ⟨5 % 2 ^ 32, 0, none, none⟩).map fun b => (b, false))).2 = none := by
  refine ⟨?_, by decide +kernel, by decide +kernel, by decide +kernel, by decide +kernel, by decide +kernel, by decide +kernel, by decide +kernel, by decide +kernel, by decide +kernel⟩
  intro c hc
  simp only [List.mem_cons, List.not_mem_nil, or_false] at hc
  rcases hc with rfl | rfl | rfl <;> exact at_packet _ _ (by decide +kernel) (by decide +kernel) (by decide +kernel)

/-- The SHA-256 digest of the object, taken elsewhere. -/
def digestW : List Byte := (le 32 0xaedef1c72e1e8aeb666a4b645c55a2b99869b5810d3df5aa1bdd27075ee8f581).reverse

/-- A pattern object: 2 x 2 tiles, split mode, one idle bundle of code, the terminal record. -/
def objectW : List Byte :=
  le 4 0x4E524744 ++ [0, 0, 2, 2, 0, 0, 1, 0, 64, 32, 32, 0xFF] ++ le 4 128 ++ le 4 4 ++ le 8 0 ++ le 4 136 ++ le 2 1 ++ List.replicate 26 0 ++
    digestW ++ List.replicate 32 0 ++ le 8 0xB0000000 ++ [0, 0, 0, 0x40, 0xFF, 0xFF, 0xFF, 0xFF] ++ List.replicate 360 0

def loadK : Packet := ⟨.load, le 8 (5 + 4 * 2 ^ 16) ++ le 8 7 ++ le 8 0x20000 ++ le 8 0⟩

def readOk (s : State) (n : Nat) : Bool :=
  match s.readV 0 0x20000 n with
  | .ok o => o.map (·.1) == objectW.take n && o.all fun b => !b.2
  | .error _ => false

/-- LOAD of that object as pattern 7: it is read whole, its digest agrees, and it fits. -/
theorem test_witness_PacketsAreHandled_load :
    AtPacket (atPk loadK objectW) 0 partP loadK ∧ fieldOf loadK 16 8 = 0x20000 ∧ readOk (atPk loadK objectW) 128 = true ∧
    headerOk (objectW.take 128) = true ∧ objSize (objectW.take 128) = 504 ∧ objectW.length = 504 ∧
    readOk (atPk loadK objectW) 504 = true ∧ (readObject (fieldOf loadK 8 2) 0x20000 objectW).isOk = true ∧
    partP.pats.find? (fun y => y.num = fieldOf loadK 8 2) = none ∧
    (partP.pats.map fun y => 4 * y.code.length).sum + 4 * 1 ≤ 196608 ∧ (atPk loadK objectW).part? 0 = some partP := by
  refine ⟨at_packet _ _ (by decide +kernel) (by decide +kernel) (by decide +kernel), by decide +kernel, by decide +kernel,
    by decide +kernel, by decide +kernel, by decide +kernel, by decide +kernel, by decide +kernel, by decide +kernel, by decide +kernel,
    rfl⟩

/-- A node of 64 bytes: kind, predecessors, X, and successors 1 and none. -/
def nodeB (kind preds x succ : Nat) : List Byte :=
  le 2 kind ++ le 2 preds ++ le 4 0 ++ le 8 x ++ List.replicate 16 0 ++ le 2 succ ++ List.replicate 14 0xFF ++ List.replicate 16 0

def graphK : Packet := pk .graph 4 0 0 0x20000 2 0x8000

/-- An empty node, then a launch node; the LAUNCH lies at 0x20400. -/
def graphB : List Byte := nodeB 0 0 0 1 ++ nodeB 1 1 0x20400 0xFFFF

def node0 : Node := ⟨0, 0, 0, 0, 0, 0, 0, 1 :: List.replicate 7 0xFFFF, 0, .runnable, 0, []⟩

def node1 : Node := ⟨1, 1, 0x20400, 0, 0, 0, 0, List.replicate 8 0xFFFF, 0, .runnable, 0, []⟩

def node2 (pkt : List Byte) : Node := ⟨2, 1, 0x20400, 0, 0, 0, 0, List.replicate 8 0xFFFF, 0, .running, 0, pkt⟩

def graphQ (ns : List Node) : Queue := { ringQ 32 with head := .graph, graph := some ⟨0x8000, ns⟩ }

/-- WAITs met exactly: a timeline, a doubleword that equals, a posted descriptor; a graph of two nodes read and run. -/
theorem test_witness_WaitsAndGraphsGoOn :
    (∀ u r m, (qState u r m).parts.find? (fun p => p.conf.queues.contains 0) = some partP) ∧ partP.fenced = false ∧
    (let s := { qState { ringQ 32 with head := .wait, pkt := (waitK 0 1 0 5).bytes } [] [] with
        queues := ((qState { ringQ 32 with head := .wait, pkt := (waitK 0 1 0 5).bytes } [] []).queues).set 1 { tl := 5 } }
     (s.queue 0).ctl.getLsbD 1 = false ∧ (s.queue 0).head = .wait ∧ headerBits ⟨.wait, (s.queue 0).pkt⟩ 35 32 = 0 ∧
       fieldOf ⟨.wait, (s.queue 0).pkt⟩ 16 8 ≤ (s.queue (headerBits ⟨.wait, (s.queue 0).pkt⟩ 47 40)).tl.toNat) ∧
    (qState (ringQ 32) [] []).condition partP (waitK 2 0 0x8000 0) = .ok true ∧
    (qState (ringQ 32) [] (le 8 1)).condition partP (waitK 1 0 0x20000 1) = .ok true ∧
    (qState (ringQ 32) [] (le 8 0 ++ [1])).condition partP (waitK 4 0 0x20000 0) = .ok true ∧
    AtPacket (atPk graphK graphB) 0 partP graphK ∧ ((atPk graphK graphB).queue 0).graph = none ∧
    ((atPk graphK graphB).readGraph partP graphK).isOk = true := by
  refine ⟨fun _ _ _ => rfl, rfl, by decide +kernel, by decide +kernel, by decide +kernel, by decide +kernel,
    at_packet _ _ (by decide +kernel) (by decide +kernel) (by decide +kernel), by decide +kernel, by decide +kernel⟩

theorem test_witness_WaitsAndGraphsGoOn_nodes :
    (let s := qState (graphQ [node0, node1]) [] (graphB ++ List.replicate 896 0 ++ launchK.bytes)
     (s.queue 0).head = .graph ∧ (s.queue 0).graph = some ⟨0x8000, [node0, node1]⟩ ∧ [node0, node1][0]? = some node0 ∧
       node0.st = .runnable ∧ node0.kind = 0 ∧ [node0, node1][1]? = some node1 ∧ node1.st = .runnable ∧ node1.kind = 1 ∧
       s.nodePacket partP node1 .launch = .ok launchK ∧ s.launchRefused partP 0 launchK = none ∧ (s.queue 0).ctl.getLsbD 1 = false) ∧
    (let s := qState (graphQ [node2 (waitK 2 0 0x8000 0).bytes]) [] []
     (node2 (waitK 2 0 0x8000 0).bytes).st = .running ∧ (node2 (waitK 2 0 0x8000 0).bytes).kind = 2 ∧
       (s.queue 0).graph = some ⟨0x8000, [node2 (waitK 2 0 0x8000 0).bytes]⟩ ∧
       s.condition partP ⟨.wait, (node2 (waitK 2 0 0x8000 0).bytes).pkt⟩ = .ok true) := by
  refine ⟨?_, ?_⟩ <;> decide +kernel

/-! ### Witnesses: packets met whole, foreign queues, wait nodes -/

/-- A second partition that has queue 9. -/
def partO : Part := newPart { confW with num := 1, queues := [9], guaranteed := [2], groups := [1], slots := [64], tenant := 8 }

def withOther (k : Packet) : State := { atPk k [] with parts := [partP, partO] }

/-- The ring of queue 0 read from index rd, published up to wr; its last header lies at 0xFF8. -/
def endQ (rd wr : Nat) : State :=
  { qState { base := 0x10000, ctl := 0x10C01, wr := wr, rd := rd } (le 8 (1 + 52 * 2 ^ 16)) [] with
    hbm := ⟨hbmW.cells ++ cellsOf 0x10000 (le 8 (1 + 52 * 2 ^ 16)) ++ cellsOf 0x10FF0 (le 8 0x10000) ++ cellsOf 0x10FF8 (le 8 (1 + 52 * 2 ^ 16)), []⟩ }

theorem at_head (rd wr : Nat) (hc : ((endQ rd wr).queue 0).ctl = 0x10C01) (hi : ((endQ rd wr).queue 0).head = .idle) :
    AtHead (endQ rd wr) 0 partP :=
  ⟨rfl, rfl, by rw [hc]; decide, by rw [hc]; decide, hi⟩

theorem head_at (s : State) (p : Part) (h : Nat)
    (hr : s.readV p.conf.num (((s.queue 0).base &&& 0x01FF_FFFF_FFFF_F000).toNat +
      (s.queue 0).rd % 2 ^ ((s.queue 0).ctl.extractLsb' 8 5).toNat) 8 = .ok ((le 8 h).map fun b => (b, false)))
    (hn : numberOf ((le 8 h).map fun b => (b, false)) = h) : headAt s 0 p h :=
  ⟨_, hr, hn⟩

/-- A LAUNCH whose header is not published, whose body is not, and one that straddles the ring's end; a PAD before the end. -/
theorem test_witness_PacketsAreHandled_whole :
    (AtHead (endQ 0 0) 0 partP ∧ headAt (endQ 0 0) 0 partP 3407873 ∧ 3407873 % 256 = 1 ∧ ((endQ 0 0).queue 0).wr < ((endQ 0 0).queue 0).rd + 8) ∧
    (AtHead (endQ 0 408) 0 partP ∧ headAt (endQ 0 408) 0 partP 3407873 ∧ ((endQ 0 408).queue 0).wr < ((endQ 0 408).queue 0).rd + 8 * 52) ∧
    (AtHead (endQ 0xFF8 0x1000) 0 partP ∧ headAt (endQ 0xFF8 0x1000) 0 partP 3407873 ∧
      2 ^ (((endQ 0xFF8 0x1000).queue 0).ctl.extractLsb' 8 5).toNat < ((endQ 0xFF8 0x1000).queue 0).rd % 4096 + 8 * 52 ∧
      (endQ 0xFF8 0x1000).part? 0 = some partP ∧ entryAction (partP.entry 0x281) ≠ .forward) ∧
    (AtHead (endQ 0xFF0 0x1000) 0 partP ∧ headAt (endQ 0xFF0 0x1000) 0 partP 65536) := by
  refine ⟨⟨at_head _ _ (by decide +kernel) (by decide +kernel), head_at _ _ _ (by decide +kernel) (by decide +kernel), by decide, by decide +kernel⟩,
    ⟨at_head _ _ (by decide +kernel) (by decide +kernel), head_at _ _ _ (by decide +kernel) (by decide +kernel), by decide +kernel⟩,
    ⟨at_head _ _ (by decide +kernel) (by decide +kernel), head_at _ _ _ (by decide +kernel) (by decide +kernel), by decide +kernel, rfl, by decide⟩,
    ⟨at_head _ _ (by decide +kernel) (by decide +kernel), head_at _ _ _ (by decide +kernel) (by decide +kernel)⟩⟩

/-- Queue 9 is another partition's, queue 1 the partition's own. -/
theorem test_witness_PacketsAreHandled_foreign :
    NotForeign (withOther (waitK 0 1 0 5)) partP (waitK 0 1 0 5) ∧ ¬NotForeign (withOther (waitK 4 9 0x8000 0)) partP (waitK 4 9 0x8000 0) ∧
    AtPacket (withOther (waitK 4 9 0x8000 0)) 0 partP (waitK 4 9 0x8000 0) ∧ (withOther (waitK 4 9 0x8000 0)).part? 0 = some partP ∧
    entryAction (partP.entry 0x280) ≠ .forward ∧ (atPk (signalK 1 0 0x8000 5) []).quiet = [] ∧
    NotForeign (atPk (signalK 1 0 0x8000 5) []) partP (signalK 1 0 0x8000 5) := by
  refine ⟨?_, ?_, ⟨rfl, rfl, by decide +kernel, by decide +kernel, by decide +kernel, by decide +kernel⟩, rfl, by decide, rfl, ?_⟩
  · intro o ho hn
    rcases List.mem_cons.mp ho with rfl | ho
    · exact absurd rfl hn
    · rw [List.mem_singleton.mp ho]; decide
  · intro h; exact absurd (h partO (by decide) (by decide)) (by decide)
  · intro o ho hn; rw [List.mem_singleton.mp ho] at hn; exact absurd rfl hn

def nodeW : Node := ⟨2, 1, 0x20400, 0, 0, 0, 0, List.replicate 8 0xFFFF, 0, .runnable, 0, []⟩

/-- A runnable wait node, whose WAIT lies at 0x20400; offsets that no register has. -/
theorem test_witness_WaitsAndGraphsGoOn_wait_node :
    (let s := qState (graphQ [nodeW]) [] (List.replicate 1024 0 ++ (waitK 4 0 0x8000 0).bytes)
     (s.queue 0).graph = some ⟨0x8000, [nodeW]⟩ ∧ nodeW.st = .runnable ∧ s.nodePacket partP nodeW .wait = .ok (waitK 4 0 0x8000 0)) ∧
    NotForeign (qState (graphQ [nodeW]) [] []) partP (waitK 4 0 0x8000 0) ∧
    (0x4038 ∉ [0x4008, 0x4010, 0x4018, 0x4020, 0x4028, 0x4030] ∧ 0x1000 ∉ [0, 0xF8, 0x100]) ∧ (stand regW).part? 5 = none := by
  refine ⟨by decide +kernel, ?_, by decide, rfl⟩
  intro o ho hn; rw [List.mem_singleton.mp ho] at hn; exact absurd rfl hn
/-! ### Witnesses: the region manager -/

/-- No region stands; a LAUNCH of queue 0 waits. -/
def launching (k : Packet) (p : Part) : State :=
  { qState { ringQ 416 with head := .launch, pkt := k.bytes } [] [] with regions := [], parts := [p], nextRid := 0 }

def candW (k : Packet) (x : Pattern) : Cand := ⟨some (.head 0), 0, 0, 0, x, k.dual, [], k⟩

def dualK : Packet := ⟨.launch, le 8 (1 + 52 * 2 ^ 16 + 0x3_0202 * 2 ^ 32) ++ le 8 0 ++ le 8 0x8000 ++ List.replicate 392 0⟩

def patP : Pattern := { patW with refs := [0] }

theorem turn (s : State) (p : Part) (mine : Cand → Bool) (y : Cand) (pl : Place) (p2 : Option Place) (h : s.part? p.conf.num = some p)
    (ho : (offerOrder s p).find? mine = some y)
    (hb : ((offerOrder s p).takeWhile (fun x => !mine x)).isEmpty = true) (hf : p.fenced = false)
    (hl : (s.refill (candQueues (topCands s p))).legalPlace p y pl p2 = true) (hp : s.parts = [p]) : Turn s p mine y pl p2 := by
  refine ⟨h, ho, ?_, hf, hl, ?_⟩
  · intro x hx; rw [List.isEmpty_iff.mp hb] at hx; cases hx
  · intro x hx hn; rw [hp] at hx; exact absurd (List.mem_singleton.mp hx) hn

/-- A save at the save area's start, written out whole. -/
def savedW : Saved := ⟨0x40000000, 0x10000, 0, [], []⟩

/-- The region as a save left it after a commit of record 7. -/
def regSaved : Region := { regW with status := .saved, stitch := 1, recId := 7, saved := some savedW }

def resuming : State := { qState {} [] [] with regions := [regSaved] }

def candR : Cand := ⟨none, 0, 0, 0, regSaved.pat, false, [], ⟨.pad, []⟩⟩

theorem test_witness_RegionsStandAndQuadsAreLent :
    Turn (launching launchK partP) partP (fun x => x.ref == some (.head 0)) (candW launchK patP) ⟨2, 2, 3⟩ none ∧
    Turn (launching dualK partP) partP (fun x => x.ref == some (.head 0)) (candW dualK patP) ⟨0, 0, 0⟩ (some ⟨2, 0, 0⟩) ∧
    ((launching launchK partP).queue 0).fwdFor = none ∧
    (∃ y, Turn resuming partP (fun x => x.ref.isNone && x.rid = 0) y ⟨2, 0, 1⟩ none) ∧ resuming.region? 0 = some regSaved ∧
    regSaved.launch.part = partP.conf.num ∧ regSaved.saved = some savedW ∧ regSaved.stitch ≠ 0 ∧ regSaved.stub = false ∧
    regSaved.pat.recs.find? (fun x => x.id = regSaved.recId) = some (recW 7) ∧
    ({ stand regW with jobs := [⟨3, 4, true, false⟩] } : State).jobs.find? (fun j => j.x = 3 && j.y = 4) = some ⟨3, 4, true, false⟩ := by
  refine ⟨turn _ _ _ _ _ _ rfl (by decide +kernel) (by decide +kernel) rfl (by decide +kernel) rfl,
    turn _ _ _ _ _ _ rfl (by decide +kernel) (by decide +kernel) rfl (by decide +kernel) rfl, by decide +kernel,
    ⟨((offerOrder resuming partP).head?).getD candR, turn _ _ _ _ _ _ rfl (by decide +kernel) (by decide +kernel) rfl (by decide +kernel) rfl⟩,
    rfl, rfl, rfl, by decide, rfl, by decide, by decide⟩

/-- A pattern of 6 x 4 tiles, its LAUNCH, and the neighbour whose margin quads 2 and 26 it needs. -/
def patB : Pattern := { patW with w := 6, h := 4, refs := [0] }

def launchB : Packet := ⟨.launch, le 8 (1 + 52 * 2 ^ 16 + 0x1_0406 * 2 ^ 32) ++ le 8 0 ++ le 8 0x8000 ++ List.replicate 392 0⟩

def borrower : Part := { partW with pats := [patB] }

def ownerW : Part := newPart { confW with num := 1, guaranteed := [48], margin := [2, 26], lendMask := 1, queues := [2], tenant := 8 }

def lending : State := { launching launchB borrower with parts := [ownerW, borrower] }

def regL : Region := { regW with place := ⟨4, 0, 0⟩ }

def lentS (gs : List Region) : State := { lending with regions := gs, lent := [⟨2, 1, 0, false⟩] }

theorem test_witness_RegionsStandAndQuadsAreLent_margin :
    (lending.part? 0 = some borrower ∧ lending.parts.find? (fun o => o.conf.margin.contains 2) = some ownerW ∧ borrower.fenced = false ∧
      lending.lendable borrower 2 = true ∧ (adjacentQuads 1 2 = true ∧ 1 ∈ borrower.conf.guaranteed) ∧
      (∃ c ∈ lending.cands borrower, lending.fitsNow borrower c = false ∧
        c.admitted 2 (fun n => lending.freeFor borrower n || lending.lendable borrower n) = true)) ∧
    (∃ l ∈ (lentS []).lent, l.quad = 2 ∧ l.back = false) ∧ (∀ g ∈ (lentS []).regions, g.quads.contains 2 = false) ∧
    (lentS [regL]).regions.filter (fun g => g.onTiles && g.quads.contains 2) = [regL] ∧ regL.status = .running ∧
    (lentS [regL]).region? regL.rid = some regL := by
  refine ⟨⟨rfl, by decide, rfl, by decide +kernel, ⟨by decide, by decide⟩, by decide +kernel⟩,
    ⟨_, .head _, rfl, rfl⟩, (fun _ h => by cases h), by decide +kernel, rfl, rfl⟩

/-- A parked region that fits the save area. -/
def regParked : Region := { regW with status := .parked ⟨0x101, false, 0, false, 7, 0, 0, none, none⟩ }

theorem test_witness_RegionsStandAndQuadsAreLent_save :
    Undamaged resuming 0 savedW ∧ (stand regParked).regions = [regParked] ∧ regParked.launch.part = partW.conf.num ∧
    (stand regParked).part? partW.conf.num = some partW ∧ partW.fenced = false ∧ regParked.cmds = [] ∧ regParked.awaits = [] ∧
    regParked.saved = none ∧ regParked.mailPend = [] ∧
    (partW.conf.saveVa + 63) / 64 * 64 + 64 + regParked.saveBytes ≤ partW.conf.saveVa + partW.conf.saveSize := by
  refine ⟨⟨?_, ⟨rfl, rfl⟩, fun a => ?_⟩, rfl, rfl, rfl, rfl, rfl, rfl, rfl, rfl, by decide +kernel⟩
  · intro g hg hn; rw [List.mem_singleton.mp hg] at hn; exact absurd rfl hn
  · show natMem [] (a / hbmGran) = false; rfl

def prim (v : Verdict) : Region := { regW with role := .primary, verdict := v, status := .final }

/-- Another instance, whose signature record holds a byte. -/
def inst (o : Role) (b : List Byte) : Region :=
  { regW with rid := 1, role := o, status := .final, place := ⟨2, 0, 0⟩, records := if b.isEmpty then [] else [(1, b)] }

def pair (v : Verdict) (hs : List Region) : State := { stand regW with regions := prim v :: hs }

theorem test_witness_DualRunsAndHandlersEnd :
    (∀ v hs, (pair v hs).region? 0 = some (prim v) ∧ (prim v).role = .primary ∧ (prim v).verdict = v ∧ (prim v).status = .final) ∧
    OtherInstance (pair .pending [inst .shadow []]) (prim .pending) .shadow (inst .shadow []) ∧
    (inst .shadow []).items = [] ∧ (inst .shadow []).cmds = [] ∧ (inst .shadow []).rid ≠ 0 ∧
    (prim .pending).signature = (inst .shadow []).signature ∧ (prim .pending).signature ≠ (inst .shadow [1]).signature ∧
    (pair .pending []).canVote (prim .pending) ((prim .pending).quads ++ (inst .shadow []).quads) = true ∧
    ({ pair .pending [] with dev := { (stand regW).dev with quar := 0x3000000 } } : State).canVote (prim .pending)
      ((prim .pending).quads ++ (inst .shadow []).quads) = false ∧
    (let s := pair .third [inst .shadow [1], { inst .third [2] with rid := 2 }]
     OtherInstance s (prim .third) .shadow (inst .shadow [1]) ∧ OtherInstance s (prim .third) .third { inst .third [2] with rid := 2 }) ∧
    (prim .third).signature = ({ inst .third [] with rid := 2 } : Region).signature ∧
    (prim .third).signature ≠ ({ inst .third [2] with rid := 2 } : Region).signature ∧
    (inst .shadow [1]).signature ≠ ({ inst .third [2] with rid := 2 } : Region).signature ∧
    (inst .shadow [1]).signature = ({ inst .third [1] with rid := 2 } : Region).signature ∧
    OtherInstance (pair .rerun [inst .rerun []]) (prim .rerun) .rerun (inst .rerun []) := by
  unfold OtherInstance
  refine ⟨fun _ _ => ⟨rfl, rfl, rfl, rfl⟩, by decide +kernel, rfl, rfl, by decide, by decide +kernel, by decide +kernel, by decide +kernel,
    by decide +kernel, ⟨by decide +kernel, by decide +kernel⟩, by decide +kernel, by decide +kernel, by decide +kernel, by decide +kernel,
    by decide +kernel⟩

def raiseW : Raise := ⟨0x3C0, true, 0, false, 6, 0, 0, none, none⟩

def handled (final : Bool) (b : Byte) : State :=
  { qState {} [] [b] with
    regions := [{ regW with status := .interrupted raiseW, finalDone := final, handler := some ⟨some 1, 1, 0x20000⟩ }] }

theorem test_witness_DualRunsAndHandlersEnd_disposition :
    (∀ f b, (handled f b).region? 0 =
      some { regW with status := .interrupted raiseW, finalDone := f, handler := some ⟨some 1, 1, 0x20000⟩ }) ∧
    (handled false 0).readV 0 0x20000 1 = .ok [(0, false)] ∧ (handled true 0).readV 0 0x20000 1 = .ok [(0, false)] ∧
    (∀ b, (handled false 1).readV 0 0x20000 1 = .ok [(b, false)] → b ≠ 0) := by
  refine ⟨fun _ _ => rfl, by decide +kernel, by decide +kernel, ?_⟩
  intro b h hb
  have : (handled false 1).readV 0 0x20000 1 = .ok [(1, false)] := by decide +kernel
  rw [this, hb] at h
  injection h with h; injection h with h; injection h with h; exact absurd h (by decide)


/-- A third run that has lost its last placement, a losing primary that could be written again and one that could not, a quad
whose gate is set and that a wake would open. -/
theorem test_witness_DualRunsAndHandlersEnd_further :
    (∀ x ∈ (pair .third [inst .shadow [1]]).regions, sameLaunch x (prim .third) = true → x.role ≠ .third) ∧
    ({ pair .third [inst .shadow [1]] with dev := { (stand regW).dev with quar := BitVec.allOnes 576 } } : State).canVote (prim .third)
      (prim .third).avoid = false ∧
    (prim .third).firm = false ∧ ({ prim .third with firm := true } : Region).firm = true ∧
    ({ lending with dev := { lending.dev with gate := 4 } } : State).dev.gate.getLsbD 2 = true := by
  refine ⟨by decide +kernel, by decide +kernel, rfl, rfl, by decide⟩
/-! ### Witnesses: host, peers, links, management -/

def two (g h : Region) : State := { stand g with regions := [g, h] }

def reqW (as : List Asker) : PageReq := ⟨3, 0x40000000, 5, 0, 0, 0, 0, as, false⟩

def partR (as : List Asker) : Part := { partW with reqs := [reqW as] }

def parkedR : Region := { regW with status := .parked { raiseW with cause := 0x101 } }

def asking : State := { stand parkedR with parts := [partR [.region 0]] }

def partI : Part := { partW with invals := [⟨[(0, 4)]⟩] }

theorem test_witness_HostRequestsAreCarriedOut :
    HostDriven (stand regW) 0 partW ∧ ({ stand regW with regions := [] } : State).regions.filter (fun g => g.launch.queue = 0) = [] ∧
    (stand regW).regions.filter (fun g => g.launch.queue = 0) = [regW] ∧ regW.status = .running ∧
    (stand regW).part? partW.conf.num = some partW ∧ (stand regW).regions.filter (fun g => g.launch.part = partW.conf.num) = [regW] ∧
    (stand regW).region? regW.rid = some regW ∧
    Answers asking 0 3 5 (partR [.region 0]) (reqW [.region 0]) ∧ (partR [.region 0]).prqWait = [] ∧
    asking.region? 0 = some parkedR ∧ parkedR.status = .parked { raiseW with cause := 0x101 } ∧ parkedR.launch.part = 0 ∧
    (partR [.region 0]).reqs.find? (fun q => q.idx = 4 && q.gen == 5) = none ∧
    (partR [.region 0]).reqs.find? (fun q => q.idx = 3 && q.gen == 6) = none ∧ asking.dev.stage = .up ∧
    ({ stand regW with parts := [partI] } : State).part? 0 = some partI ∧ partI.invals = ⟨[(0, 4)]⟩ :: [] ∧
    (∀ h ∈ (⟨[(0, 4)]⟩ : Inval).holders, ∀ g ∈ (stand regW).regions, ¬(g.rid = h.1 ∧ g.stitch = h.2 ∧ g.status = .running)) := by
  refine ⟨⟨rfl, rfl, rfl⟩, rfl, by decide, rfl, rfl, by decide, rfl, ⟨rfl, rfl, rfl, by decide, by decide, rfl⟩, rfl, rfl, rfl, rfl,
    by decide, by decide, rfl, rfl, rfl, ?_⟩
  intro h hh g hg
  rw [List.mem_singleton.mp hh, List.mem_singleton.mp hg]; decide

/-- A refused answer, under an entry that kills and under one that parks. -/
theorem test_witness_HostRequestsAreCarriedOut_refused :
    entryAction ((partR [.region 0]).entry 0x102) = .kill ∧
    entryAction (({ partR [.region 0] with table := [(0x102, 2)] } : Part).entry 0x102) = .park ∧
    parkedR.role = .single ∧ parkedR.handler = none ∧ parkedR.preempt = false ∧ ({ raiseW with cause := 0x101 } : Raise).cmd = none := by
  decide

/-- The last byte of the partition's space, and one past it; a range that is mapped for the host, and one that is not. -/
theorem test_witness_HostAndPeersReachHbm :
    (stand regW).dev.stage = .up ∧ (stand regW).part? partW.conf.num = some partW ∧
    2 ^ 33 - 2 + ([1, 2] : List Byte).length ≤ partW.groups.length * 2 ^ 33 ∧
    partW.groups.length * 2 ^ 33 < 2 ^ 33 - 1 + ([1, 2] : List Byte).length ∧
    (stand regW).parts.find? (fun p => p.conf.tenant = 9) = none ∧
    (stand regW).parts.find? (fun p => p.conf.tenant = 7) = some partW ∧
    2 ^ 33 - 8 + wordBytes true ≤ partW.groups.length * 2 ^ 33 ∧
    (∃ m ∈ ({ (stand regW).dev with hostMaps := [(0, 0x1000, 0x1000)] } : Dev).hostMaps,
      m.1 = partW.conf.num ∧ m.2.1 ≤ 0x1FFE ∧ 0x1FFE + ([1, 2] : List Byte).length ≤ m.2.1 + m.2.2) ∧
    (∀ m ∈ ({ (stand regW).dev with hostMaps := [(0, 0x1000, 0x1000)] } : Dev).hostMaps,
      m.1 = partW.conf.num → ¬(m.2.1 ≤ 0x2000 ∧ 0x2000 < m.2.1 + m.2.2)) := by
  refine ⟨rfl, rfl, by decide, by decide, by decide, rfl, by decide, by decide, by decide⟩

def pageAt (t : Target) : Page := { pageW with target := t, dev := 9 }

def waitAt (t : Target) (lost : Bool) : Region := { regW with awaits := [{ gldW .waiting with page := some (pageAt t), lost := lost }] }

theorem load_at (s : State) (t : Target) (home : Home → Bool) (h : ∀ n, home ⟨t, 9, n⟩ = true) (hm : s.mayGo (waitAt t false) 0 9 = true)
    (hw : (waitAt t false).awaits.find? (fun a => a.id = 9 && a.st == .waiting) = some { gldW .waiting with page := some (pageAt t) }) :
    LoadAt s (waitAt t false) 9 home { gldW .waiting with page := some (pageAt t) } 8 false :=
  ⟨hw, rfl, hm, by decide, pageAt t, rfl, h _⟩

theorem test_witness_LostAnswersLinksAndFatalState :
    (∀ t l, (stand (waitAt t l)).region? 0 = some (waitAt t l)) ∧
    LoadAt (stand (waitAt .cxl false)) (waitAt .cxl false) 9 (fun h => h.target == .cxl || h.target == .pcie) { gldW .waiting with page := some (pageAt .cxl) } 8 false ∧
    LoadAt (stand (waitAt .pcie false)) (waitAt .pcie false) 9 (fun h => h.target == .cxl || h.target == .pcie) { gldW .waiting with page := some (pageAt .pcie) } 8 false ∧
    (waitAt .cxl false).items.find? (fun i => i.id = 9 && i.released) = none ∧ (waitAt .cxl false).cmds.find? (fun c => c.id = 9) = none ∧
    LoadAt { stand (waitAt .peer false) with quiet := [9] } (waitAt .peer false) 9
      (fun h => decide (h.target = .peer ∧ h.dev ≠ (stand regW).dev.id) && ({ stand (waitAt .peer false) with quiet := [9] } : State).quiet.contains h.dev)
      { gldW .waiting with page := some (pageAt .peer) } 8 false ∧
    ({ stand regW with parts := [{ partW with toldPeers := [9] }] } : State).part? 0 = some { partW with toldPeers := [9] } ∧
    (pageAt .peer).dev ∈ ({ partW with toldPeers := [9] } : Part).toldPeers ∧
    { gldW .waiting with page := some (pageAt .peer), lost := true } ∈ (waitAt .peer true).awaits ∧
    (stand regW).dev.err.link ≠ BitVec.allOnes 32 ∧ 32 * (2 ^ 35 - 1) < 2 ^ 40 ∧ 2 ^ 40 ≤ 32 * 2 ^ 35 ∧
    (∀ x d, (stand regW).dev.stage ≠ .fatal x d) ∧ (stand regW).hbm.wf = true := by
  refine ⟨fun _ _ => stand_reg rfl, load_at _ _ _ (fun _ => rfl) (by decide) (by decide), load_at _ _ _ (fun _ => rfl) (by decide) (by decide), rfl, rfl,
    load_at _ _ _ (fun _ => rfl) (by decide) (by decide), rfl, by decide, by decide, by decide, by decide, by decide, ?_, by decide⟩
  intro x d h; cases h

/-- A request sent again once and three times; one with no answer to come; two cases of one instant. -/
theorem test_witness_LostAnswersLinksAndFatalState_again :
    (∀ x ∈ (waitAt .peer true).awaits, x.id = 9 → x.sends < 3) ∧
    (∀ x ∈ ({ waitAt .peer true with awaits := [{ gldW .waiting with lost := true, sends := 3 }] } : Region).awaits, x.id = 9 → 3 ≤ x.sends) ∧
    (∀ i ∈ (waitAt .peer true).items, i.id ≠ 9) ∧ (∀ c ∈ (waitAt .peer true).cmds, c.id ≠ 9) ∧
    ({ (stand regW).dev with stage := .fatal 0x333 0 } : Dev).stage = .fatal 0x333 0 ∧ (stand regW).dev.wall = (stand regW).dev.fatalAt ∧
    fatalCauseOf .hostLink < 0x333 := by decide

/-- The digests of the one-byte keys 1 and 2, taken elsewhere. -/
def fusesW : Fuses :=
  ⟨0x4bf5122f344554c53bde2ebb8cd2b7e3d1600ad631c385a5d7cce23c7785459a,
   0xdbc1b4c900ffe48d575b5da5c638040125f65db0fe3e24494b76ea986457d986, 3⟩

def signedW (v : Nat) : Signed := ⟨[7], v, [1], [2], true, true⟩

theorem accepted_iff (f : Fuses) (x : Signed) : Accepted f x ↔ signedOk f x = true := by
  simp [Accepted, signedOk, and_assoc]

theorem images_iff (f : Fuses) (l : List Signed) : ImagesAccepted f l ↔ imagesAccepted f l = true := by
  simp [ImagesAccepted, imagesAccepted, accepted_iff]

def bootW (images : List Signed) (record : Signed) : BootRec :=
  ⟨fusesW, images, [], record, 0, 0, [confW], [], BitVec.allOnes 576, 0, [], [24], [], true, BitVec.allOnes 32, true, []⟩

/-- Images and record of the fused keys, at the fused version and below it; an image that is missing. -/
theorem test_witness_ManagementPlaneActs_signed :
    ImagesAccepted fusesW (List.replicate 4 (signedW 3)) ∧ Accepted fusesW (signedW 3) ∧ ¬Accepted fusesW (signedW 2) ∧
    ¬Accepted fusesW { signedW 3 with edOk := false } ∧ ¬Accepted fusesW { signedW 3 with mlKey := [1] } ∧
    ¬ImagesAccepted fusesW (List.replicate 3 (signedW 3)) := by
  simp only [accepted_iff, images_iff]
  decide +kernel

def stageOf : Host.Outcome State Fault Refusal → Option Stage
  | .next t => some t.dev.stage
  | _ => none

/-- A device that comes up without the quad 24 that its maps withhold, one without firmware, one without a record. -/
theorem test_witness_ManagementPlaneActs_boot :
    [stageOf (exec (.deviceReset (bootW (List.replicate 4 (signedW 3)) (signedW 3))) State.reset),
     stageOf (exec (.deviceReset (bootW [] (signedW 3))) State.reset),
     stageOf (exec (.deviceReset (bootW (List.replicate 4 (signedW 3)) (signedW 2))) State.reset)] =
      [some .up, some .reset, some .management] := by decide +kernel

def turnW : TurnRec := ⟨List.replicate 4 (signedW 3), [], []⟩

/-- Turnover with nothing running, with one running region, again, and while it goes on; quotes. -/
theorem test_witness_ManagementPlaneActs_turnover :
    (let s : State := { stand regW with dev := { (stand regW).dev with turn := 1, fused := some fusesW }, regions := [] }
     TurnsOver s 0 partW ∧ s.dev.fused = some fusesW ∧ (∀ g ∈ s.regions, s.dev.turn.getLsbD g.launch.part = false)) ∧
    (let s : State := { stand regW with dev := { (stand regW).dev with turn := 1, fused := some fusesW } }
     TurnsOver s 0 partW ∧ s.regions = [regW] ∧ regW.launch.part = 0 ∧ regW.status = .running ∧ regW.role = .single ∧ regW.handler = none) ∧
    ({ (stand regW).dev with turning := some ⟨some turnW⟩ } : Dev).turning.isSome = true ∧ (stand regW).dev.turning = none ∧
    (stand regW).dev.stage = .up :=
  ⟨⟨⟨rfl, rfl, rfl, by decide, rfl, by decide, rfl⟩, rfl, fun _ h => by cases h⟩,
    ⟨⟨rfl, rfl, rfl, by decide, rfl, by decide, rfl⟩, rfl, rfl, rfl, rfl, rfl⟩, rfl, rfl, rfl⟩

/-- A step within the cap, one beyond it that power needs while nothing is idle, and one that nothing needs; gating and waking. -/
theorem test_witness_ManagementPlaneActs_power :
    (18 : BitVec 5) ≤ (stand regW).dev.clkCap ∧
    (let s : State := { stand regW with dev := { (stand regW).dev with clkCap := 3, gate := BitVec.allOnes 576 } }
     s.dev.clkCap < 4 ∧ ∀ q < 576, s.gateable q = false) ∧
    (let s : State := { stand regW with regions := [] }
     575 < 576 ∧ s.dev.gate.getLsbD 575 = false ∧ (∀ g ∈ s.regions, g.quads.contains 575 = false ∧ g.saved = none) ∧
       (∀ l ∈ s.lent, l.quad ≠ 575) ∧ 575 ∉ s.dev.waking ∧ ∀ p ∈ s.parts, s.cands p = []) ∧
    575 ∈ ({ (stand regW).dev with waking := [575] } : Dev).waking ∧ (stand regW).dev.stage ≠ .reset := by
  refine ⟨by decide, ⟨by decide, ?_⟩, ⟨by decide, by decide, (fun _ h => by cases h), (fun _ h => by cases h), by decide, by decide +kernel⟩,
    by decide, by decide⟩
  intro q hq
  have h : (BitVec.allOnes 576).getLsbD q = true := by rw [BitVec.getLsbD_allOnes]; exact decide_eq_true hq
  simp only [State.gateable, h, Bool.not_true, Bool.and_false, Bool.false_and]

/-! ### Witnesses: the machine -/

/-- ADD g5, g3, 12 under p1 as the table's word, and what the decoder makes of it. -/
def addI : Instr := .add ⟨⟨1, false⟩, false, .g 5, .g 3, .op (.imm 12)⟩

def fetched (nbits w : Nat) : State := State.reset.withFetchWord nbits w

def fetchedReg (nbits w : Nat) : Region :=
  State.reset.newRegion (fetchPattern (codeOf nbits w)) fetchLaunch .single ⟨0, 0, 0⟩ none

def oneOp (slot : Nat) (i : Instr) : Bundle := ⟨2, 0, 0, [(slot, i)]⟩

theorem meets (w slot : Nat) (i : Instr)
    (hd : (fetchedReg 64 w).issues 0 false = true) (hp : ((fetchedReg 64 w).str 0 false).skip = false)
    (hq : ((fetchedReg 64 w).str 0 false).pc = 0) (hc : ((fetchedReg 64 w).tile 0).codeBad = [])
    (hb : decodeBundle ⟨false, 0, some false⟩ (codeOf 64 w) = .ok (oneOp slot i)) :
    Meets (fetched 64 w) (fetchedReg 64 w) 0 0 false 0 (oneOp slot i) :=
  ⟨rfl, rfl, hd, ⟨hp, hq, by decide⟩, ⟨by decide, by show 0 < 4 * (codeOf 64 w).length; simp [codeOf]⟩, hc, hb⟩

/-- What running the operation comes to: held or not, how many causes, frozen or not. -/
def runOf (i : Instr) (s : State) : Option (Bool × Nat × Bool) :=
  match exec i s with
  | .next u => (u.region? 0).map fun g => (isHeld u, g.raised.length, g.frozen == .no)
  | _ => none

/-- ADD goes on; TRAP 5 raises a cause; JWAIT 3 holds, before and after its (empty) halt. -/
theorem test_witness_StepRunsTheDecodedBundle :
    Meets (fetched 64 0x0085038CB0000001) (fetchedReg 64 0x0085038CB0000001) 0 0 false 0 (oneOp 0 addI) ∧
    Meets (fetched 64 0x34008500B0000040) (fetchedReg 64 0x34008500B0000040) 0 0 false 0 (oneOp 6 (.trap g0 5)) ∧
    Meets (fetched 64 0x30008300B0000040) (fetchedReg 64 0x30008300B0000040) 0 0 false 0 (oneOp 6 (.jwait g0 3)) ∧
    ((fetchedReg 64 0).str 0 false).done = 0 ∧
    (∀ k, ((halted (fetchedReg 64 0) 0 false 0).str 0 false).sticky k = none) ∧
    runOf addI (running ((fetched 64 0).setRegion (halted (fetchedReg 64 0) 0 false 0)) 0 0 false 0 0 (oneOp 0 addI)) =
      some (false, 0, true) ∧
    runOf (.trap g0 5) (running ((fetched 64 0).setRegion (halted (fetchedReg 64 0) 0 false 0)) 0 0 false 0 6 (oneOp 6 (.trap g0 5))) =
      some (false, 1, true) ∧
    runOf (.jwait g0 3) (running ((fetched 64 0).setRegion (halted (fetchedReg 64 0) 0 false 0)) 0 0 false 0 6 (oneOp 6 (.jwait g0 3))) =
      some (true, 0, true) ∧
    runOf (.jwait g0 3) (running (fetched 64 0) 0 0 false 0 6 (oneOp 6 (.jwait g0 3))) = some (true, 0, true) := by
  refine ⟨meets _ _ _ (by decide) (by decide) (by decide) (by decide) (by decide), meets _ _ _ (by decide) (by decide) (by decide) (by decide) (by decide),
    meets _ _ _ (by decide) (by decide) (by decide) (by decide) (by decide), by decide, ?_, by decide, by decide, by decide, by decide⟩
  intro k
  match k with
  | 0 | 1 | 2 | 3 | 4 | _ + 5 => rfl

/-- The same in twin mode: stream A issues, and stream B's issue is due 2 sc later. -/
def twinReg (w : Nat) : Region := { fetchedReg 64 w with pat := { (fetchedReg 64 w).pat with split := false } }

def twinS (w : Nat) : State := { fetched 64 w with regions := [twinReg w] }

theorem test_witness_StepRunsTheDecodedBundle_twin :
    Meets (twinS 0x0085038CB0000001) (twinReg 0x0085038CB0000001) 0 0 false 0 (oneOp 0 addI) ∧
    (match step (twinS 0x0085038CB0000001) with | .next u => u.twins.map (fun x => (x.due, x.tile, x.pc)) | _ => []) = [(2, 0, 0)] :=
  ⟨⟨rfl, rfl, by decide, ⟨by decide, by decide, by decide⟩, ⟨by decide, by show 0 < 4 * (codeOf 64 0x0085038CB0000001).length; simp [codeOf]⟩,
    by decide, by decide⟩, by decide⟩

def strW : Stream := {}

def loopS (l : Nat) (e : Word) (c : BitVec 32) : Stream :=
  { bank := { lc := Vector.replicate 4 c }, loops := ⟨l, Vector.replicate 4 8, Vector.replicate 4 e⟩ }

/-- The last repeat and one before it; loops 0 and 3 at their end with a count left and without, and away from it; transfers
with one delay bundle left, behind another, and just taken. -/
theorem test_witness_NextBundleOfAStream :
    ({ strW with done := 62 } : Stream).done < (⟨1, 63, 0, []⟩ : Bundle).r.toNat ∧
    (⟨1, 63, 0, []⟩ : Bundle).r.toNat ≤ ({ strW with done := 63 } : Stream).done ∧ strW.pend = [] ∧ strW.loops.depth = 0 ∧
    (loopS 1 16 1).loops.depth = 0 + 1 ∧ (loopS 4 16 0).loops.depth = 3 + 1 ∧
    ((loopS 1 16 1).loops.ends[0]).toNat = 16 ∧ (loopS 1 16 1).bank.lc[0] ≠ 0 ∧ ((loopS 4 16 0).loops.ends[3]).toNat = 16 ∧
    (loopS 4 16 0).bank.lc[3] = 0 ∧ ((loopS 4 16 0).loops.ends[3]).toNat ≠ 12 ∧
    ({ strW with pend := [⟨1, 32, true, 2⟩, ⟨2, 64, false, 0⟩] } : Stream).pend = ⟨1, 32, true, 2⟩ :: [⟨2, 64, false, 0⟩] ∧
    (∀ p ∈ ([⟨2, 64, false, 0⟩] : List Pend), 1 < p.left) ∧ ({ strW with pend := [⟨3, 32, false, 0⟩] } : Stream).pend = [⟨3, 32, false, 0⟩] := by
  decide

theorem test_witness_DecodeEncodeRoundTrip : addI.wf = true ∧ encode addI ≠ [] := by decide

/-- Storage in its form, in a state whose step is next. -/
theorem test_witness_StorageKeepsItsForm :
    StorageForm State.reset ∧ StorageForm (fetched 64 0x0085038CB0000001) ∧
    (match step (fetched 64 0x0085038CB0000001) with | .next _ => true | _ => false) = true := by
  refine ⟨?_, ?_, by decide⟩ <;> simp [StorageForm] <;> decide

def ending (b : Bool) (e : EndOp) : Region := { regW with endEffs := [⟨3, b, e⟩] }

theorem test_witness_EndOfScAppliesItsEffects :
    (∀ b e, DefersOnly (ending b e) 3 b e) ∧ deferred regW 3 = [] ∧
    (regW.tile 3).a.srNext = none ∧ (regW.tile 3).b.srNext = none ∧ 3 < regW.tiles.length := by
  refine ⟨fun b e => ⟨?_, by show 3 < 4; decide⟩, by decide, by decide, by decide, by decide⟩
  simp [ending]

/-- A row of each class issues and answers a next state. -/
theorem test_witness_SlotOperationFrame :
    Issuing (on regH lsW) lsW regH ∧
    (∀ i ∈ ([addI, .nop g0, .hrel g0 3, .lmand ⟨⟨0, false⟩, 1, 2, 3⟩, .mzero mc 0, .engStat g0 (.g 1) 0, .idleBundle 3 1] : List Instr),
      inBundle i = true ∧ (runOf i (on regH lsW)).isSome = true) := by
  refine ⟨issuing rfl, ?_⟩
  decide

/-! ### The spec's worked encodings (07, 09, 10, 11, 15, 16) -/

def opsOf (ws : List Word32) : Option (List (Nat × Instr)) := (decodeBundle tableEnv ws).toOption.map (·.ops)

def workedWords : List (List Word32 × List (Nat × Instr)) :=
  [([0xB0020003, 0x0085038C, 0x04098504, 0x42000000],
     [(0, addI), (1, .sub ⟨⟨9, true⟩, false, .g 5, .g 4, .op (.k 2)⟩)]),
   ([0xB0040004, 0x42000902, 0x07003880], [(2, .gld ⟨g0, .w, false, .g 9, 2, .g 7, ⟨3, .dev, .acq, 0⟩, 0⟩)]),
   ([0xB0080008, 0x74030904, 0x00000298], [(3, .vcvt ⟨⟨⟨3, false⟩, .e4m3, false, false, .rne, true, 0x29⟩, 9, .v 4, .v 0, .v 0⟩)]),
   ([0xB0100010, 0x02400004, 0x09001805], [(4, .mma ⟨⟨g0, true, 3, 5, 0, 0⟩, 1, false, false, .g 4, .g 9, .g 0⟩)]),
   ([0xB0100010, 0x00700000, 0x04000000], [(4, .mma ⟨mc, 1, true, true, .g 0, .g 4, .g 0⟩)]),
   ([0xB0600060, 0x0000000C, 0x00020209, 0x58000014, 0x00000005],
     [(5, .ceOut ⟨g0, none, 2, 2, .g 12, .g 0⟩), (6, .tlwait g0 20 5)]),
   ([0xB0070007, 0x00101C1C, 0x00000400, 0x00101D1D, 0x00000400, 0x6410001F, 0x02000000],
     [(0, .add ⟨g0, false, .g 28, .g 28, .imm16 1024⟩), (1, .add ⟨g0, false, .g 29, .g 29, .imm16 1024⟩),
      (2, .vst ⟨g0, 1, .g 31, 2, .g 0, 0, 0⟩)]),
   ([0xB0130017, 0x98001300, 0x00000100, 0x98001400, 0x00000900, 0x0C040080, 0x24100100, 0x0C000000],
     [(0, .li g0 (.g 19) 0x100), (1, .li g0 (.g 20) 0x900), (2, .ldD ⟨g0, .g 4, .g 0, .imm 0, .g 0, 0, 0⟩),
      (4, .mrset ⟨g0, 1, .g 0, some (.g 12)⟩)]),
   ([0xB0040004, 0x3436000A, 0x0480FFFF], [(2, .stx ⟨⟨6, false⟩, .d, .g 10, .g 4, .imm 0, 0xFF, 0xFF, 0⟩)]),
   ([0xB04000C0, 0x4C000000, 0x00000000], [(6, .barArr g0 0)]),
   ([0xB0400040, 0x48000000, 0x84000002], [(6, .barInit g0 0 .quad (.imm 4))]),
   ([0xB0440045, 0x544B0000, 0x38038205, 0x00000000, 0x38078000, 0x00000000],
     [(0, .cmpne ⟨g0, false, 3, .g 0, .op (.g 0)⟩), (2, .xlate ⟨⟨3, true⟩, 2, .g 5, .g 0, .g 0, 0, 0⟩), (6, .exit ⟨7, true⟩)])]

theorem test_worked_encodings : workedWords.all (fun p => opsOf p.1 == some p.2) = true := by decide

/-! ### Single operations on the spec's worked values (04, 10) and on boundary values -/

/-- What one operation launches in a region. -/
def launches (i : Instr) (g : Region) (slot : Nat) : Option (List Flight) :=
  match exec i (on g (inSlot slot)) with
  | .next u => (u.region? 0).map fun g => g.flights.map (·.what)
  | _ => none

/-- The scalar values an operation launches, with their latches left out. -/
def scalarOf (i : Instr) (g : Region) (slot : Nat) : Option (List Word) :=
  (launches i g slot).map fun l => l.filterMap fun f => match f with
    | .scalar _ _ x => some x.bits
    | _ => none

/-- The lowest `n` elements of `w` bits that an operation launches in a vector register. -/
def elementsOf (i : Instr) (g : Region) (w n : Nat) : Option (List (List Nat)) :=
  (launches i g 3).map fun l => l.filterMap fun f => match f with
    | .vec _ bits _ _ => some ((List.range n).map fun e => bits.toNat / 2 ^ (w * e) % 2 ^ w)
    | _ => none

/-- The sources of a scalar pair: the most negative number, −1 and 7. -/
def regPair : Region := withG 3 7 (withG 2 (BitVec.allOnes 64) (withG 1 (BitVec.twoPow 64 63) regW))

def two12 (a b : BitVec 6) : Alu2 := ⟨g0, false, .g 9, .g a, .op (.g b)⟩

/-- 08 R194, R199: sums wrap, a shift amount is taken mod 64, high products differ by their signs, division corners. -/
theorem test_scalar_results :
    [scalarOf (.add (two12 1 1)) regPair 0, scalarOf (.sar (two12 1 2)) regPair 0, scalarOf (.mulh (two12 2 3)) regPair 0,
     scalarOf (.mulhu (two12 2 3)) regPair 0, scalarOf (.div (two12 1 2)) regPair 0, scalarOf (.rem (two12 3 0)) regPair 0,
     scalarOf (.divu (two12 3 0)) regPair 0] =
    [some [0], some [BitVec.allOnes 64], some [BitVec.allOnes 64], some [6], some [BitVec.twoPow 64 63], some [7],
     some [BitVec.allOnes 64]] := by decide

def lanesOf (l : List Nat) : VReg := ⟨BitVec.ofNat 1024 (l.foldr (fun x a => x + 2 ^ 32 * a) 0), 0⟩

def regVec (l : List Nat) : Region := withBank (fun k => { k with v := (k.v.set! 1 (lanesOf l)) }) regW

def toE4m3 (r : Rnd) (sat : Bool) : Instr := .vcvt ⟨{ vm .e4m3 with rnd := r, sat := sat, x := 9 }, 9, .v 1, .v 0, .v 0⟩

/-- 04's worked example: 300 and 470 to E4M3. -/
theorem test_worked_conversion :
    [elementsOf (toE4m3 .rne false) (regVec [0x43960000, 0x43EB0000]) 8 2, elementsOf (toE4m3 .rtz false) (regVec [0x43960000, 0x43EB0000]) 8 2,
     elementsOf (toE4m3 .rup false) (regVec [0x43960000, 0x43EB0000]) 8 2, elementsOf (toE4m3 .rdn false) (regVec [0x43960000, 0x43EB0000]) 8 2,
     elementsOf (toE4m3 .rup true) (regVec [0x43960000, 0x43EB0000]) 8 2] =
    [some [[0x79, 0x7F]], some [[0x79, 0x7E]], some [[0x7A, 0x7F]], some [[0x79, 0x7E]], some [[0x7A, 0x7E]]] := by decide +kernel

/-- 10's worked conversion of NaN, −∞ and 2^−10 with .SAT. -/
theorem test_worked_conversion_specials :
    elementsOf (toE4m3 .rne true) (regVec [0x7FC00000, 0xFF800000, 0x3A800000]) 8 3 = some [[0x7F, 0xFE, 0x00]] := by decide +kernel

def scaled : Region := withG 8 0x40000000 (regVec [0x40A00000, 0xC0300000, 0x3E99999A, 0x41400000])

/-- 10's worked scale word and quotients. -/
theorem test_worked_scaling :
    scalarOf (.vqscale ⟨{ vm .e2m1 with x := 9 }, .g 8, 1, .v 0⟩) scaled 3 = some [0x40000000] ∧
    elementsOf (.vquant ⟨{ vm .e2m1 with x := 9 }, 2, .v 1, .g 8, .v 0⟩) scaled 4 4 = some [[0x4, 0xB, 0x0, 0x7]] := by decide +kernel

/-- 04's worked table: lo = −4, e = −5, identity above, constant +0 below, segment 133. -/
def tableW : Table :=
  ⟨leBytes 4 0xC0800000 ++ [0xFB, 0xFF, 0x04, 0] ++ List.replicate (24 + 12 * 133) 0 ++
    (leBytes 4 0x3F800000 ++ leBytes 4 0x3F000000 ++ leBytes 4 0xBE800000) ++ List.replicate (12 * 122) 0, []⟩

def tabled : Region :=
  withTile (fun x => { x with tabs := x.tabs.set! 2 (some ⟨some tableW, 0, []⟩) }) (regVec [0x3E300000, 0x40800000, 0xC0A00000, 0x7FC00000])

theorem test_worked_table :
    elementsOf (.vtbl ⟨{ vm .f32 with x := 0x89 }, 7, .v 1, .v 0, .v 0⟩) tabled 32 4 =
      some [[0x3F980000, 0x40800000, 0x00000000, 0x7FC00000]] := by decide +kernel

/-- 04's worked reduction: 2^24 and 31 ones in the tree's order. -/
theorem test_worked_reduction :
    scalarOf (.vredsum ⟨vm .f32, .g 5, 1, .v 0⟩) (regVec (0x4B800000 :: List.replicate 31 0x3F800000)) 3 = some [0x4B80000F] := by
  decide +kernel

/-- 10 R269: VINS of the number 3 into element 0. -/
theorem test_insert_number : elementsOf (.vins ⟨vm .f32, 1, .imm 3, .imm 0, .v 0⟩) (regVec [7, 9]) 32 1 = some [[0x40400000]] := by
  decide +kernel

/-- 09 R225: a load beyond the last block of the allotment raises 0x090, a misaligned one 0x091. -/
def causesOf (i : Instr) (g : Region) (slot : Nat) : Option (List Cause) :=
  match exec i (on g (inSlot slot)) with
  | .next u => (u.region? 0).map fun g => g.raised.map (·.cause)
  | _ => none

def loadAt (op : LdA → Instr) (a : Nat) : Option (List Cause) :=
  causesOf (op ⟨g0, .g 4, .g 1, .g 0, .g 0, 0, 0⟩) (withG 1 (BitVec.ofNat 64 a) regW) 2

theorem test_load_addresses :
    [loadAt .ldD 0xFFFF8, loadAt .ldB 0x100000, loadAt .ldD 4] = [some [], some [0x090], some [0x091]] := by decide

/-! ### The spec's worked sizes of a save (03 R92; 21 R467) -/

/-- A 2 x 2 region of one running stream a tile, that stands at a record. -/
def savedAt (r : SafePt) : Region := { regW with pat := { patW with recs := [recW 0, r] }, recId := 7, stitch := 1 }

/-- g1 to g4, p1, tb24 and one range of 1,024 bytes; and g1 to g3 where only tile 0's stream A still runs. -/
theorem test_worked_save_sizes :
    (savedAt { recW 7 with g := 0x1E, p := 2, tb := 0x1000000, sp := [(0x400, 1024)] }).saveBytes = 15040 ∧
    ({ savedAt { recW 7 with g := 0xE } with tiles := (savedAt (recW 7)).tiles.zipIdx.map fun x =>
        if x.2 = 0 then x.1 else { x.1 with a := { x.1.a with running := false } } } : Region).saveBytes = 10584 := by
  decide +kernel
end Sys2Proof.Tests
end

section
/-! SUPPORT. Outcomes whose next state keeps the canonical form of the storage outside the tiles: of an event, of a part
of one that may not apply, of a run that may stop with a cause. -/

namespace Sys2Proof.Machine

/-! ### Outcomes -/

/-- Where an outcome is a next state, its storage has its form. -/
def OutForm (o : Out) : Prop := ∀ t, o = .next t → StorageForm t

/-- Where there is a state, its storage has its form. -/
def OptForm (o : Option State) : Prop := ∀ t, o = some t → StorageForm t

/-- Where a run does not stop, the storage of the state it leaves has its form. -/
def ExceptForm {ε : Type} (x : Except ε State) : Prop := ∀ t, x = .ok t → StorageForm t

theorem OutForm.next {t : State} (h : StorageForm t) : OutForm (.next t) := by rintro _ ⟨⟩; exact h

theorem OutForm.refused {r : Refusal} : OutForm (.refused r) := fun _ h => by cases h

theorem OutForm.fault {f : Fault} : OutForm (.fault f) := fun _ h => by cases h

theorem OptForm.some {t : State} (h : StorageForm t) : OptForm (some t) := by rintro _ ⟨⟩; exact h

theorem OptForm.none : OptForm none := fun _ h => by cases h

theorem OptForm.bind {α : Type} {o : Option α} {f : α → Option State} (hf : ∀ a, o = Option.some a → OptForm (f a)) :
    OptForm (o.bind f) := by
  cases o with
  | none => exact .none
  | some a => exact hf a rfl

theorem OptForm.map {α : Type} {o : Option α} {f : α → State} (hf : ∀ a, o = Option.some a → StorageForm (f a)) :
    OptForm (o.map f) := by
  cases o with
  | none => exact .none
  | some a => exact .some (hf a rfl)

theorem OptForm.orElse {a b : Option State} (ha : OptForm a) (hb : OptForm b) : OptForm (a <|> b) := by
  cases a with
  | none => exact hb
  | some _ => exact ha

theorem ExceptForm.ok {ε : Type} {t : State} (h : StorageForm t) : ExceptForm (.ok t : Except ε State) := by
  rintro _ ⟨⟩; exact h

theorem ExceptForm.error {ε : Type} {e : ε} : ExceptForm (.error e) := fun _ h => by cases h

theorem ExceptForm.bind {ε α : Type} {x : Except ε α} {f : α → Except ε State}
    (hf : ∀ a, x = .ok a → ExceptForm (f a)) : ExceptForm (x >>= f) := by
  cases x with
  | error e => exact .error
  | ok a => exact hf a rfl

theorem ExceptForm.map {ε α : Type} {x : Except ε α} {f : α → State} (hf : ∀ a, x = .ok a → StorageForm (f a)) :
    ExceptForm (x.map f) := by
  cases x with
  | error e => exact .error
  | ok a => exact .ok (hf a rfl)

/-- The state of a run that was taken apart. -/
theorem form_of_fst {α : Type} {x : State × α} {t : State} {a : α} (hx : StorageForm x.1) (he : x = (t, a)) :
    StorageForm t := by
  subst he; exact hx

theorem form_ite {c : Prop} [Decidable c] {a b : State} (ha : StorageForm a) (hb : StorageForm b) :
    StorageForm (if c then a else b) := by
  split
  · exact ha
  · exact hb

/-! ### The shapes of rows -/

/-- Every row of a bundle runs on its region alone. -/
theorem form_issueOp {s : State} {f : Cursor → Region → Except Stop Region} (h : StorageForm s) :
    OutForm (issueOp s f) := by
  intro t ht
  obtain ⟨_, _, -, -, ⟨_, -, rfl⟩ | ⟨_, _, -, rfl⟩ | ⟨_, _, -, rfl⟩ | ⟨_, -, rfl⟩ | ⟨_, -, rfl⟩⟩ := issueOp_cases ht
  all_goals exact h

theorem form_execIdleBundle {s : State} (r : BitVec 6) (b : BitVec 3) (h : StorageForm s) :
    OutForm (execIdleBundle r b s) :=
  form_issueOp h

theorem form_regionEvent {name : String} {r : Nat} {s : State} {f : Region → Option State} (hf : ∀ g, OptForm (f g)) :
    OutForm (regionEvent name r s f) := by
  unfold regionEvent
  split
  · exact .refused
  · split
    · next hs => exact .next (hf _ _ hs)
    · exact .refused

/-! ### Effects on the region clock -/

theorem form_execResultLanding {s : State} (r : Nat) (h : StorageForm s) : OutForm (execResultLanding r s) :=
  form_regionEvent fun g => by
    split
    · split <;> exact .some h
    · exact .some h
    · exact .some h
    · exact .none

theorem form_execStorePerform {s : State} (r : Nat) (h : StorageForm s) : OutForm (execStorePerform r s) :=
  form_regionEvent fun _ => .bind fun _ _ => by
    split
    · exact .some h
    · exact .none

theorem form_execRemoteLoadSample {s : State} (r : Nat) (h : StorageForm s) : OutForm (execRemoteLoadSample r s) :=
  form_regionEvent fun _ => .bind fun _ _ => by
    split
    · exact .some h
    · exact .none

theorem form_execBarArrivalEffect {s : State} (r : Nat) (h : StorageForm s) : OutForm (execBarArrivalEffect r s) :=
  form_regionEvent fun _ => .bind fun _ _ => by
    split
    · exact .some h
    · exact .none

theorem form_execBarrierPhaseComplete {s : State} (r : Nat) (h : StorageForm s) :
    OutForm (execBarrierPhaseComplete r s) :=
  form_regionEvent fun _ => .bind fun _ _ => by
    split
    · exact .some h
    · exact .none

theorem form_execTlincEffect {s : State} (r : Nat) (h : StorageForm s) : OutForm (execTlincEffect r s) :=
  form_regionEvent fun _ => .bind fun _ _ => by
    split
    · exact .some h
    · exact .none

theorem form_execMailboxApply {s : State} (r : Nat) (h : StorageForm s) : OutForm (execMailboxApply r s) :=
  form_regionEvent fun _ => by
    split
    · exact .none
    · exact .some h

theorem form_execMatrixCommandStart {s : State} (r t : Nat) (h : StorageForm s) :
    OutForm (execMatrixCommandStart r t s) :=
  form_regionEvent fun _ => .map fun _ _ => h

theorem form_execMatrixCommandComplete {s : State} (r t : Nat) (h : StorageForm s) :
    OutForm (execMatrixCommandComplete r t s) :=
  form_regionEvent fun _ => .map fun _ _ => h

theorem form_execDeadlineFault {s : State} (r : Nat) (h : StorageForm s) : OutForm (execDeadlineFault r s) :=
  form_regionEvent fun _ => by
    split
    · exact .some h
    · exact .none

/-! ### Commits -/

theorem form_forwardNotices {s : State} (g : Region) (h : StorageForm s) : StorageForm (s.forwardNotices g) := by
  unfold State.forwardNotices
  split
  · exact h
  · exact form_foldl (fun _ _ h => form_notice _ _ h) _ h

theorem form_afterCommit {s : State} (r : Nat) (h : StorageForm s) : StorageForm (s.afterCommit r) := by
  unfold State.afterCommit
  split
  · split
    · exact form_startSave _ _ h
    · exact h
  · exact h

theorem form_finishDurable {s : State} (r : Nat) (h : StorageForm s) : StorageForm (s.finishDurable r) := by
  unfold State.finishDurable
  split
  · exact h
  · split
    · exact h
    · split
      · split
        · exact h
        · exact form_afterCommit _ (form_setRegion _ h)
      · exact form_afterCommit _ (form_setRegion _ h)

theorem form_doCommit {s : State} (g : Region) (r : SafePt) (h : StorageForm s) : StorageForm (s.doCommit g r) := by
  have hn := form_forwardNotices g h
  unfold State.doCommit
  dsimp only
  split
  · exact form_finishDurable _ hn
  · split
    · exact form_finishDurable _ hn
    · exact form_afterCommit _ hn

theorem form_execCommit {s : State} (r : Nat) (h : StorageForm s) : OutForm (execCommit r s) :=
  form_regionEvent fun g => by
    split
    · exact .none
    · split
      · exact .some h
      · split
        · exact .some h
        · split
          · exact .none
          · exact .map fun _ _ => form_doCommit _ _ h

theorem form_execFinalCommit {s : State} (r : Nat) (h : StorageForm s) : OutForm (execFinalCommit r s) :=
  form_regionEvent fun g => by
    split
    · exact .none
    · split
      · exact .some h
      · split
        · exact .some h
        · split
          · exact .none
          · exact .some (form_of_eq (form_forwardNotices g h) rfl rfl rfl)

end Sys2Proof.Machine
end

section
/-! SUPPORT. Events from wall time keep the form: loads, items at their homes, engine commands, replies. -/

namespace Sys2Proof.Machine

/-! ### The shape of an event from wall time -/

theorem form_settle {s : State} (r : Nat) (h : StorageForm s) : StorageForm (s.settle r) :=
  form_trySave _ (form_finishDurable _ h)

theorem form_asyncEvent {name : String} {r : Nat} {s : State} {f : Region → Option State} (hf : ∀ g, OptForm (f g)) :
    OutForm (asyncEvent name r s f) := by
  unfold asyncEvent
  split
  · exact .refused
  · split
    · next hs => exact .next (form_settle _ (hf _ _ hs))
    · exact .refused

/-! ### Loads, walks and items -/

theorem form_execGldDataArrival {s : State} (r id : Nat) (h : StorageForm s) : OutForm (execGldDataArrival r id s) :=
  form_asyncEvent fun _ => .bind fun (_, _, _, _) _ => by
    dsimp only
    split
    · exact .none
    · exact .some h

theorem form_execXlateWalkComplete {s : State} (r id : Nat) (h : StorageForm s) :
    OutForm (execXlateWalkComplete r id s) :=
  form_asyncEvent fun _ => .bind fun _ _ => by
    split
    · split <;> exact .some h
    · exact .none

theorem form_execAtomrResultArrival {s : State} (r id : Nat) (h : StorageForm s) :
    OutForm (execAtomrResultArrival r id s) :=
  form_asyncEvent fun _ => .bind fun _ _ => .bind fun _ _ => by
    split
    · exact .some h
    · exact .none

theorem form_storeRest {s : State} (n : Nat) (p : Page) (i : Item) (h : StorageForm s) :
    StorageForm (s.storeRest n p i) := by
  unfold State.storeRest
  split
  · exact form_homeWrite _ _ _ h
  · exact form_foldl (fun _ _ h => form_ite h (form_homeWrite _ _ _ h)) _ h

theorem form_execGlobalStorePerformed {s : State} (r id : Nat) (h : StorageForm s) :
    OutForm (execGlobalStorePerformed r id s) :=
  form_asyncEvent fun _ => .bind fun (_, _) _ => by
    dsimp only
    split
    · exact .none
    · exact .some (form_setRegion _ (form_storeRest _ _ _ h))

theorem form_atomic {s : State} (n : Nat) (x : Home) (op : AOp) (k : Nat) (v c : Word) (bad : Bool)
    (src : Option ((BitVec 16 × BitVec 20 × BitVec 32 × Nat) × BitVec 16 × Nat)) (h : StorageForm s) :
    StorageForm (s.atomic n x op k v c bad src).1 := by
  unfold State.atomic
  split
  · exact h
  · dsimp only
    split <;> exact form_homeWrite _ _ _ h

theorem form_execHomeAtomicApply {s : State} (r id : Nat) (h : StorageForm s) : OutForm (execHomeAtomicApply r id s) :=
  form_asyncEvent fun _ => .bind fun (_, _) _ => .bind fun (_, _, _, _) _ => by
    dsimp only
    split
    · exact .none
    · exact .some (form_setRegion _ (form_atomic _ _ _ _ _ _ _ _ h))

theorem form_finalCause {s : State} (r : Nat) (ra : Raise) (h : StorageForm s) : StorageForm (s.finalCause r ra) := by
  unfold State.finalCause
  split
  · exact h
  · split
    · exact h
    · exact form_apply _ _ _ _ h

theorem form_itemCause {s : State} (g : Region) (t : Nat) (b : Bool) (c : Cause) (va : Nat) (h : StorageForm s) :
    StorageForm (s.itemCause g t b c va) := by
  unfold State.itemCause
  dsimp only
  split
  · exact form_finalCause _ _ (form_setRegion _ h)
  · exact h
  · exact h

theorem form_execItemRefusal {s : State} (r : Nat) (o : Refused) (h : StorageForm s) :
    OutForm (execItemRefusal r o s) :=
  form_asyncEvent fun _ => by
    split
    · split
      · exact .none
      · split
        · exact .some h
        · exact .none
    · split
      · exact .none
      · split
        · dsimp only
          split
          · exact .some h
          · exact .some (form_itemCause _ _ _ _ _ h)
        · exact .none
    · exact .none

/-! ### Copies -/

theorem form_vput (mute : Home → Bool) (f : Nat) {s : State} (n va : Nat) (ps : List PByte) (h : StorageForm s) :
    StorageForm (State.vput mute f s n va ps).1 := by
  induction f generalizing s va ps with
  | zero => exact h
  | succ f ih =>
    unfold State.vput
    split
    · exact h
    · split
      · exact h
      · dsimp only
        split
        · exact h
        · exact ih _ _ (form_ite h (form_homeWrite _ _ _ h))

theorem form_sendAll (mute : Home → Bool) (g : Region) (c : Cmd) (fresh : Nat) (ms : List Move) {s : State}
    (h : StorageForm s) : StorageForm (State.sendAll mute g c fresh ms s).1 := by
  induction ms generalizing s with
  | nil => exact h
  | cons m ms ih =>
    unfold State.sendAll
    dsimp only
    have hp := form_vput mute (pagesOf m.len) g.launch.part m.dst
      (clean ((g.engRead fresh c (m.src.getD 0) m.len).map (·.1))) h
    split
    · next he => exact ih (form_of_fst hp he)
    · next he => exact ih (form_of_fst hp he)
    · next he => exact form_of_fst hp he

theorem form_reduceElem {s : State} (mute : Home → Bool) (g : Region) (c : Cmd) (op : AOp) (va e : Nat) (v : Word)
    (h : StorageForm s) : StorageForm (s.reduceElem mute g c op va e v).1 := by
  unfold State.reduceElem
  split
  · exact h
  · split
    · exact h
    · split
      · exact h
      · dsimp only
        split
        · split <;> exact h
        · exact form_atomic _ _ _ _ _ _ _ _ h

theorem form_reduceAll (mute : Home → Bool) (g : Region) (c : Cmd) (op : AOp) (es : List (Nat × Nat × Word)) {s : State}
    (h : StorageForm s) : StorageForm (State.reduceAll mute g c op es s).1 := by
  induction es generalizing s with
  | nil => exact h
  | cons x es ih =>
    obtain ⟨va, e, v⟩ := x
    unfold State.reduceAll
    have hp := form_reduceElem mute g c op va e v h
    split
    · next he => exact ih (form_of_fst hp he)
    · next he => exact ih (form_of_fst hp he)
    · next he => exact form_of_fst hp he

theorem form_copyRun {s : State} (mute : Home → Bool) (g : Region) (c : Cmd) (h : StorageForm s) :
    StorageForm (s.copyRun mute g c).1 := by
  unfold State.copyRun
  split
  iterate 4
    · exact form_setRegion _ h
  · exact form_setRegion _ h
  · exact form_setRegion _ h
  iterate 2
    · split
      · exact h
      · exact form_sendAll _ _ _ _ _ h
  · split
    · exact h
    · exact form_reduceAll _ _ _ _ _ h
  · exact h

theorem form_count {s : State} (r : Nat) (c : Cmd) (h : StorageForm s) : StorageForm (s.count r c) := h

theorem form_execCopyCommandCounted {s : State} (r id : Nat) (h : StorageForm s) :
    OutForm (execCopyCommandCounted r id s) :=
  form_asyncEvent fun _ => .bind fun _ _ => by
    split
    · exact .none
    · split
      · next he => exact .some (form_count _ _ (form_of_fst (form_copyRun _ _ _ h) he))
      · exact .none

/-! ### Causes against an engine context -/

theorem form_parkCmd {s : State} (g : Region) (c : Cmd) (x : Cause) (va : Nat) (h : StorageForm s) :
    StorageForm (s.parkCmd g c x va) := by
  unfold State.parkCmd
  dsimp only
  split
  · exact form_recordCause _ _ _ _ _ (form_pageRequest _ _ _ _ _ _ _ _ (form_setRegion _ h))
  · have ht := form_tellPage g.launch.part (s.poisonPage g.launch.part va) (form_setRegion (g.parkCmd c.id x va) h)
    split
    · exact ht
    · exact form_recordCause _ _ _ _ _ ht

theorem form_ctxAtRest {s : State} (g : Region) (ra : Raise) (h : StorageForm s) : StorageForm (s.ctxAtRest g ra) := by
  unfold State.ctxAtRest
  dsimp only
  split
  · split
    · exact h
    · exact form_apply _ _ _ _ h
  · split
    · exact h
    · split
      · exact form_recordCause _ _ _ _ _ (form_setRegion _ h)
      · exact form_byTable _ _ (form_setRegion _ h)
  · exact form_byTable _ _ (form_setRegion _ h)

theorem form_ctxCause {s : State} (g : Region) (c : Cmd) (x : Cause) (va : Nat) (h : StorageForm s) :
    StorageForm (s.ctxCause g c x va) := by
  unfold State.ctxCause
  dsimp only
  split
  · exact h
  · split
    · exact form_parkCmd _ _ _ _ h
    · split
      · exact h
      · exact form_ctxAtRest _ _ h

/-! ### Table loads and collectives -/

theorem form_tableDone {s : State} (g : Region) (c : Cmd) (k : BitVec 3) (ps : List PByte) (h : StorageForm s) :
    StorageForm (s.tableDone g c k ps) := by
  unfold State.tableDone
  dsimp only
  split
  · exact h
  · split
    · exact h
    · split
      · exact h
      · exact form_ctxAtRest _ _ h

theorem form_execTableLoadCounted {s : State} (r id : Nat) (h : StorageForm s) :
    OutForm (execTableLoadCounted r id s) :=
  form_asyncEvent fun _ => .bind fun _ _ => by
    split
    · split
      · exact .none
      · split
        · exact .some (form_tableDone _ _ _ _ h)
        · exact .none
    · exact .none

theorem form_colDone {s : State} (g : Region) (c : Cmd) (ps : List PByte) (path : BitVec 2) (h : StorageForm s) :
    StorageForm (s.colDone g c ps path) := form_count _ _ (form_setRegion _ h)

theorem form_collective {s t : State} {g : Region} {c : Cmd} {others : List Contrib} (h : StorageForm s)
    (ht : collective s g c others = some (.ok t)) : StorageForm t := by
  unfold collective at ht
  dsimp only at ht
  split at ht
  · cases ht
  · split at ht
    · cases ht
    · split at ht
      · cases ht
      · cases ht
        exact form_colDone _ _ _ _ h

theorem form_execCollectiveCounted {s : State} (r id : Nat) (others : List Contrib) (h : StorageForm s) :
    OutForm (execCollectiveCounted r id others s) :=
  form_asyncEvent fun _ => .bind fun _ _ => by
    split
    · exact .none
    · split
      · exact .map fun _ _ => form_colDone _ _ _ _ h
      · split
        · next he => exact .some (form_collective h he)
        · exact .some (form_ctxCause _ _ _ _ h)
        · exact .none

theorem form_execColQAnswer {s : State} (r id : Nat) (granted : Option (List Nat)) (h : StorageForm s) :
    OutForm (execColQAnswer r id granted s) :=
  form_asyncEvent fun _ => .bind fun _ _ => by
    split
    · exact .none
    · split
      · exact .map fun _ _ => form_count _ _ h
      · split
        · exact .none
        · exact .some (form_count _ _ (form_setRegion _ h))

/-! ### Scheduler functions -/

theorem form_enqueue {s t : State} {n q : Nat} {bs : List Byte} (h : StorageForm s) (ht : s.enqueue n q bs = .done t) :
    StorageForm t := by
  unfold State.enqueue at ht
  extract_lets u pos pad base at ht
  have hpad : StorageForm (if pad = 0 then (s, none) else s.writeV n (base + pos) (clean (leBytes 8 0x10000))).1 := by
    split
    · exact h
    · exact form_writeV _ _ _ h
  split at ht
  · cases ht
  · generalize (if pad = 0 then (s, none) else s.writeV n (base + pos) (clean (leBytes 8 0x10000))) = w at ht hpad
    obtain ⟨s1, e1⟩ := w
    cases e1 with
    | some e => cases ht
    | none =>
      dsimp only at ht
      split at ht
      · next he => cases ht; exact form_modQueue _ _ (form_of_fst (form_writeV _ _ _ hpad) he)
      · cases ht

theorem form_postAt {s : State} (n d : Nat) (p : Posting) (h : StorageForm s) : ExceptForm (s.postAt n d p) :=
  .bind fun _ _ => by
    split
    · next he => exact .ok (form_of_fst (form_writeV _ _ _ h) he)
    · exact .error

theorem form_raiseTotal {s t : State} {n d a : Nat} (h : StorageForm s) (ht : s.raiseTotal n d a = .ok (some t)) :
    StorageForm t := by
  unfold State.raiseTotal at ht
  cases hr : s.readV n d 32 with
  | error e => simp [hr, bind, Except.bind] at ht
  | ok old =>
    simp only [hr, bind, Except.bind] at ht
    split at ht
    · cases ht
    · split at ht
      · next he => cases ht; exact form_of_fst (form_writeV _ _ _ h) he
      · cases ht

theorem form_schedNotice {s : State} (g : Region) (c : Cmd) (x : Cause) (h : StorageForm s) :
    StorageForm (s.schedNotice g c x) := by
  unfold State.schedNotice
  split
  · exact h
  · exact form_record _ _ _ h

/-- Whatever a scheduler function comes to, the state it leaves has its form. -/
def SchRes.Form : SchRes → Prop
  | .done t | .queue t => StorageForm t
  | .wait | .cause .. => True

theorem form_schRun {s : State} (g : Region) (c : Cmd) (h : StorageForm s) : (s.schRun g c).Form := by
  unfold State.schRun
  dsimp only
  split
  · split
    · trivial
    · split
      · exact form_schedNotice _ _ _ h
      · split
        · next he => exact form_enqueue h he
        · trivial
        · split
          · trivial
          · exact form_queueCause _ _ _ _ h
  · split
    · next he => exact form_raiseTotal h he
    · exact form_schedNotice _ _ _ h
    · trivial
  · split
    · next he => exact form_postAt _ _ _ h _ he
    · trivial
  · trivial

theorem form_tellOne {s : State} (n : Nat) (d : BitVec 20) (va o t : Nat) (h : StorageForm s) :
    StorageForm (s.tellOne n d va o t) := by
  unfold State.tellOne
  split
  · split
    · exact h
    · exact form_notice _ _ (form_setPart _ h)
  · exact h

theorem form_tellRange {s : State} (n va k o t : Nat) (h : StorageForm s) : StorageForm (s.tellRange n va k o t) := by
  unfold State.tellRange
  split
  · exact h
  · exact form_foldl (fun _ _ h => form_tellOne _ _ _ _ _ h) _ h

theorem form_execSchedulerFunctionApplied {s : State} (r id : Nat) (h : StorageForm s) :
    OutForm (execSchedulerFunctionApplied r id s) :=
  form_asyncEvent fun g => .bind fun c _ => by
    have hr := form_schRun g c (form_foldl
      (f := fun s x => s.tellRange g.launch.part x.1 x.2 g.launch.ordinal.toNat c.tile)
      (fun _ _ h => form_tellRange _ _ _ _ _ h) c.schRanges h)
    dsimp only
    split
    · next he => rw [he] at hr; exact .some (form_count _ _ hr)
    · next he => rw [he] at hr; exact .some hr
    · exact .none

/-! ### Causes that a command meets -/

theorem form_cmdCause {s t : State} {g : Region} {c : Cmd} {x : Cause × Nat} (h : StorageForm s)
    (ht : s.cmdCause g c = some (t, x)) : StorageForm t := by
  unfold State.cmdCause at ht
  split at ht
  · split at ht
    · next he => cases ht; exact form_of_fst (form_copyRun _ _ _ h) he
    · cases ht
  · split at ht
    · split at ht <;> cases ht
      exact h
    · split at ht
      · split at ht <;> cases ht
        exact h
      · split at ht
        · cases ht
        · split at ht
          · cases ht; exact h
          · split at ht <;> cases ht
            exact h

theorem form_homeCause {s t : State} {g : Region} {c : Cmd} {r : HomeRefusal} {x : Cause × Nat} (h : StorageForm s)
    (ht : s.homeCause g c r = some (t, x)) : StorageForm t := by
  obtain ⟨_, -, he⟩ := Option.map_eq_some_iff.1 ht
  cases he
  exact h

theorem form_execEngineContextCause {s : State} (r : Nat) (o : Refused) (h : StorageForm s) :
    OutForm (execEngineContextCause r o s) :=
  form_asyncEvent fun _ => .bind fun _ _ => by
    split
    · exact .none
    · refine .bind fun ⟨t, x, va⟩ he => .bind fun g' _ => ?_
      have ht : StorageForm t := by
        split at he
        · exact form_homeCause h he
        · exact form_cmdCause h he
      split
      · exact .none
      · exact .some (form_ctxCause _ _ _ _ ht)

/-! ### Replies that tell nothing -/

theorem form_noReply {s : State} (mute : Home → Bool) (g : Region) (id : Nat) (h : StorageForm s) :
    OptForm (s.noReply mute g id) := by
  unfold State.noReply
  dsimp only
  split
  · split
    · exact .none
    · exact .some h
  · split
    · split
      · exact .none
      · refine .some (form_itemCause _ _ _ _ _ ?_)
        split
        · exact form_ite (form_atomic _ _ _ _ _ _ _ _ h) h
        · exact form_ite (form_homeWrite _ _ _ h) h
    · refine .bind fun c _ => ?_
      split
      · split
        · exact .none
        · split
          · exact .some (form_tableDone _ _ _ _ h)
          · exact .some (form_ctxCause _ _ _ _ h)
      · split
        · split
          · exact .none
          · split
            · next he => exact .some (form_count _ _ (form_of_fst (form_copyRun _ _ _ h) he))
            · next he => exact .map fun _ _ => form_ctxCause _ _ _ _ (form_of_fst (form_copyRun _ _ _ h) he)
        · exact .none

theorem form_noTable {s : State} (g : Region) (id : Nat) (h : StorageForm s) : OptForm (s.noTable g id) := by
  unfold State.noTable
  split
  · exact .none
  · split
    · split
      · exact .some h
      · exact .none
    · exact .bind fun _ _ => .map fun _ _ => form_ctxCause _ _ _ _ h

theorem form_colSilent {s : State} (g : Region) (id : Nat) (h : StorageForm s) : OptForm (s.colSilent g id) :=
  .bind fun _ _ => by
    split
    · exact .some (form_colDone _ _ _ _ h)
    · exact .none

theorem form_tellPeer {s : State} (g : Region) (id : Nat) (h : StorageForm s) : StorageForm (s.tellPeer g id) :=
  form_foldl (fun _ _ h => form_tellOne _ _ _ _ _ h) _ h

theorem form_execSynthesisedReply {s : State} (r id : Nat) (h : StorageForm s) :
    OutForm (execSynthesisedReply r id s) :=
  form_asyncEvent fun _ => .orElse (form_noReply _ _ _ (form_tellPeer _ _ h)) (form_colSilent _ _ (form_tellPeer _ _ h))

theorem form_execHostCompletionTimeout {s : State} (r : Nat) (o : Unanswered) (h : StorageForm s) :
    OutForm (execHostCompletionTimeout r o s) := by
  unfold execHostCompletionTimeout
  split
  · refine form_asyncEvent fun _ => .orElse ?_ (form_noTable _ _ h)
    split
    · exact form_noReply _ _ _ h
    · exact .none
  · split
    · split
      · exact .next (form_queuePark _ _ _ _ h)
      · exact .refused
    · exact .refused

theorem form_execPelaroRequestResend {s : State} (r id : Nat) (h : StorageForm s) :
    OutForm (execPelaroRequestResend r id s) :=
  form_asyncEvent fun _ => by
    dsimp only
    split
    · exact .none
    · exact .some h

/-! ### One word of an access -/

theorem form_moveWord {s : State} (g : Region) (c : Cmd) (n : Nat) (h : StorageForm s) :
    StorageForm (s.moveWord g c n) := by
  unfold State.moveWord
  dsimp only
  split
  · exact h
  · split
    · split
      · next he => exact form_modRegion _ _ (form_of_fst (form_sendAll _ _ _ _ _ h) he)
      · exact h
    · split <;> exact h

theorem form_piece {s : State} (r id n : Nat) (h : StorageForm s) : StorageForm (s.piece r id n) := by
  unfold State.piece
  split
  · exact h
  · dsimp only
    split
    · split
      · exact h
      · split <;> exact h
    · split
      · exact h
      · split
        · exact form_setRegion _ (form_homeWrite _ _ _ h)
        · exact h
    · split
      · exact h
      · exact form_moveWord _ _ _ h
    · exact h

end Sys2Proof.Machine
end

section
/-! SUPPORT. The scheduler and the region manager keep the form: queues, packets, graphs, postings, placement,
resumption, dual runs, handlers, lent quads. -/

namespace Sys2Proof.Machine

/-! ### Queues -/

theorem form_restartQueue {s : State} (q : Nat) (h : StorageForm s) : StorageForm (s.restartQueue q) := by
  unfold State.restartQueue
  dsimp only
  split
  · exact h
  · split <;> exact h

theorem form_execQueueDoorbell {s : State} (q : Nat) (w : Word) (h : StorageForm s) :
    OutForm (execQueueDoorbell q w s) := by
  unfold execQueueDoorbell
  split
  · exact .next h
  · dsimp only
    split
    · exact .next h
    · split
      · exact .next h
      · exact .next (form_queueCause _ _ _ _ h)

theorem form_execQueueEnable {s : State} (q : Nat) (v : Word) (h : StorageForm s) :
    OutForm (execQueueEnable q v s) := by
  unfold execQueueEnable
  split
  · exact .next h
  · exact .next (form_ite (form_restartQueue _ (form_modQueue _ _ h)) (form_modQueue _ _ h))

theorem form_execQueueRestart {s : State} (q : Nat) (h : StorageForm s) : OutForm (execQueueRestart q s) := by
  unfold execQueueRestart
  split
  · exact .next h
  · exact .next (form_restartQueue _ h)

/-! ### Packets -/

theorem form_finishPacket {s : State} (q n : Nat) (h : StorageForm s) : StorageForm (s.finishPacket q n) := h

theorem form_ended {s : State} (p : Part) (q : Nat) {x : PktRun} (h : StorageForm s) (hx : ExceptForm x) :
    StorageForm (s.ended p q x) := by
  unfold State.ended
  split
  · exact hx _ rfl
  · exact form_queueCause _ _ _ _ h

theorem form_packetEvent {name : String} {kind : PktKind} {mine : Nat → Bool} {q : Nat} {s : State}
    {f : Part → Packet → PktRun} (h : StorageForm s) (hf : ∀ p k, ExceptForm (f p k)) :
    OutForm (packetEvent name kind mine q s f) := by
  unfold packetEvent
  split
  · exact .refused
  · split
    · exact .refused
    · split
      · exact .refused
      · exact .next (form_ended _ _ h (hf _ _))
      · exact .next (form_queueCause _ _ _ _ h)

theorem form_execPad {s : State} (q : Nat) (h : StorageForm s) : OutForm (execPad q s) :=
  form_packetEvent h fun _ _ => .ok h

theorem form_loseHandler {s : State} (q : Nat) (h : StorageForm s) : StorageForm (s.loseHandler q) := by
  unfold State.loseHandler
  split
  · split <;> exact h
  · exact h

theorem form_execLaunch {s : State} (q : Nat) (h : StorageForm s) : OutForm (execLaunch q s) := by
  unfold execLaunch
  split
  · exact .refused
  · dsimp only
    split
    · exact .next (form_queueCause _ _ _ _ (form_loseHandler _ (form_modQueue _ _ h)))
    · split
      · exact .next (form_queueCause _ _ _ _ h)
      · refine form_packetEvent h fun _ _ => ?_
        split
        · exact .error
        · exact .ok h

theorem form_execWait {s : State} (q : Nat) (h : StorageForm s) : OutForm (execWait q s) :=
  form_packetEvent h fun _ _ => by
    split
    · exact .error
    · exact .ok h

theorem form_signal {s : State} (p : Part) (k : Packet) (h : StorageForm s) : ExceptForm (s.signal p k) := by
  unfold State.signal
  dsimp only
  split
  · exact .error
  · exact .ok h
  · split
    · next he => exact .ok (form_of_fst (form_writeV _ _ _ h) he)
    · exact .error
  · refine .bind fun _ _ => ?_
    split
    · next he => exact .ok (form_of_fst (form_writeV _ _ _ h) he)
    · exact .error
  · exact form_postAt _ _ _ h

theorem form_signalEvent {s : State} (name : String) (n q : Nat) (h : StorageForm s) :
    OutForm (signalEvent name n q s) :=
  form_packetEvent h fun _ _ => .map fun _ he =>
    form_finishPacket _ _ (form_signal _ _ (form_ite h (form_tellRange _ _ _ _ _ h)) _ he)

theorem form_unbind {s : State} (n num : Nat) (h : StorageForm s) : StorageForm (s.unbind n num) := h

theorem form_loadPacket {s : State} (p : Part) (q : Nat) (k : Packet) (h : StorageForm s) :
    ExceptForm (s.loadPacket p q k) := by
  refine .bind fun _ _ => ?_
  dsimp only
  split
  · exact .error
  · refine .bind fun _ _ => ?_
    split
    · exact .error
    · split
      · exact .error
      · split
        · split
          · exact .ok h
          · exact .error
        · split
          · exact .error
          · exact .ok h

theorem form_execLoad {s : State} (q : Nat) (h : StorageForm s) : OutForm (execLoad q s) :=
  form_packetEvent h fun _ _ => .map fun _ he => form_finishPacket _ _ (form_loadPacket _ _ _ h _ he)

theorem form_unloadPacket {s : State} (p : Part) (q : Nat) (k : Packet) (h : StorageForm s) :
    ExceptForm (s.unloadPacket p q k) := by
  unfold State.unloadPacket
  dsimp only
  split
  · exact .error
  · split
    · exact .error
    · exact .ok (form_unbind _ _ (form_setPart _ h))

theorem form_execUnload {s : State} (q : Nat) (h : StorageForm s) : OutForm (execUnload q s) :=
  form_packetEvent h fun _ _ => .map fun _ he => form_finishPacket _ _ (form_unloadPacket _ _ _ h _ he)

/-! ### Graphs -/

theorem form_finishGraph {s : State} (n q : Nat) (h : StorageForm s) : StorageForm (s.finishGraph n q) := by
  unfold State.finishGraph
  split
  · exact h
  · split
    · exact h
    · split
      · next he => exact form_finishPacket _ _ (form_post h he)
      · exact form_queueCause _ _ _ _ h

theorem form_settleGraph {s : State} (n q : Nat) (h : StorageForm s) : StorageForm (s.settleGraph n q) :=
  form_finishGraph _ _ (form_modQueue _ _ h)

theorem form_execGraph {s : State} (q : Nat) (h : StorageForm s) : OutForm (execGraph q s) := by
  unfold execGraph
  dsimp only
  split
  · split
    · exact .next (form_finishGraph _ _ h)
    · exact .refused
  · exact form_packetEvent h fun _ _ => .map fun _ _ => form_settleGraph _ _ (form_modQueue _ _ h)

theorem form_runNode {s : State} (p : Part) (q i : Nat) (ns : List Node) (n : Node) (h : StorageForm s) :
    ExceptForm (s.runNode p q i ns n) := by
  have set {t : State} (f : List Node → List Node) (ht : StorageForm t) :
      StorageForm ((t.modQueue q fun u => u.setNodes f).settleGraph p.conf.num q) :=
    form_settleGraph _ _ (form_modQueue _ _ ht)
  unfold State.runNode
  dsimp only
  split
  · exact .ok (set _ h)
  iterate 2
    · refine .bind fun _ _ => ?_
      split
      · exact .error
      · exact .ok (set _ h)
  · exact .bind fun _ _ => .bind fun _ he => .ok (set _ (form_signal _ _ h _ he))
  · refine .bind fun _ _ => ?_
    split
    · exact .ok (set _ h)
    · exact .ok (set _ h)
  · exact .bind fun _ _ => .bind fun _ _ => .ok (set _ h)

theorem form_execGraphNodeRun {s : State} (q n : Nat) (h : StorageForm s) : OutForm (execGraphNodeRun q n s) := by
  unfold execGraphNodeRun
  dsimp only
  split
  · split
    · exact .refused
    · split
      · exact .next (form_ended _ _ h (form_runNode _ _ _ _ _ h))
      · split
        · exact .next (form_queueCause _ _ _ _ h)
        · exact .refused
  · exact .refused

theorem form_execWaitSatisfied {s : State} (q : Nat) (node : Option Nat) (h : StorageForm s) :
    OutForm (execWaitSatisfied q node s) := by
  unfold execWaitSatisfied
  dsimp only
  split
  · exact .refused
  · split
    · exact .refused
    · split
      · split
        · exact .refused
        · split
          · exact .next (form_finishPacket _ _ h)
          · exact .refused
          · exact .next (form_queueCause _ _ _ _ h)
      · split
        · exact .refused
        · split
          · exact .refused
          · split
            · exact .next (form_settleGraph _ _ (form_modQueue _ _ h))
            · exact .refused
            · exact .next (form_queueCause _ _ _ _ h)

/-! ### Postings -/

theorem form_dropLaunch {s : State} (g : Region) (h : StorageForm s) : StorageForm (s.dropLaunch g) := by
  unfold State.dropLaunch
  extract_lets mine s1 s2
  have hs : StorageForm s1 := form_foldl (fun _ _ h => form_dropReqs _ _ (form_leaveReqs _ _ h)) _ h
  exact form_unbind _ _ (form_of_eq hs rfl rfl rfl)

theorem form_tellInterrupted {s : State} (g : Region) (h : StorageForm s) : StorageForm (s.tellInterrupted g) := by
  unfold State.tellInterrupted
  split <;> exact h

theorem form_finishLaunch {s : State} (g : Region) (h : StorageForm s) : StorageForm (s.finishLaunch g) := by
  unfold State.finishLaunch
  dsimp only
  split
  · exact form_finishPacket _ _ h
  · exact form_settleGraph _ _ (form_modQueue _ _ h)

theorem form_launchCauseAt {s : State} (g : Region) (c : Cause) (va : Nat) (h : StorageForm s) :
    StorageForm (s.launchCauseAt g c va) := form_queueCauseN _ _ _ _ _ _ h

theorem form_posted {s : State} (g : Region) (h : StorageForm s) : StorageForm (s.posted g) := by
  have hf := form_finishLaunch g (form_dropLaunch g (form_tellInterrupted g h))
  unfold State.posted
  dsimp only
  split
  · exact form_launchCauseAt _ _ _ (form_modQueue _ _ hf)
  · exact form_modQueue _ _ hf

theorem form_postRefused {s : State} (g : Region) (c : Cause) (va : Nat) (h : StorageForm s) :
    StorageForm (s.postRefused g c va) := by
  have hd := form_dropLaunch g h
  unfold State.postRefused
  dsimp only
  split
  · exact hd
  · split
    · exact form_modQueue _ _ (form_launchCauseAt _ _ _ hd)
    · exact form_launchCauseAt _ _ _ hd

theorem form_execLaunchCompletionPost {s : State} (r : Nat) (h : StorageForm s) :
    OutForm (execLaunchCompletionPost r s) :=
  form_regionEvent fun g => by
    extract_lets part s1 leaving
    have htell : StorageForm s1 := form_ite h (form_tellRange _ _ _ _ _ h)
    split
    · exact .none
    · split
      · next he => exact .some (form_posted _ (form_post htell he))
      · split
        · exact .some (form_launchCauseAt _ _ _ htell)
        · exact .some (form_postRefused _ _ _ htell)

theorem form_refusePostings {s : State} (q va : Nat) (h : StorageForm s) : StorageForm (s.refusePostings q va) := by
  unfold State.refusePostings
  extract_lets hit s1
  have hs : StorageForm s1 := form_foldl (fun _ _ h => form_dropLaunch _ h) _ h
  split <;> exact hs

/-! ### Mailbox writes and pre-emption -/

theorem form_mailSaved {s : State} (g : Region) (n : BitVec 4) (v : Word) (h : StorageForm s) :
    StorageForm (s.mailSaved g n v) := by
  have put (p : Part) (sv : Saved) (l : List Nat) {m : Mem} (hm : m.wf = true) :
      (l.foldl (fun m t => writeLocal 9 m p.groups (savedMail sv t n.toNat) (clean (leBytes 8 v.toNat))) m).wf = true := by
    induction l generalizing m with
    | nil => exact hm
    | cons t l ih => exact ih (writeLocal_wf _ _ _ _ hm)
  unfold State.mailSaved
  dsimp only
  split
  · exact ⟨put _ _ _ h.1, h.2⟩
  · exact h

theorem form_mailTo {s : State} (g : Region) (n : BitVec 4) (v : Word) (h : StorageForm s) :
    StorageForm (s.mailTo g n v) := by
  unfold State.mailTo
  split
  iterate 3
    · exact h
  iterate 2
    · exact form_mailSaved _ _ _ h
  · exact h

theorem form_execMailboxWrite {s : State} (q : Nat) (n : BitVec 4) (v : Word) (h : StorageForm s) :
    OutForm (execMailboxWrite q n v s) := by
  unfold execMailboxWrite
  split
  · exact .next h
  · exact .next (form_foldl (fun _ _ h => form_mailTo _ _ _ h) _ h)

theorem form_requestPreempt {s : State} (r : Nat) (h : StorageForm s) : StorageForm (s.requestPreempt r) := by
  unfold State.requestPreempt
  split
  · exact h
  · split
    · exact h
    · exact form_startSave _ _ h
    · exact h

theorem form_execPreemptAll {s : State} (n : Nat) (h : StorageForm s) : OutForm (execPreemptAll n s) := by
  unfold execPreemptAll
  split
  · exact .next h
  · split
    · exact .next h
    · exact .next (form_foldl (fun _ _ h => form_requestPreempt _ h) _ (form_setPart _ h))

/-! ### Placement -/

theorem form_refill {s : State} (qs : List Nat) (h : StorageForm s) : StorageForm (s.refill qs) :=
  form_foldl (fun _ _ h => form_modQueue _ _ h) _ h

theorem form_makeRoom {s : State} (p : Part) (c : Cand) (h : StorageForm s) : OptForm (s.makeRoom p c) :=
  .bind fun _ _ => by
    dsimp only
    split
    · exact .none
    · exact .some (form_foldl (fun _ _ h => form_requestPreempt _ h) _ h)

theorem form_claim {s : State} (g : Region) (n : Nat) (h : StorageForm s) : StorageForm (s.claim g n) := by
  refine form_foldl (fun s x h => ?_) _ h
  dsimp only
  split
  · exact form_releaseHeld _ _ h
  · exact h

theorem form_stand {s : State} (g : Region) (h : StorageForm s) : StorageForm (s.stand g) :=
  form_of_eq (form_foldl (f := fun s t => s.claim g t) (fun _ _ h => form_claim _ _ h) g.physTiles h) rfl rfl rfl

theorem form_enter {s : State} (x : Pattern) (l : Launch) (o : Role) (pl : Place) (k : Option HandlerOf)
    (h : StorageForm s) : StorageForm (s.enter x l o pl k) :=
  form_of_eq (form_stand (s.newRegion x l o pl k) h) rfl rfl rfl

theorem form_draw {s : State} (p : Part) (q : Nat) (l : Launch) (h : StorageForm s) : StorageForm (s.draw p q l).1 := h

theorem form_enterLaunch {s : State} (p : Part) (c : Cand) (node : Option Nat) (mail : Launch → Launch)
    (k : Option HandlerOf) (pl : Place) (p2 : Option Place) (h : StorageForm s) :
    StorageForm (s.enterLaunch p c node mail k pl p2) := by
  have hd := form_draw p c.queue (mail (launchOf p c.queue node c.level c.pkt)) h
  unfold State.enterLaunch
  dsimp only
  split
  · exact form_enter _ _ _ _ _ hd
  · exact form_enter _ _ _ _ _ (form_enter _ _ _ _ _ hd)

theorem form_placeCand {s : State} (p : Part) (c : Cand) (pl : Place) (p2 : Option Place) (h : StorageForm s) :
    OptForm (s.placeCand p c pl p2) := by
  unfold State.placeCand
  split
  · exact .none
  · exact .some (form_modQueue _ _ (form_enterLaunch _ _ _ _ _ _ _ h))
  · exact .some (form_enterLaunch _ _ _ _ _ _ _ h)
  · refine .bind fun _ _ => ?_
    split
    · exact .some (form_modQueue _ _ (form_enterLaunch _ _ _ _ _ _ _ h))
    · exact .none
  · exact .map fun _ _ => form_enter _ _ _ _ _ h
  · exact .map fun _ _ => form_enter _ _ _ _ _ h

theorem form_resume {s : State} (g : Region) (pl : Place) (h : StorageForm s) : StorageForm (s.resume g pl) := by
  unfold State.resume
  split
  · have hs := form_stand { g with place := pl } h
    dsimp only
    split
    · exact hs
    · exact form_takeCause _ _ (form_setRegion _ hs)
  · exact h

theorem form_serve {s : State} (n level q : Nat) (h : StorageForm s) : StorageForm (s.serve n level q) := h

theorem form_offer {s : State} (p : Part) (mine : Cand → Bool) (pl : Place) (p2 : Option Place)
    {put : State → Cand → Option State} (hput : ∀ s c, StorageForm s → OptForm (put s c)) (h : StorageForm s) :
    OptForm (s.offer p mine pl p2 put) := by
  have hr (qs : List Nat) := form_refill qs h
  refine .bind fun c _ => ?_
  dsimp only
  split
  · exact .none
  · split
    · exact .map fun _ he => form_serve _ _ _ (hput _ _ (hr _) _ he)
    · split
      · exact form_makeRoom _ _ (hr _)
      · exact .none

theorem form_execLaunchPlacement {s : State} (c : CandRef) (pl : Place) (p2 : Option Place) (h : StorageForm s) :
    OutForm (execLaunchPlacement c pl p2 s) := by
  unfold execLaunchPlacement
  dsimp only
  split
  · next he =>
    obtain ⟨x, -, hx⟩ := List.exists_of_findSome?_eq_some he
    exact .next (form_offer _ _ _ _ (fun _ _ h => .bind fun _ _ => form_placeCand _ _ _ _ h) h _ hx)
  · exact .refused

theorem form_execResumption {s : State} (r : Nat) (pl : Place) (h : StorageForm s) :
    OutForm (execResumption r pl s) := by
  have hr : OptForm ((s.region? r).bind fun g => (s.part? g.launch.part).bind fun x =>
      s.offer x (fun x => x.ref.isNone && x.rid = r) pl none fun s _ => some (s.resume g pl)) :=
    .bind fun _ _ => .bind fun _ _ => form_offer _ _ _ _ (fun _ _ h => .some (form_resume _ _ h)) h
  unfold execResumption
  dsimp only
  split
  · next he => exact .next (hr _ he)
  · exact .refused

theorem form_execBankClearDone {s : State} (x y : Nat) (h : StorageForm s) : OutForm (execBankClearDone x y s) := by
  unfold execBankClearDone
  split
  · exact .next h
  · exact .refused

/-! ### Dual runs and handlers -/

theorem form_dualFails {s : State} (g : Region) (c : Cause) (h : StorageForm s) : StorageForm (s.dualFails g c) := h

theorem form_execDualRunVerdict {s : State} (r : Nat) (h : StorageForm s) : OutForm (execDualRunVerdict r s) :=
  form_regionEvent fun g => .bind fun _ _ => by
    split
    · exact .none
    · split
      · exact .some h
      · have hn := form_notice g.launch.part { code := 0x384, kind := 4, ordinal := g.launch.ordinal.toNat } h
        dsimp only
        split <;> exact .some hn

theorem form_vote {s : State} (qs : List Nat) (h : StorageForm s) : StorageForm (s.vote qs) :=
  form_foldl (fun _ _ h => form_suspect _ _ h) _ h

theorem form_majority {s : State} (g x k : Region) (h : StorageForm s) : StorageForm (s.majority g x k) := by
  unfold State.majority
  dsimp only
  split
  · exact form_dualFails _ _ h
  · split
    · exact form_vote _ (form_setRegion _ h)
    · split
      · have hv := form_vote (g.losing x) h
        split
        · exact form_dualFails _ _ hv
        · split
          · exact form_dualFails _ _ hv
          · exact hv
      · exact form_dualFails _ _ h

theorem form_execMajorityDecision {s : State} (r : Nat) (h : StorageForm s) : OutForm (execMajorityDecision r s) :=
  form_regionEvent fun _ => by
    split
    · exact .none
    · split
      · split
        · split
          · exact .some (form_majority _ _ _ h)
          · exact .none
        · split
          · exact .none
          · exact .some (form_dualFails _ _ h)
        · exact .none
      · split
        · split
          · exact .none
          · split
            · exact .some h
            · exact .some (form_dualFails _ _ h)
        · split
          · exact .none
          · exact .some (form_dualFails _ _ h)
      · exact .none

theorem form_execHandlerDisposition {s : State} (r : Nat) (h : StorageForm s) : OutForm (execHandlerDisposition r s) :=
  form_regionEvent fun _ => by
    split
    · split
      · exact .some h
      · exact .some (form_endRegion _ _ (form_ite (form_recordCause _ _ _ _ _ h) h))
    · exact .none

/-! ### Lent quads -/

theorem form_execQuadLend {s : State} (q n : Nat) (h : StorageForm s) : OutForm (execQuadLend q n s) := by
  unfold execQuadLend
  dsimp only
  split
  · split
    · exact .refused
    · exact .next h
  · exact .refused

theorem form_returnLent {s : State} (h : StorageForm s) : StorageForm s.returnLent := h

theorem form_evict {s : State} (r : Nat) (h : StorageForm s) : StorageForm (s.evict r) :=
  form_requestPreempt _ (form_modRegion _ _ h)

theorem form_execQuadReclaim {s : State} (q : Nat) (h : StorageForm s) : OutForm (execQuadReclaim q s) := by
  unfold execQuadReclaim
  split
  · exact .refused
  · refine .next (form_returnLent (form_emptyQuad _ (form_foldl (fun _ _ h => form_evict _ h) _ ?_)))
    exact h

theorem form_execReclaimTimeout {s : State} (r : Nat) (h : StorageForm s) : OutForm (execReclaimTimeout r s) :=
  form_regionEvent fun _ => by
    split
    · split
      · exact .none
      · exact .some (form_modRegion _ _ (form_startSave _ _ (form_frog _ _ h)))
    · exact .none

end Sys2Proof.Machine
end

section
/-! SUPPORT. The host, peers, hardware errors and the management plane keep the form. -/

namespace Sys2Proof.Machine

/-! ### Page answers and global replay -/

theorem form_retryRegion {s : State} (r : Nat) (h : StorageForm s) : StorageForm (s.retryRegion r) := h

theorem form_retryCmd {s : State} (r id : Nat) (h : StorageForm s) : StorageForm (s.retryCmd r id) := h

theorem form_retryQueue {s : State} (q : Nat) (h : StorageForm s) : StorageForm (s.retryQueue q) :=
  form_ite (form_restartQueue _ h) h

theorem form_retry {s : State} (a : Asker) (h : StorageForm s) : StorageForm (s.retry a) := by
  cases a with
  | region r => exact form_retryRegion _ h
  | cmd r id => exact form_retryCmd _ _ h
  | queue q => exact form_retryQueue _ h

theorem form_closeReq {s : State} (p : Part) (i : Nat) (h : StorageForm s) : StorageForm (s.closeReq p i) :=
  form_flushReqs _ (form_setPart _ h)

theorem form_refuseRegion {s : State} (r : Nat) (h : StorageForm s) : StorageForm (s.refuseRegion r) := by
  unfold State.refuseRegion
  split
  · exact h
  · dsimp only
    split
    · exact form_byTable _ _ h
    · exact h

theorem form_refuseCmd {s : State} (r id : Nat) (h : StorageForm s) : StorageForm (s.refuseCmd r id) := by
  unfold State.refuseCmd
  split
  · exact h
  · split
    · split
      · exact form_ctxCause _ _ _ _ h
      · exact h
    · exact h

theorem form_refuseQueue {s : State} (n q va : Nat) (h : StorageForm s) : StorageForm (s.refuseQueue n q va) :=
  form_ite (form_refusePostings _ _ (form_queueCause _ _ _ _ h)) h

theorem form_refuse {s : State} (n va : Nat) (a : Asker) (h : StorageForm s) : StorageForm (State.refuse n va s a) := by
  cases a with
  | region r => exact form_refuseRegion _ h
  | cmd r id => exact form_refuseCmd _ _ h
  | queue q => exact form_refuseQueue _ _ _ h

theorem form_retryAll {s : State} (p : Part) (i : Nat) (l : List Asker) (h : StorageForm s) :
    StorageForm (l.foldl State.retry (s.closeReq p i)) :=
  form_foldl (fun _ _ h => form_retry _ h) _ (form_closeReq _ _ h)

theorem form_refuseAll {s : State} (p : Part) (i n va : Nat) (l : List Asker) (h : StorageForm s) :
    StorageForm (l.foldl (State.refuse n va) (s.closeReq p i)) :=
  form_foldl (fun _ _ h => form_refuse _ _ _ h) _ (form_closeReq _ _ h)

theorem form_execPageAnswerSuccess {s : State} (n i : Nat) (gen : BitVec 32) (h : StorageForm s) :
    OutForm (execPageAnswerSuccess n i gen s) := by
  unfold execPageAnswerSuccess
  split
  · exact .next h
  · exact .next (form_retryAll _ _ _ h)

theorem form_execPageAnswerRefused {s : State} (n i : Nat) (gen : BitVec 32) (h : StorageForm s) :
    OutForm (execPageAnswerRefused n i gen s) := by
  unfold execPageAnswerRefused
  split
  · exact .next h
  · exact .next (form_refuseAll _ _ _ _ _ h)

theorem form_replayAll {s : State} (p : Part) (h : StorageForm s) : StorageForm (s.replayAll p) := by
  unfold State.replayAll
  dsimp only
  refine form_foldl (fun _ _ h => form_ite (form_restartQueue _ h) h) _
    (form_foldl (fun _ _ h => ?_) _ (form_setPart _ h))
  exact form_retryRegion _ (form_foldl (fun _ _ h => form_retryCmd _ _ h) _ h)

theorem form_execGlobalReplay {s : State} (n : Nat) (h : StorageForm s) : OutForm (execGlobalReplay n s) := by
  unfold execGlobalReplay
  split
  · exact .next h
  · exact .next (form_replayAll _ h)

/-! ### Invalidation -/

theorem form_invalidate {s : State} (p : Part) (hit : Page → Bool) (h : StorageForm s) :
    StorageForm (s.invalidate p hit) := h

theorem form_execInvalidateAddress {s : State} (n : Nat) (v : Word) (h : StorageForm s) :
    OutForm (execInvalidateAddress n v s) := by
  unfold execInvalidateAddress
  split
  · exact .next h
  · exact .next (form_invalidate _ _ h)

theorem form_execInvalidateAll {s : State} (n : Nat) (h : StorageForm s) : OutForm (execInvalidateAll n s) := by
  unfold execInvalidateAll
  split
  · exact .next h
  · exact .next (form_invalidate _ _ h)

theorem form_execInvalidationComplete {s : State} (n : Nat) (h : StorageForm s) :
    OutForm (execInvalidationComplete n s) := by
  unfold execInvalidationComplete
  split
  · exact .refused
  · split
    · exact .refused
    · exact .next h

/-! ### Registers -/

theorem form_writeQueueReg {s : State} (p : Part) (i sub : Nat) (v : Word) (h : StorageForm s) :
    StorageForm (s.writeQueueReg p i sub v) := by
  unfold State.writeQueueReg
  split
  · exact h
  · split
    · exact h
    · exact form_ite (form_restartQueue _ (form_modQueue _ _ h)) (form_modQueue _ _ h)
    · exact form_ite h (form_ite (form_modQueue _ _ h) (form_queueCause _ _ _ _ h))
    · exact h

theorem form_writeMail {s : State} (p : Part) (i n : Nat) (v : Word) (h : StorageForm s) :
    StorageForm (s.writeMail p i n v) := by
  unfold State.writeMail
  split
  · exact h
  · exact form_foldl (fun _ _ h => form_mailTo _ _ _ h) _ h

theorem form_writePcCtl {s : State} (p : Part) (v : Word) (h : StorageForm s) : StorageForm (s.writePcCtl p v) :=
  form_ite (form_foldl (fun _ _ h => form_requestPreempt _ h) _ (form_setPart _ h)) (form_setPart _ h)

theorem form_writePrsp {s : State} (n : Nat) (v : Word) (h : StorageForm s) : StorageForm (s.writePrsp n v) := by
  unfold State.writePrsp
  dsimp only
  split
  · exact form_retryAll _ _ _ h
  · exact form_refuseAll _ _ _ _ _ h
  · exact h

theorem form_writeInval {s : State} (p : Part) (v : Word) (h : StorageForm s) : StorageForm (s.writeInval p v) :=
  form_invalidate _ _ h

theorem form_writeVf0 {s : State} (p : Part) (off : Nat) (v : Word) (h : StorageForm s) :
    StorageForm (s.writeVf0 p off v) := by
  unfold State.writeVf0
  refine form_ite (form_ite h (form_writeQueueReg _ _ _ _ h)) (form_ite (form_ite h (form_writeMail _ _ _ _ h)) ?_)
  split
  · exact form_writePcCtl _ _ h
  · exact h
  · exact form_flushReqs _ (form_setPart _ h)
  · exact form_writePrsp _ _ h
  · exact form_writeInval _ _ h
  · exact form_ite (form_replayAll _ h) h
  · exact h

theorem form_modErr {s : State} (fn : Nat) (f : ErrRegs → ErrRegs) (h : StorageForm s) :
    StorageForm (s.modErr fn f) := by
  unfold State.modErr
  split
  · exact h
  · split <;> exact h

/-! ### Host and peer accesses -/

theorem form_writeHbm {s : State} (p : Part) (a : Nat) (ps : List PByte) (f : Nat) (h : StorageForm s) :
    StorageForm { s with hbm := writeLocal f s.hbm p.groups a ps } := ⟨writeLocal_wf _ _ _ _ h.1, h.2⟩

theorem form_execHostMemAccess {s : State} (n a : Nat) (op : HostOp) (h : StorageForm s) :
    OutForm (execHostMemAccess n a op s) := by
  cases op with
  | read k => exact .next (form_ite h h)
  | write bs bad =>
    unfold execHostMemAccess
    dsimp only
    split
    · exact .next h
    · split
      · exact .next (form_writeHbm _ _ _ _ h)
      · exact .next h

theorem form_execPeerRequest {s : State} (d : BitVec 20) (tenant : BitVec 16) (a : Nat) (op : PeerOp)
    (h : StorageForm s) : OutForm (execPeerRequest d tenant a op s) := by
  unfold execPeerRequest
  split
  · exact .next h
  · split
    · exact .next h
    · split
      · exact .next h
      · split
        · exact .next h
        · exact .next (form_writeHbm _ _ _ _ h)
        · exact .next (form_atomic _ _ _ _ _ _ _ _ h)

theorem form_tellDropped {s : State} (d : BitVec 20) (h : StorageForm s) : StorageForm (s.tellDropped d) := by
  unfold State.tellDropped
  extract_lets s1
  have hs : StorageForm s1 := by
    refine form_foldl (fun s p h => ?_) _ h
    split
    · exact form_ite (form_tellOne _ _ _ _ _ h) h
    · exact h
  exact hs

theorem form_execPeerUnresponsive {s : State} (d : BitVec 20) (h : StorageForm s) :
    OutForm (execPeerUnresponsive d s) :=
  .next (form_ite h (form_tellDropped _ h))

/-! ### Hardware errors -/

theorem form_takeRaised {s : State} (r : Nat) (h : StorageForm s) : StorageForm (s.takeRaised r) := by
  unfold State.takeRaised
  split
  · exact form_takeCause _ _ h
  · exact h

theorem form_execFreezeBudgetExpiry {s : State} (r : Nat) (h : StorageForm s) : OutForm (execFreezeBudgetExpiry r s) :=
  form_regionEvent fun _ => by
    split
    · exact .none
    · exact .some (form_ite (form_takeRaised _ (form_setRegion _ h)) (form_setRegion _ h))

theorem form_poison {s : State} (k : Nat) (h : StorageForm s) : StorageForm { s with hbm := s.hbm.poison k } :=
  ⟨poison_wf _ h.1, h.2⟩

theorem form_execPatrolScrub {s : State} (k : Nat) (f : ScrubFind) (h : StorageForm s) :
    OutForm (execPatrolScrub k f s) := by
  unfold execPatrolScrub
  split
  · exact .fault
  · dsimp only
    split
    · exact .next h
    · exact .next (form_corrected _ _ h)
    · refine .next ?_
      split
      · exact form_notice _ _ (form_poison _ h)
      · exact form_recordPf _ _ (form_poison _ h)

theorem form_execControlStateLost {s : State} (r t : Nat) (h : StorageForm s) : OutForm (execControlStateLost r t s) :=
  form_regionEvent fun _ => by
    dsimp only
    split
    · split
      · exact .some (form_takeCause _ _ h)
      · exact .some h
    · exact .some (form_takeCause _ _ h)
    · exact .some (form_takeCause _ _ h)
    · exact .none

theorem form_strike {s : State} (k : Strike) (h : StorageForm s) : StorageForm (s.strike k) := by
  unfold State.strike
  split
  · exact form_poison _ h
  · exact h
  · exact h
  · exact form_corrected _ _ h
  · split
    · exact h
    · split
      · exact h
      · dsimp only
        split
        · exact form_suspect _ _ (form_modRegion _ _ h)
        · exact h

theorem form_execPelaroPortDown {s : State} (port : BitVec 5) (retrains : Bool) (h : StorageForm s) :
    OutForm (execPelaroPortDown port retrains s) :=
  .next (form_ite (form_corrected _ _ h) h)

theorem form_writeDev {s : State} (d : Dev) (a : Nat) (ps : List PByte) (h : StorageForm s) :
    StorageForm { s with dev := d, hbm := s.hbm.write hbmGran a ps } :=
  ⟨write_wf _ _ _ h.1, h.2⟩

theorem form_execHostLinkDown {s : State} (c : FatalCase) (die : BitVec 2) (h : StorageForm s) :
    OutForm (execHostLinkDown c die s) := by
  unfold execHostLinkDown
  split
  · exact .next (form_ite (form_writeDev _ _ _ h) h)
  · exact .next (form_writeDev _ _ _ h)

/-! ### Device reset -/

theorem form_swatchFail {s : State} (l : List Nat) (q : Nat) (h : StorageForm s) : StorageForm (s.swatchFail l q) :=
  form_foldl (f := fun s _ => s.suspect q 8) (fun _ _ h => form_suspect _ _ h) _ h

theorem form_swatchPass {s : State} (b : Bool) (q : Nat) (h : StorageForm s) : StorageForm (s.swatchPass b q) := h

theorem form_swatch {s : State} (b : Bool) (runs : List SwatchRun) (quads : List Nat) (h : StorageForm s) :
    StorageForm (s.swatch b runs quads) :=
  form_foldl (fun _ _ h => form_ite (form_swatchPass _ _ h) (form_swatchFail _ _ h)) _ h

theorem form_renewRequest {s : State} (h : StorageForm s) : StorageForm s.renewRequest :=
  form_checkShort (s := { s with dev := { s.dev with replace := s.dev.replace && s.dev.short } }) h

theorem form_boot {s : State} (b : BootRec) (h : StorageForm s) : StorageForm (s.boot b) := by
  unfold State.boot
  extract_lets f v1 s1 v2 d1 s2 ps v3 d2 s3 s4 v4
  have h2 : StorageForm s2 := ⟨keepDump_wf _ h.1, h.2⟩
  have h4 : StorageForm s4 := form_swatch _ _ _ h2
  exact form_ite h (form_ite h (form_ite (form_renewRequest h2) (form_renewRequest h4)))

theorem form_execDeviceReset {s : State} (b : BootRec) (h : StorageForm s) : OutForm (execDeviceReset b s) :=
  .next (form_boot (s := s.inReset b) _ h)

/-! ### Quotes and turnovers -/

theorem form_quotesDue {s : State} (h : StorageForm s) : StorageForm s.quotesDue :=
  form_foldl (f := State.quoteNow) (fun _ _ h => h) _ h

theorem form_execQuoteRequest {s : State} (n : BitVec 256) (h : StorageForm s) : OutForm (execQuoteRequest n s) := by
  unfold execQuoteRequest
  split
  · exact .next (form_ite h h)
  · exact .next (form_ite h h)
  · exact .next h

theorem form_killTurned {s : State} (r : Nat) (h : StorageForm s) : StorageForm (s.killTurned r) := by
  unfold State.killTurned
  split
  · exact h
  · split
    · exact h
    · exact form_ite h (form_kill _ _ h)
    · exact form_kill _ _ (form_frog _ _ h)
    · exact form_kill _ _ h

theorem form_vacate {s : State} (p : Part) (h : StorageForm s) : StorageForm (s.vacate p) := by
  unfold State.vacate
  dsimp only
  exact form_modPart _ _ (form_foldl (fun _ _ h => form_killTurned _ h) _
    (form_foldl (fun _ _ h => form_modQueue _ _ h) _ h))

theorem form_recall {s : State} (h : StorageForm s) : StorageForm s.recall :=
  form_returnLent (form_foldl (fun _ _ h => form_emptyQuad _ h) _ (form_foldl (fun _ _ h => form_evict _ h) _ h))

theorem form_scrub {s : State} (p : Part) (h : StorageForm s) : StorageForm (s.scrub p) := by
  unfold State.scrub
  extract_lets p0 p' s1
  have hs : StorageForm s1 := form_foldl (fun _ _ h => form_modQueue _ _ h) _ h
  exact ⟨wipe_wf _ hs.1, hs.2⟩

theorem form_readmit {s : State} (t : TurnRec) (p : Part) (h : StorageForm s) : StorageForm (s.readmit t p) :=
  form_modPart _ _ (form_swatch _ _ _ h)

theorem form_reattest {s : State} (t : TurnRec) (ps : List Part) (h : StorageForm s) :
    StorageForm (s.reattest t ps) := by
  unfold State.reattest
  exact form_ite (form_foldl (fun _ _ h => form_readmit _ _ h) _ (form_quotesDue h))
    (form_quotesDue (form_recordPf _ _ (form_foldl (fun _ _ h => form_modPart _ _ h) _ h)))

theorem form_finishTurn {s : State} (h : StorageForm s) : StorageForm s.finishTurn := by
  unfold State.finishTurn
  split
  · exact h
  · exact form_ite (form_reattest _ _ (form_foldl (fun _ _ h => form_scrub _ h) _ h)) h

theorem form_startTurn {s : State} (o : Option TurnRec) (h : StorageForm s) : StorageForm (s.startTurn o) := by
  have hr : StorageForm (s.turned.foldl State.vacate s).recall :=
    form_recall (form_foldl (fun _ _ h => form_vacate _ h) _ h)
  exact form_finishTurn hr

theorem form_execTurnoverStart {s : State} (t : TurnRec) (h : StorageForm s) : OutForm (execTurnoverStart t s) := by
  unfold execTurnoverStart
  split
  · exact .next h
  · split
    · exact .next (form_startTurn _ h)
    · exact .next (form_finishTurn h)
    · exact .next h

theorem form_writePf0 {s : State} (off : Nat) (v : Word) (h : StorageForm s) : StorageForm (s.writePf0 off v) := by
  unfold State.writePf0
  split
  · exact h
  · exact form_ite h h
  · exact form_ite (form_startTurn _ h) h
  · exact h

theorem form_execRegisterWrite {s : State} (fn bar off : Nat) (v : Word) (h : StorageForm s) :
    OutForm (execRegisterWrite fn bar off v s) := by
  unfold execRegisterWrite
  split
  · split
    · exact .next h
    · split
      · exact .next (form_writePf0 _ _ h)
      · split
        · exact .next (form_modErr _ _ h)
        · exact .next h
  · split
    · exact .next h
    · split
      · exact .next (form_writeVf0 _ _ _ h)
      · split
        · exact .next (form_ite h h)
        · exact .next h

/-! ### The clock and gating -/

theorem form_execClockCapWrite {s : State} (v : Word) (h : StorageForm s) : OutForm (execClockCapWrite v s) := by
  unfold execClockCapWrite
  split <;> exact .next h

theorem form_execClockStepChange {s : State} (o : StepChange) (h : StorageForm s) :
    OutForm (execClockStepChange o s) := by
  unfold execClockStepChange
  split
  · exact .refused
  · exact .next h

theorem form_execQuadPowerGate {s : State} (q : Nat) (h : StorageForm s) : OutForm (execQuadPowerGate q s) := by
  unfold execQuadPowerGate
  split
  · exact .next h
  · exact .refused

theorem form_execQuadWakeDone {s : State} (q : Nat) (h : StorageForm s) : OutForm (execQuadWakeDone q s) := by
  unfold execQuadWakeDone
  split
  · exact .next h
  · exact .refused

end Sys2Proof.Machine
end

section
/-! SUPPORT. Every row keeps the form, and so does every part of a tile clock cycle: the step. -/

namespace Sys2Proof.Machine

/-! ### The rows -/

/-- A row of a bundle issues on its region; every other row is an event that keeps the form. -/
theorem form_exec {s : State} (i : Instr) (h : StorageForm s) : OutForm (exec i s) := by
  cases i with
  | idleBundle r b => exact form_execIdleBundle r b h
  | resultLanding r => exact form_execResultLanding r h
  | storePerform r => exact form_execStorePerform r h
  | remoteLoadSample r => exact form_execRemoteLoadSample r h
  | gldDataArrival r id => exact form_execGldDataArrival r id h
  | xlateWalkComplete r id => exact form_execXlateWalkComplete r id h
  | atomrResultArrival r id => exact form_execAtomrResultArrival r id h
  | homeAtomicApply r id => exact form_execHomeAtomicApply r id h
  | globalStorePerformed r id => exact form_execGlobalStorePerformed r id h
  | itemRefusal r o => exact form_execItemRefusal r o h
  | commit r => exact form_execCommit r h
  | finalCommit r => exact form_execFinalCommit r h
  | launchCompletionPost r => exact form_execLaunchCompletionPost r h
  | barArrivalEffect r => exact form_execBarArrivalEffect r h
  | barrierPhaseComplete r => exact form_execBarrierPhaseComplete r h
  | tlincEffect r => exact form_execTlincEffect r h
  | mailboxApply r => exact form_execMailboxApply r h
  | matrixCommandStart r t => exact form_execMatrixCommandStart r t h
  | matrixCommandComplete r t => exact form_execMatrixCommandComplete r t h
  | copyCommandCounted r id => exact form_execCopyCommandCounted r id h
  | collectiveCounted r id others => exact form_execCollectiveCounted r id others h
  | colQAnswer r id granted => exact form_execColQAnswer r id granted h
  | tableLoadCounted r id => exact form_execTableLoadCounted r id h
  | schedulerFunctionApplied r id => exact form_execSchedulerFunctionApplied r id h
  | engineContextCause r o => exact form_execEngineContextCause r o h
  | deadlineFault r => exact form_execDeadlineFault r h
  | freezeBudgetExpiry r => exact form_execFreezeBudgetExpiry r h
  | handlerDisposition r => exact form_execHandlerDisposition r h
  | queueDoorbell q w => exact form_execQueueDoorbell q w h
  | queueEnable q v => exact form_execQueueEnable q v h
  | queueRestart q => exact form_execQueueRestart q h
  | pad q => exact form_execPad q h
  | launch q => exact form_execLaunch q h
  | wait q => exact form_execWait q h
  | waitSatisfied q n => exact form_execWaitSatisfied q n h
  | signalTimeline q => exact form_signalEvent _ _ q h
  | signalStore q => exact form_signalEvent _ _ q h
  | signalAdd q => exact form_signalEvent _ _ q h
  | signalPost q => exact form_signalEvent _ _ q h
  | graph q => exact form_execGraph q h
  | graphNodeRun q n => exact form_execGraphNodeRun q n h
  | load q => exact form_execLoad q h
  | unload q => exact form_execUnload q h
  | launchPlacement c p p2 => exact form_execLaunchPlacement c p p2 h
  | resumption r p => exact form_execResumption r p h
  | bankClearDone x y => exact form_execBankClearDone x y h
  | dualRunVerdict r => exact form_execDualRunVerdict r h
  | majorityDecision r => exact form_execMajorityDecision r h
  | mailboxWrite q n v => exact form_execMailboxWrite q n v h
  | preemptAll n => exact form_execPreemptAll n h
  | pageAnswerSuccess n i gen => exact form_execPageAnswerSuccess n i gen h
  | pageAnswerRefused n i gen => exact form_execPageAnswerRefused n i gen h
  | invalidateAddress n v => exact form_execInvalidateAddress n v h
  | invalidateAll n => exact form_execInvalidateAll n h
  | invalidationComplete n => exact form_execInvalidationComplete n h
  | globalReplay n => exact form_execGlobalReplay n h
  | registerWrite fn bar off v => exact form_execRegisterWrite fn bar off v h
  | quadLend q n => exact form_execQuadLend q n h
  | quadReclaim q => exact form_execQuadReclaim q h
  | reclaimTimeout r => exact form_execReclaimTimeout r h
  | peerRequest d tenant a op => exact form_execPeerRequest d tenant a op h
  | hostMemAccess n a op => exact form_execHostMemAccess n a op h
  | pelaroRequestResend r id => exact form_execPelaroRequestResend r id h
  | peerUnresponsive d => exact form_execPeerUnresponsive d h
  | synthesisedReply r id => exact form_execSynthesisedReply r id h
  | pelaroPortDown port b => exact form_execPelaroPortDown port b h
  | hostLinkDown c die => exact form_execHostLinkDown c die h
  | patrolScrub k f => exact form_execPatrolScrub k f h
  | deviceReset b => exact form_execDeviceReset b h
  | quoteRequest n => exact form_execQuoteRequest n h
  | turnoverStart t => exact form_execTurnoverStart t h
  | clockCapWrite v => exact form_execClockCapWrite v h
  | clockStepChange o => exact form_execClockStepChange o h
  | quadPowerGate q => exact form_execQuadPowerGate q h
  | quadWakeDone q => exact form_execQuadWakeDone q h
  | errorOverflowClear fn => exact .next (form_modErr fn _ h)
  | errorCounterClear fn c => exact .next (form_modErr fn _ h)
  | aerStatusClear fn b v => exact .next (form_modErr fn _ h)
  | deviceReadmission d n => exact .next h
  | hostCompletionTimeout r o => exact form_execHostCompletionTimeout r o h
  | controlStateLost r t => exact form_execControlStateLost r t h
  | _ => exact form_issueOp h

/-! ### The issue of a stream -/

theorem form_runOps (cu : Cursor) (n : Nat) {s0 : State} (h0 : StorageForm s0)
    (ops : List (Nat × Instr × Option Sticky)) {s : State} {stop : Option State} (h : StorageForm s) (hs : OptForm stop) :
    OutForm (runOps cu n s0 ops s stop) := by
  induction ops generalizing s stop with
  | nil =>
    cases stop with
    | none => exact .next h
    | some t => exact .next (hs _ rfl)
  | cons x ops ih =>
    obtain ⟨slot, i, ag⟩ := x
    unfold runOps
    dsimp only
    split
    · next s' he =>
      have h' : StorageForm s' := form_exec i (s := { s with cur := some { cu with slot := slot, again := ag } }) h _ he
      split
      · exact form_exec _ h0
      · split
        · refine ih h (.some ?_)
          cases stop with
          | none => exact h'
          | some t => exact hs _ rfl
        · exact ih h' hs
    · next hn => exact fun t ht => absurd ht (hn t)

theorem form_rejected {s0 : State} (g : Region) (s : State) (h : StorageForm s0) : StorageForm (rejected g s0 s) := by
  unfold rejected
  split <;> exact h

theorem form_trace {s' : State} (s : State) (g : Region) (t pc : Nat) (bu : Bundle) (h : StorageForm s') :
    StorageForm (s'.trace s g t pc bu) := by
  unfold State.trace
  split <;> exact h

theorem form_issueBundle {s : State} (g : Region) (t : Nat) (b : Bool) (pc : Nat) (bu : Bundle) (h : StorageForm s) :
    OutForm (issueBundle s g t b pc bu) := by
  unfold issueBundle
  extract_lets cu g1 s1
  have hr := form_runOps cu g.raised.length h ((g1.str t b).acting bu ++ idleOf bu) (s := s1) h .none
  split
  · next s2 he =>
    have h2 : StorageForm s2 := hr _ he
    extract_lets s3
    split
    · exact .next h2
    · split
      · exact .next (form_rejected _ _ h)
      · exact .next (form_ite (form_modRegion _ _ h2) (form_trace _ _ _ _ _ (form_modRegion _ _ h2)))
  · next hn => exact fun t ht => absurd ht (hn t)

theorem form_twinIssue {s : State} (r : Nat) (k : TwinRec) (h : StorageForm s) : StorageForm (s.twinIssue r k) := by
  unfold State.twinIssue
  split
  · exact h
  · dsimp only
    split
    · split <;> exact h
    · exact h

theorem form_twinIssues {s : State} (r due : Nat) (h : StorageForm s) : StorageForm (s.twinIssues r due) :=
  form_foldl (f := fun s k => s.twinIssue r k) (fun _ _ h => form_twinIssue _ _ h) _ h

theorem form_issueStream {s : State} (r t : Nat) (b : Bool) (h : StorageForm s) : OutForm (issueStream s r t b) := by
  unfold issueStream
  split
  · exact .next h
  · split
    · exact .next h
    · split
      · exact form_issueBundle _ _ _ _ _ h
      · exact .next h
      · exact .next h

/-! ### Between two cycles -/

theorem form_choose {s : State} (h : StorageForm s) : StorageForm s.choose.2 := by
  unfold State.choose
  dsimp only
  split
  · exact h
  · split <;> exact h

theorem form_goOn {s : State} (r : Nat) (h : StorageForm s) : StorageForm (s.goOn r) := h

theorem form_convert {s : State} (h : StorageForm s) : StorageForm s.convert := by
  unfold State.convert
  exact form_foldl (fun _ _ h => form_startSave _ _ h) _ h

theorem form_preemptDone {s : State} (h : StorageForm s) : StorageForm s.preemptDone := h

theorem form_drain {s : State} (h : StorageForm s) : StorageForm s.drain := h

theorem form_tick {s : State} (h : StorageForm s) : StorageForm s.tick :=
  form_ite (form_drain (form_finishTurn (form_returnLent (form_preemptDone (form_convert h))))) h

theorem form_settleOut {s : State} {o : Out} (h : StorageForm s) (ho : OutForm o) : OutForm (settleOut s o) := by
  unfold settleOut
  split
  · exact .next h
  · exact ho

theorem form_idleStep {s : State} (h : StorageForm s) : OutForm (idleStep s) := by
  unfold idleStep
  have hc := form_choose h
  generalize s.choose = w at hc
  obtain ⟨p, t⟩ := w
  dsimp only at hc ⊢
  split
  · exact .next (form_tick hc)
  · split
    · exact .next hc
    · split
      · exact form_settleOut hc (form_exec _ hc)
      · exact .next hc
  · split
    · exact .next hc
    · exact .next (form_strike _ hc)
  · exact form_settleOut hc (form_exec _ hc)
  · exact .next (form_piece _ _ _ hc)

/-! ### A region's part of a cycle -/

theorem form_twinComplete {s : State} (g : Region) (h : StorageForm s) : StorageForm (s.twinComplete g) :=
  form_foldl (fun _ _ h => form_twinIssues _ _ (form_modRegion _ _ h)) _ h

theorem form_closeSc {s : State} (g : Region) (h : StorageForm s) : StorageForm (s.closeSc g) := by
  unfold State.closeSc
  extract_lets s1
  have hs : StorageForm s1 := form_modRegion _ _ (form_ite h (form_twinIssues _ _ h))
  exact form_ite (form_twinComplete _ hs) hs

theorem form_parkOn {s : State} (g : Region) (c : Raise) (h : StorageForm s) : StorageForm (s.parkOn g c) := by
  unfold State.parkOn
  exact form_act _ _ _ _ (form_frog _ _ (form_ite (form_pageRequest _ _ _ _ _ _ _ _ h) h))

theorem form_frozenCycle {s : State} (g : Region) (h : StorageForm s) : OutForm (s.frozenCycle g) := by
  unfold State.frozenCycle
  split
  · exact form_exec _ h
  · exact .next (form_goOn _ (form_setRegion _ h))

theorem form_enterSc {s : State} (g : Region) (h : StorageForm s) : OutForm (s.enterSc g) := by
  unfold State.enterSc
  dsimp only
  split
  · refine .next (form_goOn _ ?_)
    split
    · exact form_takeCause _ _ h
    · exact h
  · split
    · exact .next (form_goOn _ (form_parkOn _ _ h))
    · exact form_frozenCycle _ h
    · split
      · exact .next (form_goOn _ (form_takeCause _ _ h))
      · split
        · exact form_exec _ (form_setRegion _ h)
        · exact .next h

theorem form_landStep {s : State} (r : Nat) (h : StorageForm s) : OutForm (landStep r s) := by
  unfold landStep
  split
  · exact .next (form_goOn _ h)
  · split
    · exact .next (form_goOn _ h)
    · split
      · exact form_exec _ h
      · split
        · split
          · exact .next (form_goOn _ (form_takeCause _ _ h))
          · exact form_frozenCycle _ h
        · split
          · exact .next h
          · split
            · exact .next (form_goOn _ h)
            · split
              · exact form_exec _ h
              · split
                · exact form_exec _ h
                · exact form_enterSc _ h

theorem form_afterIssue {s : State} (r t : Nat) (b : Bool) (h : StorageForm s) : StorageForm (s.afterIssue r t b) := h

theorem form_issueStep {s : State} (r t : Nat) (b : Bool) (h : StorageForm s) : OutForm (issueStep r t b s) := by
  have hi := form_issueStream r t b h
  unfold issueStep
  split
  · next he => exact .next (form_afterIssue _ _ _ (hi _ he))
  · exact hi

theorem form_leaveStub {s : State} (g : Region) (h : StorageForm s) : StorageForm (s.leaveStub g) := h

theorem form_endStubSc {s : State} (g : Region) (h : StorageForm s) : StorageForm (s.endStubSc g) :=
  form_ite (form_leaveStub _ h) h

theorem form_afterCommitStep {s : State} (r : Nat) {o : Out} (h : StorageForm s) (ho : OutForm o) :
    OutForm (afterCommitStep r s o) := by
  cases o with
  | next t =>
    have ht : StorageForm t := ho t rfl
    unfold afterCommitStep
    dsimp only
    split
    · exact .next (form_goOn _ ht)
    · split
      · exact .next (form_goOn _ ht)
      · split
        · exact .next (form_goOn _ (form_takeRaised _ ht))
        · split
          · exact .next (form_goOn _ ht)
          · exact .next (form_goOn _ (form_setRegion _ ht))
  | refused e => exact .next (form_goOn _ h)
  | fault e => exact .fault

theorem form_closeStep {s : State} (r : Nat) (h : StorageForm s) : OutForm (closeStep r s) := by
  unfold closeStep
  split
  · exact .next (form_goOn _ h)
  · next g _ =>
    have hc := form_closeSc g h
    dsimp only
    split
    · exact .next (form_goOn _ h)
    · split
      · exact form_exec _ h
      · split
        · exact .next (form_goOn _ (form_takeRaised _ hc))
        · split
          · exact .next (form_goOn _ (form_endStubSc _ hc))
          · split
            · exact form_afterCommitStep _ hc (form_exec _ hc)
            · split
              · exact form_afterCommitStep _ hc (form_exec _ hc)
              · exact .next (form_goOn _ (form_setRegion _ hc))

theorem form_step {s : State} (h : StorageForm s) : OutForm (step s) := by
  unfold step
  split
  · exact form_idleStep h
  · exact form_landStep _ h
  · exact form_issueStep _ _ _ h
  · exact form_closeStep _ h

end Sys2Proof.Machine

namespace Sys2Proof

/-- Settles O58: every row and every part of a tile clock cycle writes storage only through the operations that keep its
form. -/
theorem storageKeepsItsForm : Obligations.StorageKeepsItsForm :=
  fun _ t h ht => Machine.form_step h t ht

end Sys2Proof
end

section
/-! SUPPORT. A recorded event, a notice and a corrected error write host memory, the error registers and the log: local
memory, the regions, the links and the devices declared unresponsive stay, and so does the counter of link replays but
where a replay is counted. -/

namespace Sys2Proof.Machine

/-! ### Records and notices -/

theorem record_frame (s : State) (n : Nat) (b : Bool) (e : Event) :
    (s.record n b e).hbm = s.hbm ∧ (s.record n b e).regions = s.regions ∧ (s.record n b e).quiet = s.quiet := by
  unfold State.record
  split
  · exact ⟨rfl, rfl, rfl⟩
  · cases b <;> exact ⟨rfl, rfl, rfl⟩

theorem notice_frame (s : State) (n : Nat) (e : Event) :
    (s.notice n e).hbm = s.hbm ∧ (s.notice n e).regions = s.regions ∧ (s.notice n e).quiet = s.quiet := by
  unfold State.notice
  split
  · exact ⟨rfl, rfl, rfl⟩
  · exact record_frame _ _ _ _

/-! ### The counter of link replays -/

theorem ringWrite_link (host : Mem) (r : ErrRegs) (tag : BitVec 16) (e : Event) :
    (ringWrite host r tag e).2.link = r.link := by
  unfold ringWrite
  dsimp only
  split <;> rfl

theorem recordPf_link (s : State) (tag : BitVec 16) (e : Event) :
    (s.recordPf tag e).dev.err.link = s.dev.err.link := ringWrite_link _ _ _ _

theorem count_link {r : ErrRegs} (h : r.link ≠ BitVec.allOnes 32) : (r.count .link).1.link = r.link + 1 := by
  simp only [ErrRegs.count, h, if_false]

theorem corrected_none_portsUp (s : State) (c : ErrCtr) : (s.corrected none c).dev.portsUp = s.dev.portsUp := by
  unfold State.corrected
  dsimp only [Option.bind_none]
  split <;> rfl

theorem corrected_none_link (s : State) (c : ErrCtr) :
    (s.corrected none c).dev.err.link = (s.dev.err.count c).1.link := by
  unfold State.corrected
  dsimp only [Option.bind_none]
  split
  · rfl
  · exact recordPf_link _ _ _

end Sys2Proof.Machine
end

section
/-! SUPPORT. Requests that no agent answers: declaring a device unresponsive, the poison of a load, sending again
(20 R449 to R452). -/

namespace Sys2Proof.Machine

open Sys2Proof.Claims

/-! ### Unresponsive devices -/

theorem tellOne_frame (s : State) (n : Nat) (d : BitVec 20) (va o t : Nat) :
    (s.tellOne n d va o t).regions = s.regions ∧ (s.tellOne n d va o t).quiet = s.quiet := by
  unfold State.tellOne
  split
  · split
    · exact ⟨rfl, rfl⟩
    · next p _ _ => exact (notice_frame (s.setPart { p with toldPeers := d :: p.toldPeers }) _ _).2
  · exact ⟨rfl, rfl⟩

/-- One notice is given for each device and partition (20 R451). -/
theorem tellOne_of_told {s : State} {n : Nat} {p : Part} {d : BitVec 20} (va o t : Nat) (hp : s.part? n = some p)
    (hd : d ∈ p.toldPeers) : s.tellOne n d va o t = s := by
  simp [State.tellOne, hp, hd]

theorem tellDropped_frame (s : State) (d : BitVec 20) :
    (s.tellDropped d).regions = s.regions ∧ (s.tellDropped d).quiet = s.quiet := by
  unfold State.tellDropped
  dsimp only
  refine List.foldlRecOn (motive := fun t : State => t.regions = s.regions ∧ t.quiet = s.quiet) _ _ ⟨rfl, rfl⟩ ?_
  intro t ⟨hr, hq⟩ p _
  split
  · next x _ =>
    obtain ⟨hr', hq'⟩ := tellOne_frame t p.conf.num d x.va x.ordinal x.tile
    split
    · exact ⟨hr'.trans hr, hq'.trans hq⟩
    · exact ⟨hr, hq⟩
  · exact ⟨hr, hq⟩

theorem execPeerUnresponsive_declares (s : State) (d : BitVec 20) :
    ∃ t : State, execPeerUnresponsive d s = .next t ∧ d ∈ t.quiet ∧ (∀ x ∈ s.quiet, x ∈ t.quiet) ∧ t.regions = s.regions := by
  refine ⟨_, rfl, ?_⟩
  split
  · next hd => exact ⟨List.contains_iff_mem.1 hd, fun _ hx => hx, rfl⟩
  · obtain ⟨hr, hq⟩ := tellDropped_frame { s with quiet := d :: s.quiet } d
    rw [hq, hr]
    exact ⟨List.mem_cons_self, fun _ hx => List.mem_cons_of_mem _ hx, rfl⟩

theorem execDeviceReadmission_readmits (s : State) (d : BitVec 20) (ep : BitVec 10) :
    ∃ t : State, execDeviceReadmission d ep s = .next t ∧ d ∉ t.quiet ∧ (∀ x ∈ s.quiet, x ≠ d → x ∈ t.quiet) ∧
      t.regions = s.regions :=
  ⟨_, rfl, by simp, fun _ hx hne => by simp [hx, hne], rfl⟩

/-! ### Events of one region from wall time -/

theorem asyncEvent_some {name : String} {r : Nat} {s t : State} {g : Region} {f : Region → Option State}
    (hg : s.region? r = some g) (hf : f g = some t) : asyncEvent name r s f = .next (t.settle r) := by
  simp [asyncEvent, hg, hf]

theorem asyncEvent_none {name : String} {r : Nat} {s : State} {g : Region} {f : Region → Option State}
    (hg : s.region? r = some g) (hf : f g = none) : asyncEvent name r s f = .refused (.notDue name) := by
  simp [asyncEvent, hg, hf]

/-! ### A load without an answer -/

theorem leNat_zeros (n : Nat) : leNat (List.replicate n 0) = 0 := by
  induction n with
  | zero => rfl
  | succ n ih => rw [List.replicate_succ, leNat, ih]; rfl

theorem signedOf_zero (w : Nat) : signedOf w 0 = 0 := by simp [signedOf]

/-- A load that reads nothing but poisoned zeros gives a poisoned zero, extended or not. -/
theorem loadVal_poison {n : Nat} (sx : Bool) (hn : 0 < n) : loadVal sx (List.replicate n (0, true)) = ⟨0, true⟩ := by
  have hv : leVal (List.replicate n ((0, true) : PByte)) = (0, true) := by
    simp only [leVal, List.map_replicate, leNat_zeros, List.any_replicate, Nat.ne_of_gt hn, if_false]
  simp only [loadVal, hv, signedOf_zero]
  cases sx <;> rfl

theorem loadAt_gldOf {s : State} {g : Region} {id n : Nat} {home : Home → Bool} {a : Await} {sx : Bool}
    (h : LoadAt s g id home a n sx) :
    ∃ p, a.page = some p ∧ g.gldOf id = some (a, p, n, sx) ∧ home (p.home a.addr) = true := by
  obtain ⟨p, hp, hh⟩ := h.page
  have hw : g.awaits.find? (fun a => a.id = id && a.st == .waiting) = some a := h.waits
  refine ⟨p, hp, ?_, hh⟩
  simp [Region.gldOf, hw, h.kind, hp]

theorem waiting_id {g : Region} {id : Nat} {a : Await} (h : Waiting g id a) : a.id = id := by
  have hp := List.find?_some h
  simp only [Bool.and_eq_true, decide_eq_true_eq] at hp
  exact hp.1

/-- A load whose home tells nothing gets poison, and leaves its tile's order (20 R449, R450). -/
theorem noReply_load {s : State} {g : Region} {id n : Nat} {home mute : Home → Bool} {a : Await} {sx : Bool}
    (h : LoadAt s g id home a n sx) (hm : ∀ x, home x = true → mute x = true) :
    s.noReply mute g id = some (put s (leftOrder (Claims.told g id (.value ⟨0, true⟩)) a.tile id)) := by
  obtain ⟨p, -, hgld, hh⟩ := loadAt_gldOf h
  have hid := waiting_id h.waits
  simp only [State.noReply, hgld, h.turn, hm _ hh, Bool.not_true, Bool.or_self, Bool.false_eq_true, if_false,
    loadVal_poison sx h.size, Region.gldValue, hid]
  rfl

/-- A request that is neither an item nor a command is a load or a walk, and wants a completion. -/
theorem nonPosted_of_no_item {g : Region} {id : Nat} (hi : g.items.find? (fun i => i.id = id && i.released) = none)
    (hc : g.cmds.find? (fun c => c.id = id) = none) : g.nonPosted id = true := by
  simp [Region.nonPosted, Region.itemOf, Region.cmd?, hi, hc]

theorem execHostCompletionTimeout_load {s : State} {r id n : Nat} {g : Region} {a : Await} {sx : Bool}
    (hg : s.region? r = some g) (h : LoadAt s g id (fun h => h.target == .cxl || h.target == .pcie) a n sx)
    (hi : g.items.find? (fun i => i.id = id && i.released) = none) (hc : g.cmds.find? (fun c => c.id = id) = none) :
    execHostCompletionTimeout r ⟨id, none⟩ s =
      .next ((put s (leftOrder (Claims.told g id (.value ⟨0, true⟩)) a.tile id)).settle r) := by
  refine asyncEvent_some hg ?_
  rw [nonPosted_of_no_item hi hc, if_pos rfl, noReply_load (mute := Home.isHost) h fun _ hx => hx]
  rfl

/-- The one device that a load waits for. -/
theorem waitsOn_load {s : State} {g : Region} {id n : Nat} {a : Await} {p : Page} {sx : Bool}
    (h : g.gldOf id = some (a, p, n, sx)) : s.waitsOn g id = [(p.dev, a.addr, a.tile)] := by
  simp [State.waitsOn, h]

theorem execSynthesisedReply_load {s : State} {r id n : Nat} {g : Region} {a : Await} {sx : Bool} {pt : Part}
    (hg : s.region? r = some g)
    (h : LoadAt s g id (fun h => decide (h.target = .peer ∧ h.dev ≠ s.dev.id) && s.quiet.contains h.dev) a n sx)
    (hp : s.part? g.launch.part = some pt) (ht : ∀ pg, a.page = some pg → pg.dev ∈ pt.toldPeers) :
    execSynthesisedReply r id s =
      .next ((put s (leftOrder (Claims.told g id (.value ⟨0, true⟩)) a.tile id)).settle r) := by
  obtain ⟨p, hpg, hgld, -⟩ := loadAt_gldOf h
  have htell : s.tellPeer g id = s := by
    simp [State.tellPeer, waitsOn_load hgld, tellOne_of_told _ _ _ hp (ht p hpg)]
  have hmute : ∀ x : Home, (decide (x.target = .peer ∧ x.dev ≠ s.dev.id) && s.quiet.contains x.dev) = true →
      s.synthetic x = true := by
    simp +contextual [State.synthetic, State.ownPeer]
  refine asyncEvent_some hg ?_
  dsimp only
  rw [htell, noReply_load h hmute]
  rfl

/-! ### Sending again -/

/-- A request of the region that got no answer may go out once more (20 R450). -/
def Region.resendable (g : Region) (id : Nat) : Prop :=
  (∃ a ∈ g.awaits, a.id = id ∧ a.lost = true ∧ a.sends < maxSends) ∨ (∃ i ∈ g.items, i.id = id ∧ i.lost = true ∧ i.sends < maxSends) ∨
    ∃ c ∈ g.cmds, c.id = id ∧ c.lost = true ∧ c.sends < maxSends

/-- The region after its requests of a number went out once more, each with its tag. -/
def Region.resent (g : Region) (id : Nat) : Region :=
  { g with
    awaits := g.awaits.map fun a => if a.id = id then { a with lost := false, sends := a.sends + 1 } else a
    items := g.items.map fun i => if i.id = id then { i with lost := false, sends := i.sends + 1 } else i
    cmds := g.cmds.map fun c => if c.id = id then { c with lost := false, sends := c.sends + 1 } else c }

theorem resent_tags (g : Region) (id : Nat) : (g.resent id).items.map (·.tag) = g.items.map (·.tag) := by
  simp only [Region.resent, List.map_map]
  refine List.map_congr_left fun i _ => ?_
  simp only [Function.comp_apply]
  split <;> rfl

theorem resendable_iff (g : Region) (id : Nat) :
    ((g.awaits.any fun a => a.id = id && a.lost && decide (a.sends < maxSends)) ||
      (g.items.any fun i => i.id = id && i.lost && decide (i.sends < maxSends)) ||
      g.cmds.any fun c => c.id = id && c.lost && decide (c.sends < maxSends)) = true ↔ g.resendable id := by
  simp [Region.resendable, or_assoc, and_assoc]

theorem execPelaroRequestResend_due {s : State} {r id : Nat} {g : Region} (hg : s.region? r = some g)
    (h : g.resendable id) : execPelaroRequestResend r id s = .next ((put s (g.resent id)).settle r) := by
  refine asyncEvent_some hg ?_
  dsimp only
  rw [(resendable_iff g id).2 h]
  rfl

theorem execPelaroRequestResend_notDue {s : State} {r id : Nat} {g : Region} (hg : s.region? r = some g)
    (h : ¬g.resendable id) : execPelaroRequestResend r id s = .refused (.notDue "PELARO_REQUEST_RESEND") := by
  refine asyncEvent_none hg ?_
  dsimp only
  rw [Bool.eq_false_iff.2 (mt (resendable_iff g id).1 h)]
  rfl

end Sys2Proof.Machine
end

section
/-! SUPPORT. Ports, the patrol scrub, and the fatal state with its dump (20 R439, R440, R448, R464, R465). -/

namespace Sys2Proof.Machine

open Sys2Proof.Claims

/-! ### Ports -/

theorem execPelaroPortDown_gone (s : State) (port : BitVec 5) :
    ∃ t : State, execPelaroPortDown port false s = .next t ∧
      t.dev.portsUp = s.dev.portsUp &&& ~~~(1#32 <<< port.toNat) ∧
      t.regions.map (·.tiles) = s.regions.map (·.tiles) := by
  refine ⟨_, rfl, rfl, ?_⟩
  simp only [Bool.false_eq_true, if_false, List.map_map]
  rfl

theorem execPelaroPortDown_retrains {s : State} (port : BitVec 5) (h : s.dev.err.link ≠ BitVec.allOnes 32) :
    ∃ t : State, execPelaroPortDown port true s = .next t ∧ t.dev.portsUp = s.dev.portsUp ∧
      t.dev.err.link = s.dev.err.link + 1 :=
  ⟨State.corrected { s with regions := s.regions.map s.loseReqs, seq := s.seq + 1 } none .link, rfl, corrected_none_portsUp _ _,
    (corrected_none_link _ _).trans (count_link h)⟩

/-! ### The patrol scrub -/

theorem execPatrolScrub_past {sector : Nat} (f : ScrubFind) (s : State) (h : 2 ^ 40 ≤ 32 * sector) :
    execPatrolScrub sector f s = .fault (.noSuchByte (32 * sector)) := if_pos h

theorem execPatrolScrub_clean {sector : Nat} (s : State) (h : 32 * sector < 2 ^ 40) :
    execPatrolScrub sector .clean s = .next s := if_neg (Nat.not_le.2 h)

theorem execPatrolScrub_uncorrectable {sector : Nat} (s : State) (h : 32 * sector < 2 ^ 40) :
    ∃ t : State, execPatrolScrub sector .uncorrectable s = .next t ∧ t.hbm = s.hbm.poison sector := by
  refine ⟨_, if_neg (Nat.not_le.2 h), ?_⟩
  split
  · exact (notice_frame _ _ _).1
  · rfl

/-! ### The fatal state -/

theorem fatalCode_eq (c : FatalCase) : fatalCode c = fatalCauseOf c := by cases c <;> rfl

theorem fatalCode_lt (c : FatalCase) : fatalCode c < 1024 := by cases c <;> decide

/-- The dump begins with "DUMP", the fatal code and the die (20 R465). -/
theorem dump_head (s : State) (code : Cause) (die : BitVec 2) :
    ∃ rest, s.dump code die = 0x44 :: 0x55 :: 0x4D :: 0x50 ::
      BitVec.ofNat 8 (code + 1024 * die.toNat) :: BitVec.ofNat 8 ((code + 1024 * die.toNat) / 256) :: rest := ⟨_, rfl⟩

/-- Clean bytes written to local memory read back, and no other byte changes. -/
theorem write_clean_byte {m : Mem} (g a b : Nat) (bs : List Byte) (h : m.wf = true) :
    (m.write g a (clean bs)).byte b = if a ≤ b ∧ b < a + bs.length then bs.getD (b - a) 0 else m.byte b := by
  rw [write_byte _ _ _ _ h]
  simp only [clean, List.length_map]
  rw [List.getD_map (f := fun b : Byte => (b, false)) (d := 0)]

/-- A number below 2^16 is what its two low bytes hold. -/
theorem two_bytes {x : Nat} (h : x < 2 ^ 16) : (BitVec.ofNat 8 x).toNat + 256 * (BitVec.ofNat 8 (x / 256)).toNat = x := by
  simp only [BitVec.toNat_ofNat]
  omega

/-- A fatal case that meets a device which is not in the fatal state. -/
def State.fatalStop (s : State) (c : FatalCase) (die : BitVec 2) : State :=
  { s with
    dev := { s.dev with
      stage := .fatal (fatalCode c) die, portsUp := 0, aerFatal := true, dumpUnread := true,
      hostUp := s.dev.hostUp && c != .hostLink, fatalAt := s.dev.wall }
    hbm := s.hbm.write hbmGran s.dev.dumpArea (clean (s.dump (fatalCode c) die)) }

theorem execHostLinkDown_stops {s : State} (c : FatalCase) (die : BitVec 2) (h : ∀ x d, s.dev.stage ≠ .fatal x d) :
    execHostLinkDown c die s = .next (s.fatalStop c die) := by
  unfold execHostLinkDown
  split
  · next he => exact absurd he (h _ _)
  · rfl

theorem fatalStop_byte {s : State} (c : FatalCase) (die : BitVec 2) (h : s.hbm.wf = true) (b : Nat) :
    (s.fatalStop c die).hbm.byte b =
      if s.dev.dumpArea ≤ b ∧ b < s.dev.dumpArea + (s.dump (fatalCode c) die).length then
        (s.dump (fatalCode c) die).getD (b - s.dev.dumpArea) 0
      else s.hbm.byte b :=
  write_clean_byte (m := s.hbm) hbmGran s.dev.dumpArea b (s.dump (fatalCode c) die) h

/-- The first six bytes of the dump as they stand in memory. -/
theorem fatalStop_head {s : State} (c : FatalCase) (die : BitVec 2) (h : s.hbm.wf = true) {i : Nat} (hi : i < 6) :
    (s.fatalStop c die).hbm.byte (s.dev.dumpArea + i) =
      [0x44, 0x55, 0x4D, 0x50, BitVec.ofNat 8 (fatalCode c + 1024 * die.toNat),
        BitVec.ofNat 8 ((fatalCode c + 1024 * die.toNat) / 256)].getD i 0 := by
  obtain ⟨rest, hd⟩ := dump_head s (fatalCode c) die
  rw [fatalStop_byte c die h, hd, if_pos (by simp; omega), Nat.add_sub_cancel_left]
  match i, hi with
  | 0, _ | 1, _ | 2, _ | 3, _ | 4, _ | 5, _ => rfl

theorem fatalStop_code {s : State} (c : FatalCase) (die : BitVec 2) (h : s.hbm.wf = true) :
    ((s.fatalStop c die).hbm.byte (s.dev.dumpArea + 4)).toNat +
      256 * ((s.fatalStop c die).hbm.byte (s.dev.dumpArea + 5)).toNat = fatalCode c + 1024 * die.toNat := by
  rw [fatalStop_head c die h (i := 4) (by decide), fatalStop_head c die h (i := 5) (by decide)]
  have hx : ∀ x : Nat, x < 1024 → x + 1024 * die.toNat < 2 ^ 16 := by omega
  exact two_bytes (hx _ (fatalCode_lt c))

theorem fatalStop_frame {s : State} (c : FatalCase) (die : BitVec 2) (h : s.hbm.wf = true) {b : Nat}
    (hb : b < s.dev.dumpArea ∨ s.dev.dumpArea + (s.dump (fatalCode c) die).length ≤ b) :
    (s.fatalStop c die).hbm.byte b = s.hbm.byte b := by
  rw [fatalStop_byte c die h, if_neg (by omega)]

/-- In the fatal state only a lower code of the same instant is recorded (20 R464). -/
theorem execHostLinkDown_again {s : State} (c : FatalCase) (die : BitVec 2) {old : Cause} {d : BitVec 2}
    (h : s.dev.stage = .fatal old d) :
    ∃ t : State, execHostLinkDown c die s = .next t ∧ t.regions = s.regions ∧
      t.dev.stage = if s.dev.wall = s.dev.fatalAt ∧ fatalCode c < old then .fatal (fatalCode c) die else .fatal old d := by
  unfold execHostLinkDown
  simp only [h]
  refine ⟨_, rfl, ?_⟩
  by_cases hl : s.dev.wall = s.dev.fatalAt ∧ fatalCode c < old
  · simp only [if_pos hl, and_self]
  · simp only [if_neg hl, and_self]

end Sys2Proof.Machine

namespace Sys2Proof

open Machine Claims

theorem lostAnswersArePoison : LostAnswersArePoison := by
  intro s
  refine ⟨execPeerUnresponsive_declares s, execDeviceReadmission_readmits s, fun r id g a n sx hg => ⟨?_, ?_, ?_, ?_⟩⟩
  · exact execHostCompletionTimeout_load hg
  · exact fun pt h hp ht => execSynthesisedReply_load hg h hp ht
  · intro ha hid hl hs
    exact ⟨g.resent id, execPelaroRequestResend_due hg (.inl ⟨a, ha, hid, hl, hs⟩), rfl, rfl, resent_tags g id⟩
  · intro ha hi hc
    refine execPelaroRequestResend_notDue hg ?_
    rintro (⟨x, hx, hid, -, hs⟩ | ⟨i, hx, hid, -⟩ | ⟨c, hx, hid, -⟩)
    · exact absurd hs (Nat.not_lt.2 (ha x hx hid))
    · exact hi i hx hid
    · exact hc c hx hid

theorem fatalCaseStopsDevice {s : State} (c : FatalCase) (die : BitVec 2) (h : ∀ x d, s.dev.stage ≠ .fatal x d)
    (hw : s.hbm.wf = true) :
    ∃ t : State, exec (.hostLinkDown c die) s = .next t ∧ t.dev.stage = .fatal (fatalCauseOf c) die ∧ t.dev.portsUp = 0 ∧
      t.dev.dumpUnread = true ∧ t.dev.aerFatal = true ∧ t.regions = s.regions ∧
      t.hbm.byte s.dev.dumpArea = 0x44 ∧ t.hbm.byte (s.dev.dumpArea + 1) = 0x55 ∧ t.hbm.byte (s.dev.dumpArea + 2) = 0x4D ∧
      t.hbm.byte (s.dev.dumpArea + 3) = 0x50 ∧
      (t.hbm.byte (s.dev.dumpArea + 4)).toNat + 256 * (t.hbm.byte (s.dev.dumpArea + 5)).toNat =
        fatalCauseOf c + 1024 * die.toNat ∧
      ∀ a, (a < s.dev.dumpArea ∨ s.dev.dumpArea + (s.dump (fatalCauseOf c) die).length ≤ a) → t.hbm.byte a = s.hbm.byte a := by
  rw [← fatalCode_eq]
  exact ⟨s.fatalStop c die, execHostLinkDown_stops c die h, rfl, rfl, rfl, rfl, rfl,
    fatalStop_head c die hw (i := 0) (by decide), fatalStop_head c die hw (i := 1) (by decide),
    fatalStop_head c die hw (i := 2) (by decide), fatalStop_head c die hw (i := 3) (by decide),
    fatalStop_code c die hw, fun _ ha => fatalStop_frame c die hw ha⟩

theorem linksScrubAndFatalState : LinksScrubAndFatalState := by
  intro s
  refine ⟨execPelaroPortDown_gone s, fun port h => execPelaroPortDown_retrains port h, ?_, ?_, ?_, ?_⟩
  · exact fun sector h => ⟨execPatrolScrub_clean s h, execPatrolScrub_uncorrectable s h⟩
  · exact fun sector f h => execPatrolScrub_past f s h
  · exact fun c die h hw => fatalCaseStopsDevice c die h hw
  · intro c die old d h
    rw [← fatalCode_eq]
    exact execHostLinkDown_again c die h

/-- Settles O52: a load's missing answer is poison by `State.noReply`, and the dump is one write to local memory. -/
theorem lostAnswersLinksAndFatalState : Obligations.LostAnswersLinksAndFatalState :=
  ⟨lostAnswersArePoison, linksScrubAndFatalState⟩

end Sys2Proof
end

section
/-! SUPPORT. The issue of a vector operation as the statements word it: the slot it makes active, what it reads from the
region it leaves active (07 R167, R175; 10 R255, R258). -/

namespace Sys2Proof.Machine

open Sys2Proof.Claims

/-! ### The slot made active -/

/-- What a change of a stream leaves as it was in every stream, it leaves as it was in that one. -/
theorem modStr_str_field {α : Type} (π : Stream → α) {f : Stream → Stream} (h : ∀ x, π (f x) = π x) (g : Region) (t : Nat)
    (b : Bool) : π ((g.modStr t b f).str t b) = π (g.str t b) := by
  unfold Region.str Region.modStr Region.modTile Region.tile
  simp only [List.getD_eq_getElem?_getD, List.getElem?_modify_eq]
  cases g.tiles[t]? with
  | none => rfl
  | some x => cases b <;> exact h _

@[simp] theorem active_bank (g : Region) (cu : Cursor) (k : Sticky) : ((active g cu k).cur cu).bank = (g.cur cu).bank :=
  modStr_str_field (·.bank) (fun x => setSticky_bank x cu.slot (some k)) g cu.t cu.b

theorem setSticky_srpos (x : Stream) (slot : Nat) (k : Option Sticky) : (x.setSticky slot k).srpos = x.srpos := by
  unfold Stream.setSticky
  split <;> rfl

@[simp] theorem active_srpos (g : Region) (cu : Cursor) (k : Sticky) : ((active g cu k).cur cu).srpos = (g.cur cu).srpos :=
  modStr_str_field (·.srpos) (fun x => setSticky_srpos x cu.slot (some k)) g cu.t cu.b

/-- A vector operation runs on the region with its slot active; the mask is no guard (19 R429). -/
theorem stickyVec_next {s : State} {cu : Cursor} {g g' : Region} {op : Instr} {f : Cursor → Region → Except Stop Region}
    (hi : Issuing s cu g) (hf : f cu (vectorActive g cu op) = .ok g') : stickyVec s op f = .next (Claims.left s g') := by
  have hk : cu.again = some (slotState cu op []) ∨
      (cu.again = none ∧ ∃ as, (.ok [] : Except Stop (List Val)) = .ok as ∧ slotState cu op [] = ⟨op, 0, as⟩) := by
    cases ha : cu.again with
    | none => exact .inr ⟨rfl, [], rfl, by simp [slotState, ha]⟩
    | some k => exact .inl (by simp [slotState, ha])
  unfold stickyVec
  rw [stickyOp_run hi.cur hi.reg rfl hk]
  exact issueOp_ok hi.cur hi.reg hf

/-! ### Reads -/

theorem lanes_active {g : Region} {cu : Cursor} {gd : VGuard} {mask : BitVec 32} (k : Sticky) (h : Lanes g cu gd mask) :
    (active g cu k).lanes cu gd = .ok mask := by
  simp [Region.lanes, h.sound, h.eq]

/-- With nothing missing, a register or latch operand reads as its value. -/
theorem readS_eq {s : State} {g : Region} {cu : Cursor} (hm : NoneMissing g cu) (a : SSrc) :
    g.readS s cu a = .ok (operandValue s g cu a) := by
  have hr (p : Await → Bool) : g.firstMissing cu.t cu.b p = .ok () := firstMissing_none hm
  have hready (d : SDst) : g.ready cu.t cu.b d = .ok () := hr _
  have hlm : g.readyLm cu.t cu.b = .ok () := hr _
  cases a with
  | g n =>
    by_cases hn : n = 0
    · simp only [Region.readS, operandValue, if_pos hn]
    · simp only [Region.readS, operandValue, if_neg hn, hready, Bank.getS, bind, Except.bind, pure, Except.pure]
  | k n => simp only [Region.readS, operandValue, hready, Bank.getS, bind, Except.bind, pure, Except.pure]
  | latch l => cases l <;> simp [Region.readS, operandValue, hlm, Latches.get, bind, Except.bind, pure, Except.pure]
  | ident i =>
    have hid : g.ident s.dev.id cu i = identValue s g cu i := by
      cases i
      case stream => cases hb : cu.b <;> simp [Region.ident, identValue, hb]
      all_goals rfl
    simp only [Region.readS, operandValue, hid]
  | imm v => rfl

/-- Making a slot active changes no operand. -/
theorem operandValue_active (s : State) (g : Region) (cu : Cursor) (k : Sticky) (a : SSrc) :
    operandValue s (active g cu k) cu a = operandValue s g cu a := by
  have hid : identValue s (active g cu k) cu = identValue s g cu := by
    funext i
    cases i <;> rfl
  unfold operandValue
  rw [active_bank, hid]

/-- A vector-class source is a register or one element for all, and gives the elements of `sourceElement` (07 R175). -/
theorem readV_active {s : State} {g : Region} {cu : Cursor} (hm : NoneMissing g cu) (k : Sticky) (f : Fmt) (a : VSrc) :
    ∃ v, (active g cu k).readV s cu f a = .ok v ∧ ∀ e, v.elem f.width e = sourceElement s g cu f a e := by
  have hs (a : SSrc) : (active g cu k).readS s cu a = .ok (operandValue s g cu a) := by
    rw [readS_eq (show NoneMissing (active g cu k) cu from hm), operandValue_active]
  cases a with
  | v n =>
    refine ⟨_, rfl, fun e => ?_⟩
    simp only [VVal.elem, elemOf, BitVec.extractLsb'_toNat, Nat.shiftRight_eq_div_pow, Bank.getV, active_bank]
    rfl
  | imm v => exact ⟨_, rfl, fun _ => rfl⟩
  | _ => exact ⟨_, by simp only [Region.readV, hs, bind, Except.bind, pure, Except.pure]; rfl, fun _ => rfl⟩

end Sys2Proof.Machine
end

section
/-! SUPPORT. The elementwise families: the one shape they share, and each row of the manual's table as a case of it
(04 R103, R104; 10 R263 to R265, R268). -/

namespace Sys2Proof.Machine

open Sys2Proof.Claims

theorem rand_active (g : Region) (cu : Cursor) (k : Sticky) (e : Nat) : (active g cu k).rand cu e = randomWord g cu e := by
  simp only [Region.rand, randomWord, active_srpos]
  rfl

theorem bump_now (g : Region) (cu : Cursor) (r : Rnd) : (g.bump cu r).now = g.now := by
  unfold Region.bump
  split <;> rfl

theorem fly_eq_sending (g : Region) (cu : Cursor) (lat : Nat) (w : Flight) :
    g.fly cu lat w = sending g cu (g.now + lat) w := rfl

/-- The elements that an elementwise operation is going to write. -/
def elementOuts (s : State) (g : Region) (cu : Cursor) (mask : BitVec 32) (n : Nat) (fn : ElemFn) (o : VopA) : List ElemOut :=
  (admittedElements mask o.m.fmt).map fun e =>
    let x := sourceElement s g cu o.m.fmt o.a e
    let y := if 1 < n then sourceElement s g cu o.m.fmt o.b e else (0, false)
    let z := if 2 < n then sourceElement s g cu o.m.fmt o.c e else (0, false)
    (e, fn o.m (randomWord g cu e) x.1 y.1 z.1, x.2 || y.2 || z.2)

/-- An elementwise family computes each admitted element from the same element of its sources. -/
theorem elementwise_next {s : State} {cu : Cursor} {g : Region} {mask : BitVec 32} {o : VopA} (op : Instr) (n : Nat)
    (lat : VMod → Nat) (fn : ElemFn) (hi : Issuing s cu g) (hm : NoneMissing g cu) (hl : Lanes g cu o.m.gd mask) :
    elementwise s op n lat fn o = .next (Claims.left s (sending (positioned (vectorActive g cu op) cu o.m.rnd) cu
      (g.now + lat o.m) (elemWrite o.d o.m.fmt.width (elementOuts s g cu mask n fn o)))) := by
  refine stickyVec_next hi ?_
  unfold vectorActive
  obtain ⟨a, ha, hae⟩ := readV_active (s := s) hm (slotState cu op []) o.m.fmt o.a
  obtain ⟨b, hb, hbe⟩ := readV_active (s := s) hm (slotState cu op []) o.m.fmt o.b
  obtain ⟨c, hc, hce⟩ := readV_active (s := s) hm (slotState cu op []) o.m.fmt o.c
  unfold elementOuts
  by_cases h1 : 1 < n <;> by_cases h2 : 2 < n <;>
    simp only [lanes_active _ hl, ha, hb, hc, hae, hbe, hce, h1, h2, if_true, if_false, rand_active, fly_eq_sending, bump_now,
      bind, Except.bind, pure, Except.pure] <;>
    rfl

/-- The instruction of a row runs as the shared shape with the row's count of sources, latency and value. -/
def RowRuns (row : ElementRow) : Prop :=
  ∀ o s, exec (row.op o) s = elementwise s (row.op o) row.sources (fun m => row.lat m.fmt) row.value o

/-- Saturating addition and subtraction clamp the exact result of their integers (10 R265). -/
theorem satFn_eq (sub : Bool) : satFn sub = fun m _ x y _ => saturated m.v4 m.fmt.width
    (if sub then elementInt m.v4 m.fmt.width x - elementInt m.v4 m.fmt.width y
      else elementInt m.v4 m.fmt.width x + elementInt m.v4 m.fmt.width y) := by
  funext m _ x y _
  exact apply_ite (encInt m.fmt.width) _ _ _

theorem elementRows_run : ∀ row ∈ elementRows, RowRuns row := by
  simp only [elementRows, List.forall_mem_cons]
  refine ⟨?vadd, ?vsub, ?vmul, ?vmin, ?vmax, ?vabs, ?vneg, ?vfma, ?vand, ?vor, ?vxor, ?vshl, ?vshr, ?vsar, ?vadds, ?vsubs,
    ?vmov, fun _ h => absurd h List.not_mem_nil⟩
  case vadds => exact fun o s => congrArg (elementwise s (.vadds o) 2 (fun _ => 2) · o) (satFn_eq false)
  case vsubs => exact fun o s => congrArg (elementwise s (.vsubs o) 2 (fun _ => 2) · o) (satFn_eq true)
  all_goals exact fun _ _ => rfl

theorem elementwiseVectorResult : ElementwiseVectorResult := by
  intro row hr o s cu g mask hi hm hl
  rw [elementRows_run row hr o s]
  exact elementwise_next (row.op o) row.sources (fun m => row.lat m.fmt) row.value hi hm hl

end Sys2Proof.Machine
end

section
/-! SUPPORT. A vector result as numbers of packed elements: each element of the sum is its own, and landing writes the
elements named and no other (10 R255). -/

namespace Sys2Proof.Machine

open Sys2Proof.Claims

/-! ### Packed elements -/

/-- Setting an element that is zero changes that element alone. -/
theorem digit_add {B a S k : Nat} (ha : a < B) (hS : S / B ^ k % B = 0) (i : Nat) :
    (a * B ^ k + S) / B ^ i % B = if i = k then a else S / B ^ i % B := by
  have hB : 0 < B := by omega
  have hk : (a * B ^ k + S) / B ^ k = a + S / B ^ k := by
    rw [Nat.mul_comm, Nat.mul_add_div (Nat.pow_pos hB)]
  rcases Nat.lt_trichotomy i k with h | rfl | h
  · obtain ⟨d, rfl⟩ := Nat.exists_eq_add_of_lt h
    rw [if_neg (by omega), show a * B ^ (i + d + 1) = B ^ i * (B * (a * B ^ d)) by ring, Nat.mul_add_div (Nat.pow_pos hB),
      Nat.mul_add_mod]
  · rw [if_pos rfl, hk, Nat.add_mod, hS, Nat.add_zero, Nat.mod_mod, Nat.mod_eq_of_lt ha]
  · obtain ⟨d, rfl⟩ := Nat.exists_eq_add_of_lt h
    have hq : (a + S / B ^ k) / B = S / B ^ k / B := by
      obtain ⟨q, hq⟩ := Nat.dvd_of_mod_eq_zero hS
      rw [hq, Nat.add_mul_div_left _ _ hB, Nat.div_eq_of_lt ha, Nat.zero_add, Nat.mul_div_cancel_left _ hB]
    rw [if_neg (by omega), show B ^ (k + d + 1) = B ^ k * B * B ^ d by ring, ← Nat.div_div_eq_div_mul,
      ← Nat.div_div_eq_div_mul, hk, hq, Nat.div_div_eq_div_mul S, Nat.div_div_eq_div_mul]

/-- Elements of w bits side by side, each at its index, the value of each given. -/
def packedSum (w : Nat) (val : ElemOut → Nat) (es : List ElemOut) : Nat :=
  es.foldr (fun e acc => val e * 2 ^ (w * e.1) + acc) 0

theorem foldl_eq_packedSum (w : Nat) (val : ElemOut → Nat) (es : List ElemOut) :
    es.foldl (fun acc e => acc + val e * 2 ^ (w * e.1)) 0 = packedSum w val es := by
  have h (es : List ElemOut) (n : Nat) :
      es.foldl (fun acc e => acc + val e * 2 ^ (w * e.1)) n = n + packedSum w val es := by
    induction es generalizing n with
    | nil => rfl
    | cons e es ih => rw [List.foldl_cons, ih, Nat.add_assoc]; rfl
  rw [h, Nat.zero_add]

/-- An element that is not named is zero. -/
theorem packedSum_other {w : Nat} {val : ElemOut → Nat} {es : List ElemOut} (hv : ∀ e ∈ es, val e < 2 ^ w)
    (hn : (es.map (·.1)).Nodup) {i : Nat} (hi : i ∉ es.map (·.1)) : packedSum w val es / (2 ^ w) ^ i % 2 ^ w = 0 := by
  induction es generalizing i with
  | nil => simp [packedSum]
  | cons e es ih =>
    rw [List.map_cons, List.nodup_cons] at hn
    rw [List.map_cons, List.mem_cons, not_or] at hi
    have hr := fun i => ih (fun x hx => hv x (List.mem_cons_of_mem _ hx)) hn.2 (i := i)
    show (val e * 2 ^ (w * e.1) + packedSum w val es) / _ % _ = _
    rw [Nat.pow_mul, digit_add (hv e List.mem_cons_self) (hr _ hn.1), if_neg hi.1]
    exact hr _ hi.2

/-- An element that is named has its value. -/
theorem packedSum_named {w : Nat} {val : ElemOut → Nat} {es : List ElemOut} (hv : ∀ e ∈ es, val e < 2 ^ w)
    (hn : (es.map (·.1)).Nodup) {x : ElemOut} (hx : x ∈ es) : packedSum w val es / (2 ^ w) ^ x.1 % 2 ^ w = val x := by
  induction es with
  | nil => cases hx
  | cons e es ih =>
    rw [List.map_cons, List.nodup_cons] at hn
    have hv' : ∀ e ∈ es, val e < 2 ^ w := fun y hy => hv y (List.mem_cons_of_mem _ hy)
    show (val e * 2 ^ (w * e.1) + packedSum w val es) / _ % _ = _
    rw [Nat.pow_mul, digit_add (hv e List.mem_cons_self) (packedSum_other hv' hn.2 hn.1)]
    obtain rfl | hx := List.mem_cons.1 hx
    · rw [if_pos rfl]
    · have hne : x.1 ≠ e.1 := fun h => hn.1 (h ▸ List.mem_map_of_mem hx)
      rw [if_neg hne, ih hv' hn.2 hx]

/-! ### Elements of a register -/

theorem element_fits (f : Fmt) {i : Nat} (hi : i < f.count) : f.width * i + f.width ≤ 1024 := by
  cases f <;> simp only [Fmt.count, Fmt.width] at hi ⊢ <;> omega

/-- An element inside the register does not see what lies past its end. -/
theorem elemOf_ofNat {w i : Nat} (h : w * i + w ≤ 1024) (n : Nat) :
    elemOf w (BitVec.ofNat 1024 n) i = n / (2 ^ w) ^ i % 2 ^ w := by
  refine Nat.eq_of_testBit_eq fun j => ?_
  rw [elemOf, BitVec.testBit_toNat, BitVec.getLsbD_extractLsb', BitVec.getLsbD_ofNat, ← Nat.pow_mul, Nat.testBit_mod_two_pow,
    Nat.testBit_div_two_pow]
  by_cases hj : j < w
  · have hlt : w * i + j < 1024 := by omega
    simp only [hj, hlt, decide_true, Bool.true_and, Nat.add_comm j]
  · simp [hj]

theorem testBit_elemOf (w : Nat) (x : BitVec 1024) (i : Nat) {j : Nat} (hj : j < w) :
    (elemOf w x i).testBit j = x.getLsbD (w * i + j) := by
  rw [elemOf, BitVec.testBit_toNat, BitVec.getLsbD_extractLsb', decide_eq_true hj, Bool.true_and]

theorem elemOf_congr {w i : Nat} {x y : BitVec 1024} (h : ∀ j < w, x.getLsbD (w * i + j) = y.getLsbD (w * i + j)) :
    elemOf w x i = elemOf w y i := by
  unfold elemOf
  congr 1
  refine BitVec.eq_of_getLsbD_eq fun j hj => ?_
  simpa only [BitVec.getLsbD_extractLsb', hj, decide_true, Bool.true_and] using h j hj

theorem write_getLsbD (v : VReg) (bits wr : BitVec 1024) (bad : BitVec 32) {n : Nat} (hn : n < 1024) :
    (v.write bits wr bad).bits.getLsbD n = if wr.getLsbD n then bits.getLsbD n else v.bits.getLsbD n := by
  simp only [VReg.write, BitVec.getLsbD_or, BitVec.getLsbD_and, BitVec.getLsbD_not, hn, decide_true, Bool.true_and]
  cases wr.getLsbD n <;> simp

/-- A write takes the elements whose bits it all writes. -/
theorem elemOf_write_named {w i : Nat} (h : w * i + w ≤ 1024) (v : VReg) (bits : BitVec 1024) {wr : BitVec 1024}
    (bad : BitVec 32) (hw : elemOf w wr i = 2 ^ w - 1) : elemOf w (v.write bits wr bad).bits i = elemOf w bits i := by
  refine elemOf_congr fun j hj => ?_
  have hb : wr.getLsbD (w * i + j) = true := by
    rw [← testBit_elemOf w wr i hj, hw, Nat.testBit_two_pow_sub_one, decide_eq_true hj]
  rw [write_getLsbD v bits wr bad (by omega), if_pos hb]

/-- A write keeps the elements of which it writes no bit. -/
theorem elemOf_write_other {w i : Nat} (h : w * i + w ≤ 1024) (v : VReg) (bits : BitVec 1024) {wr : BitVec 1024}
    (bad : BitVec 32) (hw : elemOf w wr i = 0) : elemOf w (v.write bits wr bad).bits i = elemOf w v.bits i := by
  refine elemOf_congr fun j hj => ?_
  have hb : wr.getLsbD (w * i + j) = false := by
    rw [← testBit_elemOf w wr i hj, hw, Nat.zero_testBit]
  rw [write_getLsbD v bits wr bad (by omega), if_neg (by simp [hb])]

/-! ### Landing -/

theorem elemWrite_apply (d : BitVec 5) (w : Nat) (es : List ElemOut) (k : Bank) :
    ∃ bad, Flight.apply (elemWrite d w es) k = k.setV d ((k.getV d).write
      (BitVec.ofNat 1024 (packedSum w (fun e => e.2.1 % 2 ^ w) es))
      (BitVec.ofNat 1024 (packedSum w (fun _ => 2 ^ w - 1) es)) bad) := by
  rw [← foldl_eq_packedSum, ← foldl_eq_packedSum]
  exact ⟨_, rfl⟩

theorem getV_setV (k : Bank) (d : BitVec 5) (x : VReg) : (k.setV d x).getV d = x := by
  simp [Bank.getV, Bank.setV]

theorem getV_setV_ne (k : Bank) {d d' : BitVec 5} (x : VReg) (h : d' ≠ d) : (k.setV d x).getV d' = k.getV d' := by
  have hn : d.toNat ≠ d'.toNat := fun e => h (BitVec.eq_of_toNat_eq e.symm)
  simp [Bank.getV, Bank.setV, hn]

theorem vectorResultWritesItsElementsOnly : VectorResultWritesItsElementsOnly := by
  intro f d es k hn hi
  obtain ⟨bad, hw⟩ := elemWrite_apply d f.width es k
  have hpos : 0 < 2 ^ f.width := Nat.pow_pos (by decide)
  have hval : ∀ e ∈ es, e.2.1 % 2 ^ f.width < 2 ^ f.width := fun _ _ => Nat.mod_lt _ hpos
  have hones : ∀ e ∈ es, 2 ^ f.width - 1 < 2 ^ f.width := fun _ _ => by omega
  rw [hw, getV_setV]
  refine ⟨fun e he => ?_, fun i hc hne => ?_, fun d' hd => getV_setV_ne k _ hd⟩
  · have hfit := element_fits f (hi e he)
    rw [elemOf_write_named hfit _ _ _ (by rw [elemOf_ofNat hfit, packedSum_named hones hn he]), elemOf_ofNat hfit,
      packedSum_named hval hn he]
  · have hfit := element_fits f hc
    exact elemOf_write_other hfit _ _ _ (by rw [elemOf_ofNat hfit, packedSum_other hones hn hne])

/-- Settles O17: the families share `elementwise`, and a result is a sum of packed elements that do not overlap. -/
theorem elementwiseVectorResults : Obligations.ElementwiseVectorResults :=
  ⟨elementwiseVectorResult, vectorResultWritesItsElementsOnly⟩

end Sys2Proof.Machine
end

section
/-! SUPPORT. What a started matrix command is going to write, by element: the places of a block are apart, so each place
takes the one write of its element (03 R80; 11 R292). -/

namespace Sys2Proof.Machine

open Sys2Proof.Claims

/-! ### Bytes -/

theorem leNat_map_fst (bs : List PByte) : leNat (bs.map (·.1)) = numberOf bs := by
  induction bs with
  | nil => rfl
  | cons b bs ih => rw [List.map_cons, leNat, ih, numberOf]

theorem leVal_eq (bs : List PByte) : leVal bs = wordOf bs := by
  rw [leVal, leNat_map_fst, wordOf]

/-- The low n bytes of a number are what a register that holds it stores, while they lie inside the register. -/
theorem taint_leBytes (bad : Bool) (n x : Nat) (y : Word) (h : y.toNat % 256 ^ n = x % 256 ^ n) :
    taint bad (leBytes n x) = storedBytes n ⟨y, bad⟩ := by
  induction n generalizing x y with
  | zero => rfl
  | succ n ih =>
    have hlow : y.toNat % 256 = x % 256 := by
      rw [Nat.pow_succ'] at h
      rw [← Nat.mod_mul_right_mod y.toNat 256 (256 ^ n), h, Nat.mod_mul_right_mod]
    have hrest : (y >>> 8).toNat % 256 ^ n = x / 256 % 256 ^ n := by
      rw [Nat.pow_succ'] at h
      rw [BitVec.toNat_ushiftRight, Nat.shiftRight_eq_div_pow, ← Nat.mod_mul_right_div_self, ← Nat.mod_mul_right_div_self]
      exact congrArg (· / 256) h
    show (BitVec.ofNat 8 x, bad) :: taint bad (leBytes n (x / 256)) = (y.setWidth 8, bad) :: storedBytes n ⟨y >>> 8, bad⟩
    rw [ih _ _ hrest]
    congr 2
    exact BitVec.eq_of_toNat_eq (by simpa using hlow.symm)

theorem taint_word (w : PWord) : taint w.2 (leBytes 4 w.1) = wordBytesOf w :=
  taint_leBytes w.2 4 w.1 (BitVec.ofNat 64 w.1) (by rw [BitVec.toNat_ofNat]; exact Nat.mod_mod_of_dvd _ (by norm_num))

/-! ### Places -/

theorem tmAddr_eq (blk i j : Nat) : tmAddr blk i j = blockPlace blk i j := by
  simp only [tmAddr, blockPlace]
  ring

theorem slotBlk_eq (s : BitVec 3) (copy : Bool) : slotBlk s copy = copyBlock s copy := by cases copy <;> rfl

theorem blockPlace_inj {blk i j i' j' : Nat} (hj : j < 64) (hj' : j' < 64) (h : blockPlace blk i j = blockPlace blk i' j') :
    i = i' ∧ j = j' := by
  unfold blockPlace at h
  omega

theorem mem_elems64 {p : Nat × Nat} : p ∈ elems64 ↔ p.1 < 64 ∧ p.2 < 64 := by
  simp [elems64, Prod.ext_iff]

theorem admits_iff (c : MxCmd) (i j : Nat) : c.admits i j = true ↔ Admits c i j := by
  simp [MxCmd.admits, Admits]

/-! ### The write of an element -/

/-- Where only one entry of a list can answer a search, the search answers it. -/
theorem find?_filterMap_of_unique {α β : Type} {l : List α} {f : α → Option β} {p : β → Bool} {a : α} (ha : a ∈ l)
    (h : ∀ x ∈ l, ∀ w, f x = some w → (p w = true ↔ x = a)) : (l.filterMap f).find? p = f a := by
  cases hr : (l.filterMap f).find? p with
  | none =>
    cases hf : f a with
    | none => rfl
    | some w => exact absurd ((h a ha w hf).2 rfl) (List.find?_eq_none.1 hr w (List.mem_filterMap.2 ⟨a, ha, hf⟩))
  | some w =>
    obtain ⟨x, hx, hfx⟩ := List.mem_filterMap.1 (List.mem_of_find?_eq_some hr)
    rw [← (h x hx w hfx).1 (List.find?_some hr), hfx]

/-- What is written at an element's place of a block is that element's write. -/
theorem willWrite_element {c' : MxCmd} {f : Nat → Nat → Option MxWrite} {blk : Nat}
    (ho : c'.out = elems64.filterMap fun p => f p.1 p.2)
    (hf : ∀ i j w, f i j = some w → w.tm = true ∧ w.addr = blockPlace blk i j) {i j : Nat} (hi : i < 64) (hj : j < 64) :
    willWrite c' true (blockPlace blk i j) = (f i j).map (·.data) := by
  unfold willWrite
  rw [ho]
  refine congrArg _ (find?_filterMap_of_unique (a := (i, j)) (mem_elems64.2 ⟨hi, hj⟩) fun q hq w hw => ?_)
  obtain ⟨htm, haddr⟩ := hf _ _ _ hw
  rw [htm, haddr, beq_self_eq_true, Bool.true_and, beq_iff_eq]
  constructor
  · intro h
    obtain ⟨h1, h2⟩ := blockPlace_inj (mem_elems64.1 hq).2 hj h
    exact Prod.ext h1 h2
  · rintro rfl
    rfl

/-- What a write of a slot makes of one element (11 R292). -/
def slotWrite (c : MxCmd) (x : Tile) (s : BitVec 3) (val : Nat → Nat → PWord) (i j : Nat) : Option MxWrite :=
  if c.admits i j then some (putTm (slotBlk s c.wrCopy) i j (val i j))
  else if c.fresh then some (putTm (slotBlk s c.wrCopy) i j (x.tmWord (tmAddr (slotBlk s c.rdCopy) i j)))
  else none

theorem putSlot_eq (c : MxCmd) (x : Tile) (s : BitVec 3) (val : Nat → Nat → PWord) :
    c.putSlot x s val = elems64.filterMap fun p => slotWrite c x s val p.1 p.2 := rfl

theorem slotWrite_place {c : MxCmd} {x : Tile} {s : BitVec 3} {val : Nat → Nat → PWord} {i j : Nat} {w : MxWrite}
    (h : slotWrite c x s val i j = some w) : w.tm = true ∧ w.addr = blockPlace (copyBlock s c.wrCopy) i j := by
  rw [← tmAddr_eq, ← slotBlk_eq]
  unfold slotWrite at h
  split at h
  · cases h; exact ⟨rfl, rfl⟩
  · split at h
    · cases h; exact ⟨rfl, rfl⟩
    · cases h

/-- A command whose writes are those of a slot gives the slot its values (11 R292). -/
theorem slotTakes_putSlot {c c' : MxCmd} {x : Tile} {s : BitVec 3} {val val' : Nat → Nat → PWord}
    (ho : c'.out = c.putSlot x s val) (hv : ∀ i j, i < 64 → j < 64 → val i j = val' i j) : SlotTakes x c c' s val' := by
  intro i j hi hj
  have hw := willWrite_element (ho.trans (putSlot_eq c x s val)) (fun _ _ _ => slotWrite_place) hi hj
  rw [hw]
  refine ⟨fun ha => ?_, fun ha hfr => ?_, fun ha hfr => ?_⟩
  · rw [slotWrite, if_pos ((admits_iff c i j).2 ha), Option.map_some, putTm, taint_word, hv i j hi hj]
  all_goals rw [slotWrite, if_neg (mt (admits_iff c i j).1 ha), hfr]
  · simp only [if_true, Option.map_some, putTm, taint_word, tmAddr_eq, slotBlk_eq]
  · rfl

/-- Writes of a slot are writes of tensor memory alone. -/
theorem willWrite_scratch_putSlot {c c' : MxCmd} {x : Tile} {s : BitVec 3} {val : Nat → Nat → PWord}
    (ho : c'.out = c.putSlot x s val) (a : Nat) : willWrite c' false a = none := by
  unfold willWrite
  rw [ho, putSlot_eq, Option.map_eq_none_iff, List.find?_eq_none]
  intro w hw
  obtain ⟨p, -, hp⟩ := List.mem_filterMap.1 hw
  simp [(slotWrite_place hp).1]

/-- A command overflows where an admitted element does. -/
theorem overflows_iff {c : MxCmd} {any : Nat × Nat → Bool} {flag : Nat → Nat → Bool}
    (h : ∀ i j, i < 64 → j < 64 → any (i, j) = (c.admits i j && flag i j)) : elems64.any any = true ↔ Overflows c flag := by
  rw [List.any_eq_true]
  constructor
  · rintro ⟨⟨i, j⟩, hm, hb⟩
    obtain ⟨hi, hj⟩ := mem_elems64.1 hm
    obtain ⟨ha, hf⟩ := Bool.and_eq_true_iff.1 ((h i j hi hj).symm.trans hb)
    exact ⟨i, j, hi, hj, (admits_iff c i j).1 ha, hf⟩
  · rintro ⟨i, j, hi, hj, ha, hf⟩
    exact ⟨(i, j), mem_elems64.2 ⟨hi, hj⟩, (h i j hi hj).trans (Bool.and_eq_true_iff.2 ⟨(admits_iff c i j).2 ha, hf⟩)⟩

end Sys2Proof.Machine
end

section
/-! SUPPORT. The rows and columns of a product: the lists the model reads hold the elements, scale words and poison of
the statements' rows and columns (04 R95, R106, R109; 11 R295 to R297, R302). -/

namespace Sys2Proof.Machine

open Sys2Proof.Claims

/-! ### Scale words -/

theorem contains_narrowFloat (f : Fmt) : [Fmt.e4m3, .e5m2, .e2m3, .e3m2, .e2m1].contains f = (f.isN && !f.isInt) := by
  cases f <;> rfl

theorem contains_wide (f : Fmt) : [Fmt.bf16, .f16].contains f = (f == .bf16 || f == .f16) := by
  cases f <;> rfl

theorem contains_narrowInt (f : Fmt) : [Fmt.i8, .i4].contains f = (f == .i8 || f == .i4) := by
  cases f <;> rfl

/-- The pairing's row says whether scale words are read (11 R295). -/
theorem pairing_scales (a b : Fmt) (int : Bool) (k : Nat) :
    ((pairing a b int k).map (·.1)).getD false =
      (pairingRows.find? fun r => r.formats.contains a && r.formats.contains b && r.int == int).any (·.scales) := by
  simp only [pairing, pairingRows, List.find?_cons, contains_narrowFloat, contains_wide, contains_narrowInt]
  generalize (a.isN && !a.isInt && (b.isN && !b.isInt)) = narrow
  generalize ((a == .bf16 || a == .f16) && (b == .bf16 || b == .f16)) = wide
  generalize ((a == .i8 || a == .i4) && (b == .i8 || b == .i4)) = ints
  cases int <;> cases narrow <;> cases wide <;> cases ints <;> rfl

theorem hasScale_eq (m : MxPar) : hasScale m = (pairingOf m).any (·.scales) := pairing_scales _ _ _ _

/-- The scale words of a row or column whose bytes are given, where the pairing reads any. -/
def scaleWords (m : MxPar) (at_ : Nat → List PByte) : List PWord :=
  if hasScale m then (List.range (MxPar.k m / 32)).map fun n => leVal (at_ n) else []

theorem scaleWords_getD {m : MxPar} (at_ : Nat → List PByte) (hs : hasScale m = true) {n : Nat} (hn : n < MxPar.k m / 32) :
    ((scaleWords m at_).map (·.1)).getD n 0 = numberOf (scaleBytes m at_ n) := by
  have hs' : (pairingOf m).any (·.scales) = true := hasScale_eq m ▸ hs
  simp [scaleWords, scaleBytes, hs, hs', hn, leVal_eq, wordOf]

theorem scaleWords_bad (m : MxPar) (at_ : Nat → List PByte) :
    (scaleWords m at_).any (·.2) = anyBad (MxPar.k m / 32) (scaleBytes m at_) := by
  unfold scaleWords anyBad scaleBytes
  rw [← hasScale_eq]
  cases hasScale m <;> simp [leVal_eq, wordOf, Function.comp_def]

/-! ### Rows and columns -/

/-- A list of elements and scale words holds a row or column over the depth K. -/
def HoldsSide (m : MxPar) (l : Line) (sd : Side) : Prop :=
  l.elems = (List.range (MxPar.k m)).map sd.elem ∧
    (hasScale m = true → ∀ n < MxPar.k m / 32, l.scales.getD n 0 = sd.scale n) ∧ l.bad = sd.bad

/-- The scale words of row i of A (11 R296). -/
theorem words_eq_scaleWords (g : Region) (fresh t : Nat) (m : MxPar) (a : Word) (i : Nat) :
    (if hasScale m then g.words fresh t (offsetBy a (MxPar.soA m) + 4 * i) 256 (MxPar.k m / 32) else []) =
      scaleWords m fun n => g.spRead fresh t (plus a (MxPar.soA m) + 256 * n + 4 * i) 4 := by
  unfold scaleWords Region.words
  simp only [Nat.add_right_comm]
  rfl

theorem rowA_holds (g : Region) (fresh t : Nat) (m : MxPar) (a : Word) (i : Nat) :
    HoldsSide m (g.rowA fresh t m a i) (denseRow g fresh t m a i) := by
  unfold Region.rowA denseRow
  simp only [words_eq_scaleWords, leVal_eq, wordOf, scaleWords_bad]
  exact ⟨rfl, fun hs n hn => scaleWords_getD _ hs hn, rfl⟩

theorem colB_holds (g : Region) (fresh t : Nat) (m : MxPar) (b : Word) (j : Nat) :
    HoldsSide m (g.colB fresh t m b j) (columnOfB g fresh t m b j) := by
  have hw : (if hasScale m then (List.range (MxPar.k m / 32)).map fun n =>
        leVal (g.bsRead fresh t j ((b.toNat + MxPar.soB m).toNat + 4 * n) 4) else []) =
      scaleWords m fun n => g.bsRead fresh t j (((b.toNat : Int) + MxPar.soB m).toNat + 4 * n) 4 := rfl
  unfold Region.colB columnOfB
  simp only [hw]
  simp only [leVal_eq, wordOf, scaleWords_bad]
  exact ⟨rfl, fun hs n hn => scaleWords_getD _ hs hn, rfl⟩

/-! ### The bypass -/

/-- Of updates that each may set a value, the last that does decides. -/
theorem foldl_or {α β : Type} {F : Option β → α → Option β} {v : α → Option β} (hF : ∀ b a, F b a = (v a).or b) (l : List α)
    (d : Option β) : l.foldl F d = (l.filterMap v).getLast?.or d := by
  induction l using List.reverseRecOn with
  | nil => rfl
  | append_singleton l a ih =>
    rw [List.foldl_append, List.foldl_cons, List.foldl_nil, hF, ih, List.filterMap_append]
    cases ha : v a <;> simp [ha]

theorem bypassNow_eq (x : Tile) : bypassNow x = ((x.mxq.filter (·.started)).filterMap (·.byp)).getLast?.or x.byp := by
  unfold bypassNow
  cases ((x.mxq.filter (·.started)).filterMap (·.byp)).getLast? <;> rfl

/-- A reader of the bypass takes row i of what it finds there (11 R287, R302). -/
theorem bypRow_eq {x : Tile} {b : Bypass} (hb : bypassNow x = some b) (i : Nat) :
    x.bypRow i = ⟨((b.elems.drop (64 * i)).take 64).map fun e => e.1.toNat, [], ((b.elems.drop (64 * i)).take 64).any (·.2)⟩ := by
  unfold Tile.bypRow
  rw [foldl_or (v := (·.byp)) (fun b c => by cases c.byp <;> rfl), ← bypassNow_eq, hb]

theorem bypassRow_eq {x : Tile} {b : Bypass} (hb : bypassNow x = some b) (i : Nat) :
    bypassRow x i = ⟨fun k => (((b.elems.drop (64 * i)).take 64).getD k (0, false)).1.toNat, fun _ => 0,
      ((b.elems.drop (64 * i)).take 64).any (·.2)⟩ := by
  unfold bypassRow
  rw [hb]

theorem bypRow_holds {x : Tile} {m : MxPar} {b : Bypass} {i : Nat} (hk : MxPar.k m = 64) (hb : bypassNow x = some b)
    (hl : b.elems.length = 4096) (hi : i < 64) : HoldsSide m (x.bypRow i) (bypassRow x i) := by
  rw [bypRow_eq hb, bypassRow_eq hb]
  have hlen : ((b.elems.drop (64 * i)).take 64).length = 64 := by
    rw [List.length_take, List.length_drop, hl]
    omega
  refine ⟨?_, fun _ n _ => List.getD_nil .., rfl⟩
  refine List.ext_getElem (by simp only [List.length_map, List.length_range, hlen, hk]) fun k h1 h2 => ?_
  rw [List.length_map] at h1
  simp only [List.getElem_map, List.getElem_range, List.getD_eq_getElem _ _ h1]

/-! ### Sparse rows -/

/-- A list of groups of 128, element by element. -/
theorem flatMap_groups {α : Type} (f : Nat → Nat → α) (n : Nat) :
    ((List.range n).flatMap fun q => (List.range 128).map (f q)) = (List.range (128 * n)).map fun k => f (k / 128) (k % 128) := by
  induction n with
  | zero => rfl
  | succ n ih =>
    rw [List.range_succ (n := n), List.flatMap_append, ih, Nat.mul_succ, List.range_add, List.map_append, List.map_map]
    congr 1
    rw [List.flatMap_singleton]
    refine List.map_congr_left fun k hk => ?_
    have hk := List.mem_range.1 hk
    simp only [Function.comp_apply]
    congr 1 <;> omega

/-- The last entry of a list that names a place stands there. -/
theorem foldl_last {α β : Type} (c : α → Bool) (v : α → β) (l : List α) (d : β) :
    l.foldl (fun e a => if c a = true then v a else e) d = (l.reverse.find? c).elim d v := by
  rw [List.foldl_eq_foldr_reverse]
  induction l.reverse with
  | nil => rfl
  | cons a l ih =>
    rw [List.foldr_cons, ih, List.find?_cons]
    cases c a <;> rfl

/-- The entries of a group of metadata bytes with their numbers. -/
theorem zipIdx_group {md : List PByte} {s n : Nat} (h : s + n ≤ md.length) :
    (((md.map fun b => b.1.toNat % 128).drop s).take n).zipIdx =
      (List.range n).map fun e => ((md.getD (s + e) (0, false)).1.toNat % 128, e) := by
  refine List.ext_getElem ?_ fun e h1 h2 => ?_
  · simp only [List.length_zipIdx, List.length_take, List.length_drop, List.length_map, List.length_range]
    omega
  · rw [List.length_map, List.length_range] at h2
    simp only [List.getElem_zipIdx, List.getElem_take, List.getElem_drop, List.getElem_map, List.getElem_range, Nat.zero_add,
      List.getD_eq_getElem _ _ (show s + e < md.length by omega)]

/-- Of the stored elements of a group that name one index, the highest-numbered one stands (04 R109). -/
theorem group_element {md : List PByte} {s n : Nat} (h : s + n ≤ md.length) (v : Nat → Nat) (r : Nat) :
    (((md.map fun b => b.1.toNat % 128).drop s).take n).zipIdx.foldl (fun e p => if p.1 = r then v p.2 else e) 0 =
      ((List.range n).reverse.find? fun e => (md.getD (s + e) (0, false)).1.toNat % 128 == r).elim 0 v := by
  rw [zipIdx_group h, List.foldl_map, ← foldl_last]
  simp only [beq_iff_eq]

theorem spRead_length (g : Region) (fresh t a n : Nat) : (g.spRead fresh t a n).length = n := by
  rw [Region.spRead, List.length_map, List.length_range]

/-- An element of a sparse row made dense. -/
theorem sparseRow_elem (g : Region) (fresh t : Nat) (m : MxPar) (a : Word) (i k : Nat) :
    (sparseRow g fresh t m a i).elem k =
      ((List.range (MxPar.n m)).reverse.find? fun e =>
        ((g.spRead fresh t (plus a (MxPar.mo m) + i * (MxPar.k m / 128 * MxPar.n m)) (MxPar.k m / 128 * MxPar.n m)).getD
          (k / 128 * MxPar.n m + e) (0, false)).1.toNat % 128 == k % 128).elim 0 fun e =>
        packedElement (MxPar.fmtA m).width (g.spRead fresh t (a.toNat + i * MxPar.pitchA m) (lineLength m true))
          (k / 128 * MxPar.n m + e) := by
  unfold sparseRow
  dsimp only
  split <;> rename_i h <;> rw [h] <;> rfl

theorem rowS_holds (g : Region) (fresh t : Nat) {m : MxPar} (a : Word) (i : Nat) (hk : MxPar.k m % 128 = 0) :
    HoldsSide m (g.rowS fresh t m a i) (sparseRow g fresh t m a i) := by
  have hd : 128 * (MxPar.k m / 128) = MxPar.k m := Nat.mul_div_cancel' (Nat.dvd_of_mod_eq_zero hk)
  unfold Region.rowS
  simp only [words_eq_scaleWords, leVal_eq, wordOf, scaleWords_bad]
  refine ⟨?_, fun hs n hn => scaleWords_getD _ hs hn, rfl⟩
  rw [flatMap_groups, hd]
  refine List.map_congr_left fun k hlt => ?_
  rw [sparseRow_elem]
  have hq : k / 128 < MxPar.k m / 128 := by
    have := List.mem_range.1 hlt
    omega
  have hin : k / 128 * MxPar.n m + MxPar.n m ≤ MxPar.k m / 128 * MxPar.n m := by
    rw [← Nat.succ_mul]
    exact Nat.mul_le_mul_right _ hq
  refine group_element ?_ (fun e => packedElement (MxPar.fmtA m).width
    (g.spRead fresh t (a.toNat + i * MxPar.pitchA m) (lineLength m true)) (k / 128 * MxPar.n m + e)) _
  rwa [spRead_length]

end Sys2Proof.Machine
end

section
/-! SUPPORT. The runs of a product over lists are the folds of the statements over runs (04 R106 to R108). -/

namespace Sys2Proof.Machine

open Sys2Proof.Claims

theorem depth_runs (m : MxPar) : MxPar.k m = 16 * (MxPar.k m / 16) := by
  unfold MxPar.k
  omega

/-- The elements of a row or column from run r on, for n runs. -/
def runElems (f : Nat → Nat) (r n : Nat) : List Nat := (List.range' (16 * r) (16 * n)).map f

theorem runElems_drop (f : Nat → Nat) (r n : Nat) : (runElems f r (n + 1)).drop 16 = runElems f (r + 1) n := by
  rw [runElems, ← List.map_drop, List.drop_range', runElems, Nat.mul_add, Nat.mul_add, Nat.add_sub_cancel]

theorem runElems_take (f : Nat → Nat) (r n : Nat) :
    (runElems f r (n + 1)).take 16 = (List.range 16).map fun i => f (16 * r + i) := by
  rw [runElems, ← List.map_take, Nat.mul_succ, Nat.add_comm (16 * n), ← List.range'_append_1, List.take_left' List.length_range',
    List.range'_eq_map_range, List.map_map]
  rfl

/-- The pairs of the first run. -/
theorem runElems_zip (f h : Nat → Nat) (r n : Nat) : ((runElems f r (n + 1)).take 16).zip ((runElems h r (n + 1)).take 16) =
    (List.range 16).map fun i => (f (16 * r + i), h (16 * r + i)) := by
  rw [runElems_take, runElems_take, List.zip_map']

theorem runElems_all (m : MxPar) (f : Nat → Nat) : (List.range (MxPar.k m)).map f = runElems f 0 (MxPar.k m / 16) := by
  rw [runElems, ← depth_runs, Nat.mul_zero, List.range_eq_range']

theorem runsF_eq (m : MxPar) (a b : Side) (sc : Nat → Exact) (n r acc : Nat) :
    runsF (MxPar.fmtA m) (MxPar.fmtB m) n r (runElems a.elem r n) (runElems b.elem r n) sc acc =
      (List.range' r n).foldl (fun acc run =>
        rn32 (Exact.sum false [f32Val acc, Exact.mul (runOf m a b run) (sc (run / 2))])) acc := by
  induction n generalizing r acc with
  | zero => rfl
  | succ n ih =>
    rw [runsF, runElems_zip, runElems_drop, runElems_drop, ih, List.range'_succ, List.foldl_cons, List.map_map]
    rfl

theorem runsI_eq (m : MxPar) (a b : Side) (n r : Nat) (acc : Int × Bool) :
    runsI (MxPar.fmtA m).width (MxPar.fmtB m).width n (runElems a.elem r n) (runElems b.elem r n) acc =
      (List.range' r n).foldl (fun acc run =>
        let t := acc.1 + ((List.range 16).map fun i =>
          signedOf (MxPar.fmtA m).width (a.elem (16 * run + i)) * signedOf (MxPar.fmtB m).width (b.elem (16 * run + i))).sum
        (signedOf 32 (lowBits 32 t), acc.2 || decide (t < -2 ^ 31 ∨ 2 ^ 31 - 1 < t))) acc := by
  induction n generalizing r acc with
  | zero => rfl
  | succ n ih =>
    obtain ⟨v, o⟩ := acc
    rw [runsI]
    dsimp only
    rw [runElems_zip, runElems_drop, runElems_drop, ih, List.range'_succ, List.foldl_cons, List.map_map]
    rfl

/-- The scale of a block, from lists that hold a row and a column. -/
theorem scaleAt_eq {m : MxPar} {la lb : Line} {a b : Side} (ha : HoldsSide m la a) (hb : HoldsSide m lb b) {n : Nat}
    (hn : n < MxPar.k m / 32) : scaleAt m la lb n = blockScale m a b n := by
  obtain ⟨-, hsa, -⟩ := ha
  obtain ⟨-, hsb, -⟩ := hb
  unfold scaleAt blockScale
  rw [← hasScale_eq]
  by_cases hs : hasScale m = true
  · rw [if_pos hs, if_pos hs, hsa hs n hn, hsb hs n hn]
  · rw [if_neg hs, if_neg hs]

/-- The element of a product depends only on the row and column that the lists hold. -/
theorem product_eq {m : MxPar} {la lb : Line} {a b : Side} (ha : HoldsSide m la a) (hb : HoldsSide m lb b) (start : Nat) :
    product m la lb start = productElement m a b start := by
  have ⟨hea, _, _⟩ := ha
  have ⟨heb, _, _⟩ := hb
  unfold product productElement
  rw [hea, heb, runElems_all, runElems_all]
  split
  · rw [runsI_eq, ← List.range_eq_range']
    rfl
  · rw [runsF_eq, ← List.range_eq_range']
    refine congrArg (·, false) (List.foldl_ext _ _ _ fun acc run hr => ?_)
    have hlt : run / 2 < MxPar.k m / 32 := by
      have hrun := List.mem_range.1 hr
      have hk : 32 ∣ MxPar.k m := Nat.dvd_mul_right ..
      omega
    rw [scaleAt_eq ha hb hlt]

/-! ### What a product is going to write -/

/-- The command once started as a product: its writes and whether it overflows. -/
def MxCmd.startedProduct (c : MxCmd) (x : Tile) (s : BitVec 3) (set : Bool) (rows cols : Nat → Line) : MxCmd :=
  let p := c.multiply x s set ((List.range 64).map rows) ((List.range 64).map cols)
  { c with out := p.1, ovf := p.2 }

/-- What an MMA and an MMAS start as (11 R287). -/
theorem mxRun_product (g : Region) (fresh t : Nat) (c : MxCmd) :
    (∀ s set byp, c.op = .mma s set byp → g.mxRun fresh t c = c.startedProduct (g.tile t) s set
      (fun i => if byp then (g.tile t).bypRow i else g.rowA fresh t c.mp c.addrA i) (g.colB fresh t c.mp c.addrB)) ∧
    (∀ s set, c.op = .mmas s set → g.mxRun fresh t c =
      c.startedProduct (g.tile t) s set (g.rowS fresh t c.mp c.addrA) (g.colB fresh t c.mp c.addrB)) := by
  unfold Region.mxRun MxCmd.startedProduct
  exact ⟨fun s set byp h => by rw [h], fun s set h => by rw [h]⟩

/-- A product multiplies the rows and columns that its lists hold. -/
theorem startedProduct_multiplies {c : MxCmd} (x : Tile) (s : BitVec 3) (set : Bool) {rows cols : Nat → Line}
    {sideRows sideCols : Nat → Side} (hr : ∀ i < 64, HoldsSide c.mp (rows i) (sideRows i))
    (hc : ∀ j < 64, HoldsSide c.mp (cols j) (sideCols j)) :
    Multiplies x c (c.startedProduct x s set rows cols) s set sideRows sideCols := by
  have hget (l : Nat → Line) {i : Nat} (hi : i < 64) : ((List.range 64).map l).getD i ⟨[], [], false⟩ = l i := by
    rw [List.getD_eq_getElem _ _ (by simpa using hi), List.getElem_map, List.getElem_range]
  have hstart (i j : Nat) : c.startVal x s set i j = startElement x c s set i j := by
    rw [MxCmd.startVal, startElement, tmAddr_eq, slotBlk_eq]
  have ho : (c.startedProduct x s set rows cols).out =
      (c.multiply x s set ((List.range 64).map rows) ((List.range 64).map cols)).1 := rfl
  have hf : (c.startedProduct x s set rows cols).ovf =
      (c.multiply x s set ((List.range 64).map rows) ((List.range 64).map cols)).2 := rfl
  unfold MxCmd.multiply at ho hf
  dsimp only at ho hf
  refine ⟨slotTakes_putSlot ho fun i j hi hj => ?_, ?_, willWrite_scratch_putSlot ho⟩
  · obtain ⟨-, -, hbr⟩ := hr i hi
    obtain ⟨-, -, hbc⟩ := hc j hj
    rw [hget rows hi, hget cols hj, product_eq (hr i hi) (hc j hj), hbr, hbc, hstart]
  · rw [hf]
    refine overflows_iff fun i j hi hj => ?_
    rw [hget rows hi, hget cols hj, product_eq (hr i hi) (hc j hj), hstart]

/-- Settles O25: a product's lists hold the rows and columns of the statement, its runs are folds over them, and the places
it writes are apart. -/
theorem matrixProductsComputeTheirElements : Obligations.MatrixProductsComputeTheirElements := by
  intro g fresh t c
  obtain ⟨hmma, hmmas⟩ := mxRun_product g fresh t c
  refine ⟨fun s set byp hop hbyp => ?_, fun s set hop hk => ?_⟩
  · rw [hmma s set byp hop]
    refine startedProduct_multiplies _ s set (fun i hi => ?_) fun j _ => colB_holds g fresh t c.mp c.addrB j
    cases byp with
    | false => exact rowA_holds g fresh t c.mp c.addrA i
    | true =>
      obtain ⟨hk, b, hb, hl⟩ := hbyp rfl
      exact bypRow_holds hk hb hl hi
  · rw [hmmas s set hop]
    exact startedProduct_multiplies _ s set (fun i _ => rowS_holds g fresh t c.addrA i hk)
      fun j _ => colB_holds g fresh t c.mp c.addrB j

end Sys2Proof.Machine
end
